-- ==== Sys2Proof/Word.lean ====
section
/-! DEFINITION. The word types and the plainest helpers over them (R3: bits are numbered from 0, values are little-endian). -/

namespace Sys2Proof

/-- A 32-bit word: a lane or uniform register, an instruction word (R12, R43). -/
abbrev Word := BitVec 32

/-- One byte. -/
abbrev Byte := BitVec 8

/-- `Bits(x, hi, lo)` of R8 on a natural number: the field that starts at bit `lo` and has `len` bits. -/
def fieldOf (x lo len : Nat) : Nat := x / 2 ^ lo % 2 ^ len

/-- A signed integer read from the low `n` bits of a natural number (two's complement, R13). -/
def signedOf (n x : Nat) : Int :=
  if x % 2 ^ n < 2 ^ (n - 1) then ((x % 2 ^ n : Nat) : Int) else ((x % 2 ^ n : Nat) : Int) - ((2 ^ n : Nat) : Int)

/-- `SatZn` of R8. -/
def satZ (n : Nat) (x : Int) : Int := max (-((2 ^ (n - 1) : Nat) : Int)) (min x (((2 ^ (n - 1) : Nat) : Int) - 1))

/-- `SatNn` of R8. -/
def satN (n : Nat) (x : Int) : Int := max 0 (min x (((2 ^ n : Nat) : Int) - 1))

end Sys2Proof
end

