-- ==== Sys2Proof/Config.lean ====
section
/-! DEFINITION. The free values: constants without a body, which nothing can evaluate. Each stands for a value that the manual
leaves open or does not give an algorithm for in its text; the log entry named says why. -/

namespace Sys2Proof

/-- R377 (log 10): byte `i` of a line of a compressed block read under another key or place than it was written under, from the two
keys and lines (none for plain storage) and the line's bytes as written: what the block's form, which the manual keeps internal
(R374), decodes to. -/
opaque Config.recrypt (stored request : Option (BitVec 512 × Nat)) (bytes : List Byte) (i : Nat) : Byte

/-- R423 (log 10): what an erased key slot holds. -/
opaque Config.erasedKey (slot : Fin 8) : BitVec 512

/-- R207, R373 (log 67): which of the lines that a full cache holds leaves it for another, by the number of the choice. -/
opaque Config.victim (n : Nat) : Nat

/-- R220 (log 7): which of the writes that a read of a byte may take it takes, by the number of the choice and the byte's address. -/
opaque Config.readsFrom (n address : Nat) : Nat

/-- R215 (log 7): where among the writes that it may stand beside a write takes its place in the coherence order. -/
opaque Config.standsAt (n address : Nat) : Nat

/-- R213 (log 7): the scope table of a peer package places this package within `n` hops. -/
opaque Config.peerPlaces (package n : Nat) : Bool

/-- R374 (log 11): the length of the encoded form of a 1 KiB block. -/
opaque Config.encodedLength (bytes : List Byte) : Nat

/-- R377 (log 11): a compressed block decoded under another key happens to give the length that its header declares. -/
opaque Config.lengthMatches (stored request : Option (BitVec 512 × Nat)) (bytes : List Byte) : Bool

/-- R425, R426 (log 12): a SHAKE256 digest of 64 bytes, as a number. -/
opaque Config.digest (bytes : List Byte) : BitVec 512

/-- R426 (log 12): an Ed448 signature of 114 bytes under the identity key, as a number. -/
opaque Config.signature (bytes : List Byte) : BitVec 912

/-- R425 (log 12): whether an image of a kind passes the root of trust's check. -/
opaque Config.imageGood (kind : Nat) (image : List Byte) : Bool

/-- R427 (log 13): the end of life, in months, that firmware predicts for a unit from its drift counter, stress integrator and count of
corrections. -/
opaque Config.endOfLife (unit drift stress ecc : Nat) : Nat

/-- R429 (log 13): the conservative start value of a unit's stress integrator. -/
opaque Config.wearStart (unit : Nat) : Nat

/-- R429 (log 13): at boot the host gives back the blob of the wear monitors that this device signed. -/
opaque Config.blobBack (n : Nat) : Bool

/-- R258 (log 75): how far the scheduler has come with a fill at dispatch: not begun, begun, or done. -/
opaque Config.ahead (n : Nat) : Nat

/-- R310 (log 14): the Guidon's choice of the bank path for a call. -/
opaque Config.guidon (n : Nat) : Bool

/-- R194 (log 22): the start of the private area of the team of a number, in lines of 128 bytes. -/
opaque Config.areaLine (team : Nat) : Nat

/-- R407 (log 16): byte `i` of the engine image of a context save. -/
opaque Config.imageByte (save i : Nat) : Byte

/-- R418, R426 (log 23): where in the tenant's common-memory window firmware puts the job record of a number. -/
opaque Config.jobOffset (seq : Nat) : Nat

/-- R423 (log 24): byte `i` of a dirty line that a cache dropped without writing it back, by the number of the loss. -/
opaque Config.lostByte (n i : Nat) : Byte

/-- R425, R429 (log 25): the image of a kind that module flash holds. -/
opaque Config.flash (kind : Nat) : List Byte

/-- R341 (log 25): the emulation image of a compute chiplet that module flash holds. -/
opaque Config.emulImage (chip : Fin 8) : List Byte

/-- R341 (log 12): an emulation image holds a sequence for every combination that is not native on a class. -/
opaque Config.emulCovers (cls : Nat) (image : List Byte) : Bool

/-- R420 (log 81): a peer package exports and translates an offset for this package, by the number of the time. -/
opaque Config.peerServes (time package offset : Nat) : Bool

/-- R419 (log 25): a UALink port trains at boot. -/
opaque Config.trains (link : Nat) : Bool

/-- R419 (log 25): the package number that the fabric manager assigns. -/
opaque Config.package : Nat

/-- R419, R213 (log 25): the scope-table entry that probing a peer package gives. -/
opaque Config.hops (package : Nat) : Word

end Sys2Proof
end

