-- ==== Sys2Proof/Machine/Aes.lean ====
section
/-! DEFINITION. AES-256-XTS, the cipher of R376: AES with a 256-bit key, and the XTS mode over the 16-byte blocks of a data unit. -/

namespace Sys2Proof.Machine

/-! ### The field of 256 elements -/

/-- Twice an element of the field of AES. -/
def gfDouble (x : Byte) : Byte := if x.msb then (x <<< 1) ^^^ 0x1B#8 else x <<< 1

/-- The product of two elements. -/
def gfMul (a b : Byte) : Byte :=
  ((List.range 8).foldl (fun (s : Byte × Byte) i => (if b.getLsbD i then s.1 ^^^ s.2 else s.1, gfDouble s.2)) (0, a)).1

/-- The inverse of an element, and 0 of 0: its power 254. -/
def gfInv (x : Byte) : Byte :=
  let x2 := gfMul x x
  let x3 := gfMul x2 x
  let x12 := gfMul (gfMul x3 x3) (gfMul x3 x3)
  let x15 := gfMul x12 x3
  let sq := fun y => gfMul y y
  gfMul (gfMul (sq (sq (sq (sq x15)))) x12) x2

/-- The substitution of AES. -/
def subByte (x : Byte) : Byte :=
  let b := gfInv x
  b ^^^ b.rotateLeft 1 ^^^ b.rotateLeft 2 ^^^ b.rotateLeft 3 ^^^ b.rotateLeft 4 ^^^ 0x63#8

/-- Its inverse. -/
def subByteInv (y : Byte) : Byte := gfInv (y.rotateLeft 1 ^^^ y.rotateLeft 3 ^^^ y.rotateLeft 6 ^^^ 0x05#8)

/-! ### AES-256 -/

/-- Bitwise exclusive or of byte lists. -/
def xorBytes (a b : List Byte) : List Byte := List.zipWith (· ^^^ ·) a b

/-- Word `i` of the key schedule, given the words before it, latest first. -/
def scheduleNext (ws : List (List Byte)) (i : Nat) : List Byte :=
  let last := ws.getD 0 []
  let t :=
    if i % 8 = 0 then xorBytes ((last.rotateLeft 1).map subByte) [(List.range (i / 8 - 1)).foldl (fun x _ => gfDouble x) 1, 0, 0, 0]
    else if i % 8 = 4 then last.map subByte
    else last
  xorBytes (ws.getD 7 []) t

/-- The fifteen round keys of a key of 32 bytes, each of 16 bytes. -/
def roundKeys (key : List Byte) : List (List Byte) :=
  let first := ((List.range 8).map fun i => (key.drop (4 * i)).take 4).reverse
  let ws := ((List.range 52).foldl (fun ws i => scheduleNext ws (i + 8) :: ws) first).reverse
  (List.range 15).map fun r => ((ws.drop (4 * r)).take 4).flatten

/-- Row `r` of the state is turned by `r` columns; byte `4c + r` is that of row `r` and column `c`. -/
def shiftRows (back : Bool) (x : List Byte) : List Byte :=
  (List.range 16).map fun i => x.getD (4 * ((i / 4 + (if back then 4 - i % 4 else i % 4)) % 4) + i % 4) 0

/-- The columns of the state are multiplied by the matrix whose first row is given. -/
def mixColumns (row : List Byte) (x : List Byte) : List Byte :=
  (List.range 16).map fun i => (List.range 4).foldl (fun s j => s ^^^ gfMul (row.getD ((j + 4 - i % 4) % 4) 0) (x.getD (4 * (i / 4) + j) 0)) 0

/-- Encrypts a block under a key of 32 bytes. -/
def aesEncrypt (key block : List Byte) : List Byte :=
  match roundKeys key with
  | [] => block
  | k :: ks =>
    ks.zipIdx.foldl (fun x r =>
      let y := shiftRows false (x.map subByte)
      xorBytes (if r.2 = 13 then y else mixColumns [2, 3, 1, 1] y) r.1) (xorBytes block k)

/-- Decrypts a block under a key of 32 bytes. -/
def aesDecrypt (key block : List Byte) : List Byte :=
  match (roundKeys key).reverse with
  | [] => block
  | k :: ks =>
    ks.zipIdx.foldl (fun x r =>
      let y := xorBytes ((shiftRows true x).map subByteInv) r.1
      if r.2 = 13 then y else mixColumns [14, 11, 13, 9] y) (xorBytes block k)

/-! ### XTS -/

/-- `n` bytes of a number, low first. -/
def bytesOf (n x : Nat) : List Byte := (List.range n).map fun i => BitVec.ofNat 8 (x / 256 ^ i)

/-- The mask of block `j` of a data unit: its encrypted tweak times the `j`-th power of the generator. -/
def xtsMask (key : BitVec 512) (tweak j : Nat) : List Byte :=
  let t := (aesEncrypt (bytesOf 32 (key.toNat / 2 ^ 256)) (bytesOf 16 tweak)).zipIdx.foldl (fun x b => x + b.1.toNat * 256 ^ b.2) 0
  bytesOf 16 ((List.range j).foldl (fun x _ => if 2 ^ 127 ≤ x then (2 * x % 2 ^ 128) ^^^ 0x87 else 2 * x) t)

/-- R376: encrypts block `j` of the data unit with that tweak. The low half of the key is that of the data. -/
def xtsEncrypt (key : BitVec 512) (tweak j : Nat) (block : List Byte) : List Byte :=
  let m := xtsMask key tweak j
  xorBytes (aesEncrypt (bytesOf 32 key.toNat) (xorBytes block m)) m

/-- R376, R377: decrypts it. -/
def xtsDecrypt (key : BitVec 512) (tweak j : Nat) (block : List Byte) : List Byte :=
  let m := xtsMask key tweak j
  xorBytes (aesDecrypt (bytesOf 32 key.toNat) (xorBytes block m)) m

end Sys2Proof.Machine
end

