-- ==== Sys2Proof/Syntax.lean ====
section
/-! DEFINITION. The instructions: one constructor for each row of the opcode table. The first 306 are instruction words
(R43, R54 to R73); their arguments are the fields of the row, in descending bit order. The last 70 are the steps of the
device without a word (95_what_each_step_holds); their arguments say where the step takes place. -/

namespace Sys2Proof

/-- R54: an extent code. -/
abbrev Ext := Fin 8
/-- R1: the 384 cores, numbered chiplet by chiplet and row by row (log 3). -/
abbrev CoreId := Fin 384
/-- R1: the 96 quads, numbered chiplet by chiplet (log 3). -/
abbrev QuadId := Fin 96
/-- R90: a residency slot of a core. -/
abbrev Slot := Fin 32
/-- R88: a home lane. -/
abbrev Lane := Fin 32

/-- R55: an 8-bit A field names a lane register or, from 128, a uniform register. -/
inductive LaneSrc where
  | v (n : Fin 128)
  | s (n : Fin 128)
  deriving DecidableEq, Repr

/-- R72: B of a uniform word with bit I: a uniform register, or the 7-bit immediate. -/
inductive USrc where
  | reg (n : Fin 128)
  | imm (x : BitVec 7)
  deriving DecidableEq, Repr

/-- R227: an operation of the host: a load, a store, a read-modify-write, which writes where it reads what it expects, or a fence. -/
inductive HostOp where
  | read (len : Nat)
  | write (data : List Byte)
  | rmw (expected data : List Byte)
  | fence
  deriving DecidableEq, Repr

/-- R216, R227: an operation of an agent of the host, with its ordering: 0 none, 1 acquire, 2 release, 3 both, 4 sc. -/
structure HostAsk where
  agent : Nat
  order : Nat
  op    : HostOp
  deriving DecidableEq, Repr

/-- R228: a requester of the host, and the address that it reads or writes. -/
structure HostSpot where
  agent : Nat
  addr  : Nat
  deriving DecidableEq, Repr

/-- R224, R420: who asks from another package, with the ordering and the scope of the request. -/
structure PeerAsk where
  package : Nat
  agent   : Nat
  order   : Nat
  scope   : Nat
  deriving DecidableEq, Repr

/-- The rows of the opcode table. -/
inductive Instr where
  /-- R66: `PREFIX`. -/
  | pfx (m : Fin 64) (s : Bool) (r : Fin 8) (z : Bool) (f : Fin 128) (o : Fin 8) (c : Fin 16)
  /-- R135: `IADD`. -/
  | iadd (e : Ext) (d : Fin 128) (a : LaneSrc) (b : Fin 128)
  /-- R135: `ISUB`. -/
  | isub (e : Ext) (d : Fin 128) (a : LaneSrc) (b : Fin 128)
  /-- R135: `IMUL`. -/
  | imul (e : Ext) (d : Fin 128) (a : LaneSrc) (b : Fin 128)
  /-- R135: `IMAD`. -/
  | imad (e : Ext) (d : Fin 128) (a : LaneSrc) (b : Fin 128)
  /-- R135: `IADDI`. -/
  | iaddi (e : Ext) (d : Fin 128) (a : LaneSrc) (m : BitVec 7)
  /-- R139: `ISHI_SHL`. -/
  | ishiShl (e : Ext) (d : Fin 128) (a : LaneSrc) (n : Fin 32)
  /-- R139: `ISHI_SHR_N`. -/
  | ishiShrN (e : Ext) (d : Fin 128) (a : LaneSrc) (n : Fin 32)
  /-- R139: `ISHI_SHR_Z`. -/
  | ishiShrZ (e : Ext) (d : Fin 128) (a : LaneSrc) (n : Fin 32)
  /-- R139: `ISHI_ROL`. -/
  | ishiRol (e : Ext) (d : Fin 128) (a : LaneSrc) (n : Fin 32)
  /-- R138: `AND`. -/
  | and (e : Ext) (d : Fin 128) (a : LaneSrc) (b : Fin 128)
  /-- R138: `OR`. -/
  | or (e : Ext) (d : Fin 128) (a : LaneSrc) (b : Fin 128)
  /-- R138: `XOR`. -/
  | xor (e : Ext) (d : Fin 128) (a : LaneSrc) (b : Fin 128)
  /-- R138: `SHL`. -/
  | shl (e : Ext) (d : Fin 128) (a : LaneSrc) (b : Fin 128)
  /-- R138: `SHR_N`. -/
  | shrN (e : Ext) (d : Fin 128) (a : LaneSrc) (b : Fin 128)
  /-- R138: `SHR_Z`. -/
  | shrZ (e : Ext) (d : Fin 128) (a : LaneSrc) (b : Fin 128)
  /-- R137: `IMIN_Z`. -/
  | iminZ (e : Ext) (d : Fin 128) (a : LaneSrc) (b : Fin 128)
  /-- R137: `IMAX_Z`. -/
  | imaxZ (e : Ext) (d : Fin 128) (a : LaneSrc) (b : Fin 128)
  /-- R137: `IMIN_N`. -/
  | iminN (e : Ext) (d : Fin 128) (a : LaneSrc) (b : Fin 128)
  /-- R137: `IMAX_N`. -/
  | imaxN (e : Ext) (d : Fin 128) (a : LaneSrc) (b : Fin 128)
  /-- R135: `IMULH_Z`. -/
  | imulhZ (e : Ext) (d : Fin 128) (a : LaneSrc) (b : Fin 128)
  /-- R135: `IMULH_N`. -/
  | imulhN (e : Ext) (d : Fin 128) (a : LaneSrc) (b : Fin 128)
  /-- R136: `IDIV_Z`. -/
  | idivZ (e : Ext) (d : Fin 128) (a : LaneSrc) (b : Fin 128)
  /-- R136: `IDIV_N`. -/
  | idivN (e : Ext) (d : Fin 128) (a : LaneSrc) (b : Fin 128)
  /-- R141: `IUN_MOV`. -/
  | iunMov (e : Ext) (d : Fin 128) (a : LaneSrc)
  /-- R141: `IUN_NOT`. -/
  | iunNot (e : Ext) (d : Fin 128) (a : LaneSrc)
  /-- R141: `IUN_NEG`. -/
  | iunNeg (e : Ext) (d : Fin 128) (a : LaneSrc)
  /-- R141: `IUN_ABS`. -/
  | iunAbs (e : Ext) (d : Fin 128) (a : LaneSrc)
  /-- R141: `IUN_POPC`. -/
  | iunPopc (e : Ext) (d : Fin 128) (a : LaneSrc)
  /-- R141: `IUN_CLZ`. -/
  | iunClz (e : Ext) (d : Fin 128) (a : LaneSrc)
  /-- R141: `IUN_CTZ`. -/
  | iunCtz (e : Ext) (d : Fin 128) (a : LaneSrc)
  /-- R141: `IUN_BREV`. -/
  | iunBrev (e : Ext) (d : Fin 128) (a : LaneSrc)
  /-- R141: `IUN_BSWAP`. -/
  | iunBswap (e : Ext) (d : Fin 128) (a : LaneSrc)
  /-- R141: `IUN_SEXT8`. -/
  | iunSext8 (e : Ext) (d : Fin 128) (a : LaneSrc)
  /-- R141: `IUN_SEXT16`. -/
  | iunSext16 (e : Ext) (d : Fin 128) (a : LaneSrc)
  /-- R141: `IUN_ZEXT8`. -/
  | iunZext8 (e : Ext) (d : Fin 128) (a : LaneSrc)
  /-- R141: `IUN_ZEXT16`. -/
  | iunZext16 (e : Ext) (d : Fin 128) (a : LaneSrc)
  /-- R141: `IUN_FNEG`. -/
  | iunFneg (e : Ext) (d : Fin 128) (a : LaneSrc)
  /-- R141: `IUN_FABS`. -/
  | iunFabs (e : Ext) (d : Fin 128) (a : LaneSrc)
  /-- R140: `BFX_N`. -/
  | bfxN (e : Ext) (d : Fin 128) (a : LaneSrc) (b : Fin 128)
  /-- R140: `BFX_Z`. -/
  | bfxZ (e : Ext) (d : Fin 128) (a : LaneSrc) (b : Fin 128)
  /-- R140: `BFI`. -/
  | bfi (e : Ext) (d : Fin 128) (a : LaneSrc) (b : Fin 128)
  /-- R142: `ICMP`. -/
  | icmp (c : Fin 8) (x : Bool) (p : Fin 64) (a : LaneSrc) (b : Fin 128)
  /-- R142: `ICMPI`. -/
  | icmpi (c : Fin 8) (x : Bool) (p : Fin 64) (a : LaneSrc) (m : BitVec 7)
  /-- R142: `FCMP`. -/
  | fcmp (c : Fin 8) (x : Bool) (p : Fin 64) (a : LaneSrc) (b : Fin 128)
  /-- R143: `PRED_AND`. -/
  | predAnd (b : Fin 64) (d : Fin 64) (a : Fin 64)
  /-- R143: `PRED_OR`. -/
  | predOr (b : Fin 64) (d : Fin 64) (a : Fin 64)
  /-- R143: `PRED_XOR`. -/
  | predXor (b : Fin 64) (d : Fin 64) (a : Fin 64)
  /-- R143: `PRED_ANDN`. -/
  | predAndn (b : Fin 64) (d : Fin 64) (a : Fin 64)
  /-- R143: `PRED_ORN`. -/
  | predOrn (b : Fin 64) (d : Fin 64) (a : Fin 64)
  /-- R143: `PRED_NOT`. -/
  | predNot (d : Fin 64) (a : Fin 64)
  /-- R143: `PRED_MOV`. -/
  | predMov (d : Fin 64) (a : Fin 64)
  /-- R143: `PRED_TOV`. -/
  | predTov (d : Fin 128) (a : Fin 64)
  /-- R143: `PRED_FROMV`. -/
  | predFromv (d : Fin 64) (a : LaneSrc)
  /-- R144: `FADD`. -/
  | fadd (e : Ext) (d : Fin 128) (a : LaneSrc) (b : Fin 128)
  /-- R144: `FSUB`. -/
  | fsub (e : Ext) (d : Fin 128) (a : LaneSrc) (b : Fin 128)
  /-- R144: `FMUL`. -/
  | fmul (e : Ext) (d : Fin 128) (a : LaneSrc) (b : Fin 128)
  /-- R144: `FFMA`. -/
  | ffma (e : Ext) (d : Fin 128) (a : LaneSrc) (b : Fin 128)
  /-- R145: `FMIN`. -/
  | fmin (e : Ext) (d : Fin 128) (a : LaneSrc) (b : Fin 128)
  /-- R145: `FMAX`. -/
  | fmax (e : Ext) (d : Fin 128) (a : LaneSrc) (b : Fin 128)
  /-- R144: `FDIV`. -/
  | fdiv (e : Ext) (d : Fin 128) (a : LaneSrc) (b : Fin 128)
  /-- R148: `FUN_RCP`. -/
  | funRcp (e : Ext) (d : Fin 128) (a : LaneSrc)
  /-- R148: `FUN_RSQRT`. -/
  | funRsqrt (e : Ext) (d : Fin 128) (a : LaneSrc)
  /-- R148: `FUN_SQRT`. -/
  | funSqrt (e : Ext) (d : Fin 128) (a : LaneSrc)
  /-- R148: `FUN_EXP2`. -/
  | funExp2 (e : Ext) (d : Fin 128) (a : LaneSrc)
  /-- R148: `FUN_LOG2`. -/
  | funLog2 (e : Ext) (d : Fin 128) (a : LaneSrc)
  /-- R148: `FUN_SINPI`. -/
  | funSinpi (e : Ext) (d : Fin 128) (a : LaneSrc)
  /-- R148: `FUN_COSPI`. -/
  | funCospi (e : Ext) (d : Fin 128) (a : LaneSrc)
  /-- R148: `FUN_TANH`. -/
  | funTanh (e : Ext) (d : Fin 128) (a : LaneSrc)
  /-- R148: `FUN_LOGISTIC`. -/
  | funLogistic (e : Ext) (d : Fin 128) (a : LaneSrc)
  /-- R146: `HADD2`. -/
  | hadd2 (e : Ext) (d : Fin 128) (a : LaneSrc) (b : Fin 128)
  /-- R146: `HMUL2`. -/
  | hmul2 (e : Ext) (d : Fin 128) (a : LaneSrc) (b : Fin 128)
  /-- R146: `HFMA2`. -/
  | hfma2 (e : Ext) (d : Fin 128) (a : LaneSrc) (b : Fin 128)
  /-- R146: `BFMA2`. -/
  | bfma2 (e : Ext) (d : Fin 128) (a : LaneSrc) (b : Fin 128)
  /-- R147: `LADD`. -/
  | ladd (e : Ext) (d : Fin 128) (a : LaneSrc) (b : Fin 128)
  /-- R147: `LMUL`. -/
  | lmul (e : Ext) (d : Fin 128) (a : LaneSrc) (b : Fin 128)
  /-- R151: `CVT_F16_F32`. -/
  | cvtF16F32 (e : Ext) (d : Fin 128) (a : LaneSrc)
  /-- R151: `CVT_BF16_F32`. -/
  | cvtBf16F32 (e : Ext) (d : Fin 128) (a : LaneSrc)
  /-- R151: `CVT_F32_F16`. -/
  | cvtF32F16 (e : Ext) (d : Fin 128) (a : LaneSrc)
  /-- R151: `CVT_F32_BF16`. -/
  | cvtF32Bf16 (e : Ext) (d : Fin 128) (a : LaneSrc)
  /-- R151: `CVT_E4M3_F32`. -/
  | cvtE4m3F32 (e : Ext) (d : Fin 128) (a : LaneSrc)
  /-- R151: `CVT_E5M2_F32`. -/
  | cvtE5m2F32 (e : Ext) (d : Fin 128) (a : LaneSrc)
  /-- R151: `CVT_F32_E4M3`. -/
  | cvtF32E4m3 (e : Ext) (d : Fin 128) (a : LaneSrc)
  /-- R151: `CVT_F32_E5M2`. -/
  | cvtF32E5m2 (e : Ext) (d : Fin 128) (a : LaneSrc)
  /-- R151: `CVT_Z32_F32`. -/
  | cvtZ32F32 (e : Ext) (d : Fin 128) (a : LaneSrc)
  /-- R151: `CVT_N32_F32`. -/
  | cvtN32F32 (e : Ext) (d : Fin 128) (a : LaneSrc)
  /-- R151: `CVT_F32_Z32`. -/
  | cvtF32Z32 (e : Ext) (d : Fin 128) (a : LaneSrc)
  /-- R151: `CVT_F32_N32`. -/
  | cvtF32N32 (e : Ext) (d : Fin 128) (a : LaneSrc)
  /-- R151: `CVT_Z16_F32`. -/
  | cvtZ16F32 (e : Ext) (d : Fin 128) (a : LaneSrc)
  /-- R151: `CVT_N16_F32`. -/
  | cvtN16F32 (e : Ext) (d : Fin 128) (a : LaneSrc)
  /-- R151: `CVT_Z8_F32`. -/
  | cvtZ8F32 (e : Ext) (d : Fin 128) (a : LaneSrc)
  /-- R151: `CVT_N8_F32`. -/
  | cvtN8F32 (e : Ext) (d : Fin 128) (a : LaneSrc)
  /-- R151: `CVT_F32_Z8`. -/
  | cvtF32Z8 (e : Ext) (d : Fin 128) (a : LaneSrc)
  /-- R151: `CVT_F32_N8`. -/
  | cvtF32N8 (e : Ext) (d : Fin 128) (a : LaneSrc)
  /-- R151: `CVT_F32_Z16`. -/
  | cvtF32Z16 (e : Ext) (d : Fin 128) (a : LaneSrc)
  /-- R151: `CVT_F32_N16`. -/
  | cvtF32N16 (e : Ext) (d : Fin 128) (a : LaneSrc)
  /-- R151: `CVT_Z16_Z32`. -/
  | cvtZ16Z32 (e : Ext) (d : Fin 128) (a : LaneSrc)
  /-- R151: `CVT_N16_Z32`. -/
  | cvtN16Z32 (e : Ext) (d : Fin 128) (a : LaneSrc)
  /-- R151: `CVT_Z8_Z32`. -/
  | cvtZ8Z32 (e : Ext) (d : Fin 128) (a : LaneSrc)
  /-- R151: `CVT_N8_Z32`. -/
  | cvtN8Z32 (e : Ext) (d : Fin 128) (a : LaneSrc)
  /-- R151: `CVT_L16_F32`. -/
  | cvtL16F32 (e : Ext) (d : Fin 128) (a : LaneSrc)
  /-- R151: `CVT_F32_L16`. -/
  | cvtF32L16 (e : Ext) (d : Fin 128) (a : LaneSrc)
  /-- R151: `CVT_L8_F32`. -/
  | cvtL8F32 (e : Ext) (d : Fin 128) (a : LaneSrc)
  /-- R151: `CVT_F32_L8`. -/
  | cvtF32L8 (e : Ext) (d : Fin 128) (a : LaneSrc)
  /-- R152: `CVT_Z8_TN5LO`. -/
  | cvtZ8Tn5lo (e : Ext) (d : Fin 128) (a : LaneSrc)
  /-- R152: `CVT_Z8_TN5HI`. -/
  | cvtZ8Tn5hi (e : Ext) (d : Fin 128) (a : LaneSrc)
  /-- R152: `CVT_TN5_Z8`. -/
  | cvtTn5Z8 (e : Ext) (d : Fin 128) (a : LaneSrc)
  /-- R351: `QNT_MXP`. -/
  | qntMxp (f : Fin 8) (d : Fin 128) (a : LaneSrc)
  /-- R351: `QNT_MXU`. -/
  | qntMxu (f : Fin 8) (d : Fin 128) (a : LaneSrc)
  /-- R351: `QNT_AQP`. -/
  | qntAqp (f : Fin 8) (d : Fin 128) (a : LaneSrc)
  /-- R351: `QNT_AQU`. -/
  | qntAqu (f : Fin 8) (d : Fin 128) (a : LaneSrc)
  /-- R200: `LD`. -/
  | ld (e : Ext) (d : Fin 128) (r : Fin 32) (w : Fin 8) (i : Fin 128)
  /-- R201: `ST`. -/
  | st (e : Ext) (d : Fin 128) (r : Fin 32) (w : Fin 8) (i : Fin 128)
  /-- R203: `LDA`. -/
  | lda (e : Ext) (d : Fin 128) (r : Fin 32) (t : Fin 8) (i : Fin 128)
  /-- R236: `AMO_N_ADD`. -/
  | amoNAdd (d : Fin 128) (r : Fin 32) (w : Fin 8) (i : Fin 128)
  /-- R236: `AMO_N_MIN`. -/
  | amoNMin (d : Fin 128) (r : Fin 32) (w : Fin 8) (i : Fin 128)
  /-- R236: `AMO_N_MAX`. -/
  | amoNMax (d : Fin 128) (r : Fin 32) (w : Fin 8) (i : Fin 128)
  /-- R236: `AMO_N_AND`. -/
  | amoNAnd (d : Fin 128) (r : Fin 32) (w : Fin 8) (i : Fin 128)
  /-- R236: `AMO_N_OR`. -/
  | amoNOr (d : Fin 128) (r : Fin 32) (w : Fin 8) (i : Fin 128)
  /-- R236: `AMO_N_XOR`. -/
  | amoNXor (d : Fin 128) (r : Fin 32) (w : Fin 8) (i : Fin 128)
  /-- R236: `AMO_N_XCHG`. -/
  | amoNXchg (d : Fin 128) (r : Fin 32) (w : Fin 8) (i : Fin 128)
  /-- R236: `AMO_N_CAS`. -/
  | amoNCas (d : Fin 128) (r : Fin 32) (w : Fin 8) (i : Fin 128)
  /-- R236: `AMO_F_ADD`. -/
  | amoFAdd (d : Fin 128) (r : Fin 32) (w : Fin 8) (i : Fin 128)
  /-- R236: `AMO_F_MIN`. -/
  | amoFMin (d : Fin 128) (r : Fin 32) (w : Fin 8) (i : Fin 128)
  /-- R236: `AMO_F_MAX`. -/
  | amoFMax (d : Fin 128) (r : Fin 32) (w : Fin 8) (i : Fin 128)
  /-- R236: `AMO_F_AND`. -/
  | amoFAnd (d : Fin 128) (r : Fin 32) (w : Fin 8) (i : Fin 128)
  /-- R236: `AMO_F_OR`. -/
  | amoFOr (d : Fin 128) (r : Fin 32) (w : Fin 8) (i : Fin 128)
  /-- R236: `AMO_F_XOR`. -/
  | amoFXor (d : Fin 128) (r : Fin 32) (w : Fin 8) (i : Fin 128)
  /-- R236: `AMO_F_XCHG`. -/
  | amoFXchg (d : Fin 128) (r : Fin 32) (w : Fin 8) (i : Fin 128)
  /-- R236: `AMO_F_CAS`. -/
  | amoFCas (d : Fin 128) (r : Fin 32) (w : Fin 8) (i : Fin 128)
  /-- R236: `AMO_C_ADD`. -/
  | amoCAdd (d : Fin 128) (r : Fin 32) (w : Fin 8) (i : Fin 128)
  /-- R236: `AMO_C_MIN`. -/
  | amoCMin (d : Fin 128) (r : Fin 32) (w : Fin 8) (i : Fin 128)
  /-- R236: `AMO_C_MAX`. -/
  | amoCMax (d : Fin 128) (r : Fin 32) (w : Fin 8) (i : Fin 128)
  /-- R236: `AMO_C_AND`. -/
  | amoCAnd (d : Fin 128) (r : Fin 32) (w : Fin 8) (i : Fin 128)
  /-- R236: `AMO_C_OR`. -/
  | amoCOr (d : Fin 128) (r : Fin 32) (w : Fin 8) (i : Fin 128)
  /-- R236: `AMO_C_XOR`. -/
  | amoCXor (d : Fin 128) (r : Fin 32) (w : Fin 8) (i : Fin 128)
  /-- R236: `AMO_C_XCHG`. -/
  | amoCXchg (d : Fin 128) (r : Fin 32) (w : Fin 8) (i : Fin 128)
  /-- R236: `AMO_C_CAS`. -/
  | amoCCas (d : Fin 128) (r : Fin 32) (w : Fin 8) (i : Fin 128)
  /-- R245: `AMO_R_ADD`. -/
  | amoRAdd (d : Fin 128) (r : Fin 32) (i : Fin 128)
  /-- R246: `BRED_ADD`. -/
  | bredAdd (d : Fin 128) (r : Fin 32) (w : Fin 8) (i : Fin 128)
  /-- R246: `BRED_MIN`. -/
  | bredMin (d : Fin 128) (r : Fin 32) (w : Fin 8) (i : Fin 128)
  /-- R246: `BRED_MAX`. -/
  | bredMax (d : Fin 128) (r : Fin 32) (w : Fin 8) (i : Fin 128)
  /-- R246: `BRED_AND`. -/
  | bredAnd (d : Fin 128) (r : Fin 32) (w : Fin 8) (i : Fin 128)
  /-- R246: `BRED_OR`. -/
  | bredOr (d : Fin 128) (r : Fin 32) (w : Fin 8) (i : Fin 128)
  /-- R246: `BRED_XOR`. -/
  | bredXor (d : Fin 128) (r : Fin 32) (w : Fin 8) (i : Fin 128)
  /-- R217: `MEMC_FENCE`. -/
  | memcFence
  /-- R217: `MEMC_FENCE_LD`. -/
  | memcFenceLd
  /-- R217: `MEMC_FENCE_ST`. -/
  | memcFenceSt
  /-- R210: `MEMC_PF`. -/
  | memcPf (d : Fin 128) (r : Fin 32)
  /-- R210: `MEMC_PFL1`. -/
  | memcPfl1 (d : Fin 128) (r : Fin 32)
  /-- R210: `MEMC_WBL`. -/
  | memcWbl (d : Fin 128) (r : Fin 32)
  /-- R210: `MEMC_INVL`. -/
  | memcInvl (d : Fin 128) (r : Fin 32)
  /-- R209: `MEMC_WB_L1`. -/
  | memcWbL1
  /-- R209: `MEMC_INV_L1`. -/
  | memcInvL1
  /-- R176: `XLN_BALLOT`. -/
  | xlnBallot (d : Fin 128) (a : Fin 64)
  /-- R176: `XLN_ALL`. -/
  | xlnAll (d : Fin 64) (a : Fin 64)
  /-- R176: `XLN_ANY`. -/
  | xlnAny (d : Fin 64) (a : Fin 64)
  /-- R176: `XLN_COUNT`. -/
  | xlnCount (d : Fin 128) (a : Fin 64)
  /-- R176: `XLN_MATCH`. -/
  | xlnMatch (e : Ext) (d : Fin 128) (a : LaneSrc)
  /-- R176: `XLN_RADD`. -/
  | xlnRadd (e : Ext) (d : Fin 128) (a : LaneSrc)
  /-- R176: `XLN_RMIN_Z`. -/
  | xlnRminZ (e : Ext) (d : Fin 128) (a : LaneSrc)
  /-- R176: `XLN_RMAX_Z`. -/
  | xlnRmaxZ (e : Ext) (d : Fin 128) (a : LaneSrc)
  /-- R176: `XLN_RMIN_N`. -/
  | xlnRminN (e : Ext) (d : Fin 128) (a : LaneSrc)
  /-- R176: `XLN_RMAX_N`. -/
  | xlnRmaxN (e : Ext) (d : Fin 128) (a : LaneSrc)
  /-- R176: `XLN_RAND`. -/
  | xlnRand (e : Ext) (d : Fin 128) (a : LaneSrc)
  /-- R176: `XLN_ROR`. -/
  | xlnRor (e : Ext) (d : Fin 128) (a : LaneSrc)
  /-- R176: `XLN_RXOR`. -/
  | xlnRxor (e : Ext) (d : Fin 128) (a : LaneSrc)
  /-- R177: `XLN_RFADD`. -/
  | xlnRfadd (e : Ext) (d : Fin 128) (a : LaneSrc)
  /-- R176: `XLN_RFMIN`. -/
  | xlnRfmin (e : Ext) (d : Fin 128) (a : LaneSrc)
  /-- R176: `XLN_RFMAX`. -/
  | xlnRfmax (e : Ext) (d : Fin 128) (a : LaneSrc)
  /-- R176: `XLN_ISCAN_ADD`. -/
  | xlnIscanAdd (e : Ext) (d : Fin 128) (a : LaneSrc)
  /-- R176: `XLN_XSCAN_ADD`. -/
  | xlnXscanAdd (e : Ext) (d : Fin 128) (a : LaneSrc)
  /-- R177: `XLN_ISCAN_FADD`. -/
  | xlnIscanFadd (e : Ext) (d : Fin 128) (a : LaneSrc)
  /-- R177: `XLN_XSCAN_FADD`. -/
  | xlnXscanFadd (e : Ext) (d : Fin 128) (a : LaneSrc)
  /-- R176: `XLN_ISCAN_MIN_Z`. -/
  | xlnIscanMinZ (e : Ext) (d : Fin 128) (a : LaneSrc)
  /-- R176: `XLN_ISCAN_MAX_Z`. -/
  | xlnIscanMaxZ (e : Ext) (d : Fin 128) (a : LaneSrc)
  /-- R176: `XLN_ISCAN_OR`. -/
  | xlnIscanOr (e : Ext) (d : Fin 128) (a : LaneSrc)
  /-- R178: `SHFL`. -/
  | shfl (e : Ext) (d : Fin 128) (a : LaneSrc) (b : Fin 128)
  /-- R271: `XBAR`. -/
  | xbar (e : Ext) (d : Fin 128) (a : LaneSrc) (n : Fin 16)
  /-- R284: `MMA`. -/
  | mma (t : Fin 16) (c : Fin 8) (a : LaneSrc) (b : LaneSrc)
  /-- R284: `MMA_Z`. -/
  | mmaZ (t : Fin 16) (c : Fin 8) (a : LaneSrc) (b : LaneSrc)
  /-- R294: `MACC_ZERO`. -/
  | maccZero (t : Fin 16)
  /-- R294: `MACC_RD`. -/
  | maccRd (e : Ext) (d : Fin 128) (w : Fin 16) (t : Fin 16)
  /-- R294: `MACC_WR`. -/
  | maccWr (e : Ext) (d : Fin 128) (w : Fin 16) (t : Fin 16)
  /-- R296: `MACC_DRS`. -/
  | maccDrs (k : Fin 8) (d : Fin 128) (t : Fin 16)
  /-- R297: `MACC_DRM`. -/
  | maccDrm (k : Fin 8) (d : Fin 128) (r : Fin 16) (t : Fin 16)
  /-- R296: `MACC_DRS_Z`. -/
  | maccDrsZ (k : Fin 8) (d : Fin 128) (t : Fin 16)
  /-- R297: `MACC_DRM_Z`. -/
  | maccDrmZ (k : Fin 8) (d : Fin 128) (r : Fin 16) (t : Fin 16)
  /-- R122: `MOVI`. -/
  | movi (e : Ext) (d : Fin 128) (m : BitVec 15)
  /-- R325: `PLY_PUT`. -/
  | plyPut (e : Ext) (s : Fin 8) (a : LaneSrc)
  /-- R327: `PLY_GET`. -/
  | plyGet (e : Ext) (d : Fin 128) (k : Fin 8) (s : Fin 8)
  /-- R327: `PLY_BRX`. -/
  | plyBrx (o : BitVec 18)
  /-- R157: `BR`. -/
  | br (p : Fin 64) (s : Bool) (r : Bool) (o : BitVec 17)
  /-- R160: `CALL`. -/
  | call (o : BitVec 22)
  /-- R160: `RET`. -/
  | ret
  /-- R161: `BRI`. -/
  | bri (a : Fin 128)
  /-- R162: `EXIT`. -/
  | exit
  /-- R165: `RCV`. -/
  | rcv
  /-- R167: `BAR_TEAM`. -/
  | barTeam (n : Fin 16)
  /-- R167: `BAR_CLU`. -/
  | barClu (n : Fin 16)
  /-- R163: `YIELD`. -/
  | yield
  /-- R164: `TRAPC`. -/
  | trapc (p : Fin 64) (s : Bool) (m : BitVec 8)
  /-- R121: `LOOPR`. -/
  | loopr (c : Fin 128) (s : Fin 8) (o : BitVec 15)
  /-- R153: `UADD`. -/
  | uadd (d : Fin 128) (a : Fin 128) (b : USrc)
  /-- R153: `UADD_SATZ`. -/
  | uaddSatz (d : Fin 128) (a : Fin 128) (b : USrc)
  /-- R153: `UADD_SATN`. -/
  | uaddSatn (d : Fin 128) (a : Fin 128) (b : USrc)
  /-- R153: `USUB`. -/
  | usub (d : Fin 128) (a : Fin 128) (b : USrc)
  /-- R153: `USUB_SATZ`. -/
  | usubSatz (d : Fin 128) (a : Fin 128) (b : USrc)
  /-- R153: `USUB_SATN`. -/
  | usubSatn (d : Fin 128) (a : Fin 128) (b : USrc)
  /-- R153: `UMUL`. -/
  | umul (d : Fin 128) (a : Fin 128) (b : USrc)
  /-- R153: `UMULH_Z`. -/
  | umulhZ (d : Fin 128) (a : Fin 128) (b : USrc)
  /-- R153: `UMULH_N`. -/
  | umulhN (d : Fin 128) (a : Fin 128) (b : USrc)
  /-- R153: `UAND`. -/
  | uand (d : Fin 128) (a : Fin 128) (b : USrc)
  /-- R153: `UOR`. -/
  | uor (d : Fin 128) (a : Fin 128) (b : USrc)
  /-- R153: `UXOR`. -/
  | uxor (d : Fin 128) (a : Fin 128) (b : USrc)
  /-- R153: `USHL`. -/
  | ushl (d : Fin 128) (a : Fin 128) (b : USrc)
  /-- R153: `USHR_N`. -/
  | ushrN (d : Fin 128) (a : Fin 128) (b : USrc)
  /-- R153: `USHR_Z`. -/
  | ushrZ (d : Fin 128) (a : Fin 128) (b : USrc)
  /-- R153: `UMIN_Z`. -/
  | uminZ (d : Fin 128) (a : Fin 128) (b : USrc)
  /-- R153: `UMAX_Z`. -/
  | umaxZ (d : Fin 128) (a : Fin 128) (b : USrc)
  /-- R153: `UMIN_N`. -/
  | uminN (d : Fin 128) (a : Fin 128) (b : USrc)
  /-- R153: `UMAX_N`. -/
  | umaxN (d : Fin 128) (a : Fin 128) (b : USrc)
  /-- R153: `UFMIN`. -/
  | ufmin (d : Fin 128) (a : Fin 128) (b : Fin 128)
  /-- R153: `UFMAX`. -/
  | ufmax (d : Fin 128) (a : Fin 128) (b : Fin 128)
  /-- R153: `UCMP`. -/
  | ucmp (d : Fin 128) (a : Fin 128) (c : Fin 8) (b : USrc)
  /-- R154: `UMOVHI`. -/
  | umovhi (d : Fin 128) (m : BitVec 14)
  /-- R154: `UMOVLO`. -/
  | umovlo (d : Fin 128) (m : BitVec 18)
  /-- R158: `BRA`. -/
  | bra (o : BitVec 16)
  /-- R158: `BRA_Z`. -/
  | braZ (c : Fin 128) (o : BitVec 16)
  /-- R158: `BRA_NZ`. -/
  | braNz (c : Fin 128) (o : BitVec 16)
  /-- R206: `ULD`. -/
  | uld (d : Fin 128) (a : Fin 128) (r : Fin 32)
  /-- R206: `ULD_Z8`. -/
  | uldZ8 (d : Fin 128) (a : Fin 128) (r : Fin 32)
  /-- R206: `ULD_N8`. -/
  | uldN8 (d : Fin 128) (a : Fin 128) (r : Fin 32)
  /-- R206: `ULD_Z16`. -/
  | uldZ16 (d : Fin 128) (a : Fin 128) (r : Fin 32)
  /-- R206: `ULD_N16`. -/
  | uldN16 (d : Fin 128) (a : Fin 128) (r : Fin 32)
  /-- R206: `ULD_64`. -/
  | uld64 (d : Fin 128) (a : Fin 128) (r : Fin 32)
  /-- R206: `ULD_128`. -/
  | uld128 (d : Fin 128) (a : Fin 128) (r : Fin 32)
  /-- R206: `UST`. -/
  | ust (d : Fin 128) (a : Fin 128) (r : Fin 32)
  /-- R206: `UST_8`. -/
  | ust8 (d : Fin 128) (a : Fin 128) (r : Fin 32)
  /-- R206: `UST_16`. -/
  | ust16 (d : Fin 128) (a : Fin 128) (r : Fin 32)
  /-- R206: `UST_64`. -/
  | ust64 (d : Fin 128) (a : Fin 128) (r : Fin 32)
  /-- R206: `UST_128`. -/
  | ust128 (d : Fin 128) (a : Fin 128) (r : Fin 32)
  /-- R123: `SREAD`. -/
  | sread (d : Fin 128) (a : Fin 128)
  /-- R123: `SREAD_V`. -/
  | sreadV (d : Fin 128) (a : Fin 128)
  /-- R123: `SREAD_CLR`. -/
  | sreadClr (d : Fin 128) (a : Fin 128) (b : USrc)
  /-- R123: `SREAD_XCHG`. -/
  | sreadXchg (d : Fin 128) (a : Fin 128) (b : Fin 128)
  /-- R124: `SWRITE`. -/
  | swrite (d : Fin 128) (a : Fin 128)
  /-- R183: `SEGLD`. -/
  | segld (n : Fin 8) (a : Fin 128)
  /-- R183: `SEGRD`. -/
  | segrd (d : Fin 128) (n : Fin 8)
  /-- R186: `RECLD`. -/
  | recld (r : Fin 32) (a : Fin 128)
  /-- R186: `RECRD`. -/
  | recrd (d : Fin 128) (r : Fin 32)
  /-- R187: `RECSET_BASE`. -/
  | recsetBase (r : Fin 32) (a : Fin 128) (b : Fin 128)
  /-- R187: `RECSET_EXT`. -/
  | recsetExt (r : Fin 32) (b : USrc)
  /-- R187: `RECSET_STRIDE`. -/
  | recsetStride (r : Fin 32) (b : USrc)
  /-- R187: `RECSET_SWZ`. -/
  | recsetSwz (r : Fin 32) (b : USrc)
  /-- R187: `RECSET_TAG`. -/
  | recsetTag (r : Fin 32) (b : USrc)
  /-- R187: `RECSET_FLAGS`. -/
  | recsetFlags (r : Fin 32) (b : USrc)
  /-- R187: `RECSET_ADV`. -/
  | recsetAdv (r : Fin 32) (b : USrc)
  /-- R187: `RECSET_FMT`. -/
  | recsetFmt (r : Fin 32) (b : USrc)
  /-- R115: `ACQ`. -/
  | acq
  /-- R115: `ACQ_TRY`. -/
  | acqTry (d : Fin 128)
  /-- R115: `ACQ_REL`. -/
  | acqRel
  /-- R281: `CVSET`. -/
  | cvset (n : Fin 8) (a : Fin 128)
  /-- R281: `CVSET_ALL`. -/
  | cvsetAll (n : Fin 8)
  /-- R281: `CVRD`. -/
  | cvrd (d : Fin 128) (n : Fin 8)
  /-- R274: `MCFG`. -/
  | mcfg (a : Fin 128)
  /-- R274: `MCFG_RD`. -/
  | mcfgRd (d : Fin 128)
  /-- R261: `HWAIT_FULL`. -/
  | hwaitFull (d : Fin 128) (n : Fin 32)
  /-- R261: `HWAIT_FREE`. -/
  | hwaitFree (d : Fin 128) (n : Fin 32)
  /-- R262: `HREL`. -/
  | hrel (n : Fin 32)
  /-- R263: `HCOMMIT`. -/
  | hcommit (n : Fin 32)
  /-- R267: `HQRY`. -/
  | hqry (d : Fin 128) (n : Fin 32)
  /-- R267: `HQRY_BASE`. -/
  | hqryBase (d : Fin 128) (n : Fin 32)
  /-- R267: `HQRY_TILE`. -/
  | hqryTile (d : Fin 128) (n : Fin 32)
  /-- R267: `HQRY_SCR`. -/
  | hqryScr (d : Fin 128)
  /-- R267: `HQRY_CORE`. -/
  | hqryCore (d : Fin 128)
  /-- R306: `MVX`. -/
  | mvx (d : Fin 128) (a : Fin 128)
  /-- R306: `MVX_C`. -/
  | mvxC (d : Fin 128) (a : Fin 128)
  /-- R306: `MVX_B`. -/
  | mvxB (d : Fin 128) (a : Fin 128)
  /-- R320: `PLYC_OPEN`. -/
  | plycOpen (r : Fin 32)
  /-- R320: `PLYC_OPEN_DROP`. -/
  | plycOpenDrop (r : Fin 32)
  /-- R320: `PLYC_CLOSE`. -/
  | plycClose
  /-- R322: `PLYC_REV`. -/
  | plycRev
  /-- R321: `PLYC_MARK`. -/
  | plycMark (d : Fin 128)
  /-- R323: `PLYC_STAT`. -/
  | plycStat (d : Fin 128)
  /-- R270: `XPLD`. -/
  | xpld (n : Fin 16) (a : Fin 128) (r : Fin 32)
  /-- R106: `TSYNC_ALL`. -/
  | tsyncAll
  /-- R106: `TSYNC_POLL`. -/
  | tsyncPoll (d : Fin 128) (a : Fin 128)
  /-- R106: `TSYNC_COUNT`. -/
  | tsyncCount (d : Fin 128)
  /-- R106: `TSYNC_PIPS`. -/
  | tsyncPips (d : Fin 128)
  /-- R392: `RESV`. -/
  | resv (d : Fin 128) (a : Fin 128) (r : Fin 32)
  /-- R381: `LAUNCH`. -/
  | launch (d : Fin 128) (a : Fin 128)
  /-- R395: `TKT_WAIT`. -/
  | tktWait (d : Fin 128)
  /-- R395: `TKT_POST`. -/
  | tktPost
  /-- R404: `TRAP_IMM`. -/
  | trapImm (n : Fin 128)
  /-- R404: `TRAP_REG`. -/
  | trapReg (b : Fin 128)
  /-- R405: `ERET`. -/
  | eret
  /-- R414: `ERET_STEP`. -/
  | eretStep
  /-- R405: `ERET_KILL`. -/
  | eretKill
  /-- R405: `ERET_OUT`. -/
  | eretOut
  /-- R406: `CTX_RD`. -/
  | ctxRd (d : Fin 128) (a : Fin 128) (b : USrc)
  /-- R406: `CTX_RDV`. -/
  | ctxRdv (d : Fin 128) (a : Fin 128)
  /-- R406: `CTX_WR`. -/
  | ctxWr (d : Fin 128) (a : Fin 128) (b : USrc)
  /-- R406: `CTX_WRV`. -/
  | ctxWrv (d : Fin 128) (a : Fin 128)
  /-- R407: `CTX_SAVE`. -/
  | ctxSave (r : Fin 32)
  /-- R407: `CTX_REST`. -/
  | ctxRest (r : Fin 32)
  /-- R94: the core's picker forms a bundle. `share` holds the home lanes that may join a bundle formed inside a clause (R98: the picker chooses). -/
  | pickerFormBundle (core : CoreId) (share : BitVec 32)
  /-- R93: the group leaves the active set for the ready PENDING group of highest priority. -/
  | swapOut (core : CoreId) (slot : Slot)
  /-- R107: a ready group that has issued nothing for 1,536 cycles is STARVED. -/
  | groupStarved (core : CoreId) (slot : Slot)
  /-- R110: a PENDING group that is STARVED displaces an ACTIVE one. -/
  | starvedSwapIn (core : CoreId) (slot : Slot)
  /-- R163: 32 cycles after its YIELD a thread is ready again. -/
  | yieldExpiry (core : CoreId) (slot : Slot) (lane : Lane)
  /-- R99: the pip-tracked operation of that number completes. -/
  | pipOperationComplete (op : Nat)
  /-- R91: an EXITING group retires. -/
  | groupRetire (core : CoreId) (slot : Slot)
  /-- R116: the quad's arbiter grants the request that stands first. -/
  | acqGrant (quad : QuadId)
  /-- R223: a dirty line is written back. -/
  | l1DirtyWriteback (core : CoreId) (line : Nat)
  /-- R364: firmware answers a fault entry with resume. -/
  | faultAnswerResume (ctx : Fin 64) (entry : Nat)
  /-- R364: firmware answers a fault entry with fail. -/
  | faultAnswerFail (ctx : Fin 64) (entry : Nat)
  /-- R206: the data of a uniform load return. -/
  | uldDataReturn (op : Nat)
  /-- R270: the pattern of an XPLD returns. -/
  | xpldDataReturn (op : Nat)
  /-- R236, R237: one element of an atomic word is performed. -/
  | atomicElementPerformed (op : Nat) (index : Nat)
  /-- R239: poison met by an element without return is reported. -/
  | atomicPoisonReport (op : Nat) (index : Nat)
  /-- R246: one combined update of a bundle reduction is applied. -/
  | bredUpdate (op : Nat) (index : Nat)
  /-- R169: the count of a barrier reaches its limit for the team of the group in that slot. -/
  | barrierTimeout (core : CoreId) (slot : Slot) (clu : Bool) (bar : Fin 16)
  /-- R257: the scheduler starts to fill a FREE instance. -/
  | streamFillStart (core : CoreId) (slot : Slot) (handle : Fin 32)
  /-- R258: every byte of the tile is written. -/
  | streamFillComplete (core : CoreId) (slot : Slot) (handle : Fin 32)
  /-- R258: every byte of an output tile has reached memory. -/
  | outputDrainComplete (core : CoreId) (slot : Slot) (handle : Fin 32)
  /-- R285: a complete signing takes a reservation entry. -/
  | reservationPost (core : CoreId) (slot : Slot) (cv : Fin 8)
  /-- R287: a signing stayed open for the limit. -/
  | quorumTimeout (core : CoreId) (slot : Slot) (cv : Fin 8)
  /-- R288: the engine starts a pass. -/
  | passStart (quad : QuadId) (entry : Nat)
  /-- R289: a running pass ends. -/
  | passComplete (quad : QuadId) (entry : Nat)
  /-- R295: a drain starts. -/
  | matrixDrainStart (quad : QuadId) (entry : Nat)
  /-- R295: a drain ends. -/
  | matrixDrainComplete (quad : QuadId) (entry : Nat)
  /-- R312: a core-path call posts the entry of its next row block. -/
  | mvxEntryPost (op : Nat)
  /-- R307: a matrix-vector call completes. -/
  | mvxComplete (op : Nat)
  /-- R327: a ply read completes. -/
  | plyGetComplete (op : Nat)
  /-- R203: an LDA completes. -/
  | ldaComplete (op : Nat)
  /-- R382: the scheduler accepts or refuses a launch. -/
  | launchAccept (op : Nat)
  /-- R384: the scheduler dispatches a cluster of a queue's head launch to the rectangle at that corner. -/
  | clusterDispatch (queue : Fin 64) (chiplet : Fin 8) (x : Fin 6) (y : Fin 8)
  /-- R337: the head launch of a queue has waited long enough to spill. -/
  | spillWaitExpiry (queue : Fin 64)
  /-- R383: every team has retired and every drain has finished. -/
  | launchComplete (launch : Nat)
  /-- R396: a team that retired without a post is posted. -/
  | ticketAutoPost (launch : Nat) (team : Nat)
  /-- R398 to R401: the record is written and the group enters the handler. -/
  | trapDelivery (core : CoreId) (slot : Slot)
  /-- R409: the team's watchdog count reaches its limit. -/
  | watchdogExpiry (core : CoreId) (slot : Slot)
  /-- R410: the Board asks for the team's pre-emption. -/
  | preemptionRequest (core : CoreId) (slot : Slot)
  /-- R412: a saved team is restored to a core. -/
  | contextRestore (core : CoreId) (image : Nat)
  /-- R359: firmware writes the invalidation register. -/
  | invalidationRequest (req : BitVec 128)
  /-- R360: the last cache has acknowledged. -/
  | invalidationComplete
  /-- R371: firmware starts a switch of the shadow tables. -/
  | regionSwitch
  /-- R371: the dies have drained and take the new tables. -/
  | regionSwitchComplete
  /-- R373: the memory-side cache writes a dirty block back. -/
  | mscBlockWriteback (block : Nat)
  /-- R424: an uncorrectable error poisons a sector. -/
  | uncorrectableEccError (place : Nat)
  /-- R227, R417: the host writes SQTAIL; its driver is the host's agent of the function's number. -/
  | sqtailDoorbell (vf : Fin 8) (value : Word)
  /-- R417: the host writes CQHEAD. -/
  | cqheadDoorbell (vf : Fin 8) (value : Word)
  /-- R418: firmware reads the next submission entry. -/
  | submissionEntry (vf : Fin 8)
  /-- R423: a function-level reset. -/
  | functionLevelReset (vf : Fin 8)
  /-- R429: power-up or PCIe reset. -/
  | powerUpReset
  /-- R425: the module is powered down. -/
  | powerDown
  /-- R421: an integrity failure on a link. -/
  | linkIntegrityFailure (link : Nat)
  /-- R420: a link to a peer fails. -/
  | peerLinkFailure (link : Nat)
  /-- R224, R420: a request from an agent of a peer package. -/
  | peerRequest (peer : PeerAsk) (addr : Nat) (write : Option (List Byte))
  /-- R227, R416: an operation of an agent of the host by CXL.mem. -/
  | hostCxlMemAccess (addr : Nat) (ask : HostAsk)
  /-- R227, R416: a snoop of the host. -/
  | hostSnoop (addr : Nat)
  /-- R228: a posted write of a requester of the host. -/
  | hostCxlioPostedWrite (spot : HostSpot) (data : List Byte)
  /-- R228: a read of a requester of the host. -/
  | hostCxlioRead (spot : HostSpot) (len : Nat)
  /-- R430: a die's clock is lowered. -/
  | thermalThrottle (die : Nat) (mhz : Nat)
  /-- R430: a die stops issuing. -/
  | thermalIssueStop (die : Nat)
  /-- R430: a die issues again. -/
  | thermalIssueResume (die : Nat)
  /-- R430: the module powers off. -/
  | thermalPowerOff (die : Nat)
  /-- R428: firmware retires a unit. -/
  | unitRetire (unit : Nat) (index : Nat)
  /-- R425: the root of trust installs or erases a key. -/
  | keySlotInstall (slot : Fin 8) (key : Option (BitVec 512))
  /-- R427: management reads the health page. -/
  | healthRead (offset : Nat)
  /-- R4, R5: firmware writes a register of the Board. -/
  | registerWrite (reg : Nat) (index : Nat) (value : BitVec 128)
  /-- R357: a page is translated by the host. -/
  | hostTranslationRequest (ctx : Fin 64) (page : Nat) (write : Bool)
  /-- R427: management activates a staged image. -/
  | activationRequest (image : Nat)
  /-- R421: a link has trained. -/
  | linkRetrainComplete (link : Nat)
  /-- R421: a link has its keys. -/
  | linkKeyEstablishment (link : Nat)
  deriving DecidableEq, Repr

end Sys2Proof
end

