-- ==== Sys2Proof/Decode.lean ====
section
/-! DEFINITION. Decoding and encoding of instruction words (R43 to R76).

A word is a natural number below 2^32 (bits above are ignored). Its bits 31 to 25 hold the set and the major; under
each of these the rows of the opcode table are tried, each by its fixed fields. -/

namespace Sys2Proof

/-- Why a word has no instruction; both raise class 0x01 (R58, R76). -/
inductive DecodeError where
  /-- R76: a reserved U major. -/
  | reservedMajor
  /-- R58, R60, R73: a function, kind or operation code that no row has, or a reserved field that is not zero. -/
  | reservedCode
  /-- Fewer than four bytes. -/
  | truncated
  deriving DecidableEq, Repr

/-- The field of `len` bits at bit `lo`. -/
def fld (w lo len : Nat) : Fin (2 ^ len) := ⟨w / 2 ^ lo % 2 ^ len, Nat.mod_lt _ (Nat.two_pow_pos len)⟩

/-- The same as a bit vector. -/
def bits (w lo len : Nat) : BitVec len := BitVec.ofNat len (w / 2 ^ lo)

/-- A one-bit field. -/
def flag (w lo : Nat) : Bool := w / 2 ^ lo % 2 == 1

/-- R55: the 8-bit operand field at bit `lo`. -/
def srcOf (w lo : Nat) : LaneSrc :=
  if w / 2 ^ (lo + 7) % 2 = 1 then .s (fld w lo 7) else .v (fld w lo 7)

/-- R72: the fields I and B. -/
def usrcOf (w : Nat) : USrc := if w / 2 ^ 10 % 2 = 1 then .imm (bits w 0 7) else .reg (fld w 0 7)

/-- R55: the number in an 8-bit operand field. -/
def LaneSrc.code : LaneSrc → Nat
  | .v n => n.val
  | .s n => 128 + n.val

/-- R72: the bits I and B of an operand. -/
def USrc.code : USrc → Nat
  | .reg n => n.val
  | .imm x => 2 ^ 10 + x.toNat

/-- A word has the fixed fields of a row. -/
def fits (fixed : List (Nat × Nat × Nat)) (w : Nat) : Bool := fixed.all fun f => w / 2 ^ f.1 % 2 ^ f.2.1 == f.2.2

/-- The fixed fields below the major of the rows under each value of bits 31 to 25 (R75, R76), each as (low bit, length, value);
a major with one row has none. -/
def fixedOf : Nat → List (List (Nat × Nat × Nat))
  | 0x05 => [[(5, 2, 0)], [(5, 2, 1)], [(5, 2, 2)], [(5, 2, 3)]]
  | 0x14 => [[(0, 7, 0)], [(0, 7, 1)], [(0, 7, 2)], [(0, 7, 3)], [(0, 7, 4)], [(0, 7, 5)],
      [(0, 7, 6)], [(0, 7, 7)], [(0, 7, 8)], [(0, 7, 9)], [(0, 7, 10)], [(0, 7, 11)],
      [(0, 7, 12)], [(0, 7, 13)], [(0, 7, 14)]]
  | 0x1B => [[(0, 7, 0)], [(0, 7, 1)], [(0, 7, 2)], [(0, 7, 3)], [(0, 7, 4)], [(0, 7, 5), (19, 6, 0)],
      [(0, 7, 6), (19, 6, 0)], [(0, 7, 8), (13, 2, 0), (22, 3, 0)], [(0, 7, 9), (21, 4, 0)]]
  | 0x23 => [[(0, 7, 0)], [(0, 7, 1)], [(0, 7, 2)], [(0, 7, 3)], [(0, 7, 4)], [(0, 7, 5)],
      [(0, 7, 6)], [(0, 7, 7)], [(0, 7, 8)]]
  | 0x2A => [[(0, 7, 0)], [(0, 7, 1)], [(0, 7, 2)], [(0, 7, 3)], [(0, 7, 4)], [(0, 7, 5)],
      [(0, 7, 6)], [(0, 7, 7)], [(0, 7, 8)], [(0, 7, 9)], [(0, 7, 10)], [(0, 7, 11)],
      [(0, 7, 12)], [(0, 7, 13)], [(0, 7, 14)], [(0, 7, 15)], [(0, 7, 16)], [(0, 7, 17)],
      [(0, 7, 18)], [(0, 7, 19)], [(0, 7, 20)], [(0, 7, 21)], [(0, 7, 22)], [(0, 7, 23)],
      [(0, 7, 24)], [(0, 7, 25)], [(0, 7, 26)], [(0, 7, 27)], [(0, 7, 28)], [(0, 7, 29)],
      [(0, 7, 30)]]
  | 0x2B => [[(0, 7, 0)], [(0, 7, 1)], [(0, 7, 2)], [(0, 7, 3)]]
  | 0x2F => [[(22, 3, 0)], [(22, 3, 1)], [(22, 3, 2)], [(22, 3, 3)], [(22, 3, 4)], [(22, 3, 5)],
      [(22, 3, 6)], [(22, 3, 7)]]
  | 0x30 => [[(22, 3, 0)], [(22, 3, 1)], [(22, 3, 2)], [(22, 3, 3)], [(22, 3, 4)], [(22, 3, 5)],
      [(22, 3, 6)], [(22, 3, 7)]]
  | 0x31 => [[(22, 3, 0)], [(22, 3, 1)], [(22, 3, 2)], [(22, 3, 3)], [(22, 3, 4)], [(22, 3, 5)],
      [(22, 3, 6)], [(22, 3, 7)]]
  | 0x32 => [[(7, 3, 1), (22, 3, 0)]]
  | 0x33 => [[(22, 3, 0)], [(22, 3, 1)], [(22, 3, 2)], [(22, 3, 3)], [(22, 3, 4)], [(22, 3, 5)]]
  | 0x34 => [[(0, 25, 0)], [(0, 25, 1)], [(0, 25, 2)], [(0, 7, 8), (12, 3, 0), (22, 3, 0)], [(0, 7, 9), (12, 3, 0), (22, 3, 0)], [(0, 7, 10), (12, 3, 0), (22, 3, 0)],
      [(0, 7, 11), (12, 3, 0), (22, 3, 0)], [(0, 25, 16)], [(0, 25, 17)]]
  | 0x35 => [[(0, 7, 0), (13, 2, 0), (22, 3, 0)], [(0, 7, 1), (13, 2, 0), (21, 4, 0)], [(0, 7, 2), (13, 2, 0), (21, 4, 0)], [(0, 7, 3), (13, 2, 0), (22, 3, 0)], [(0, 7, 4)], [(0, 7, 8)],
      [(0, 7, 9)], [(0, 7, 10)], [(0, 7, 11)], [(0, 7, 12)], [(0, 7, 13)], [(0, 7, 14)],
      [(0, 7, 15)], [(0, 7, 16)], [(0, 7, 17)], [(0, 7, 18)], [(0, 7, 24)], [(0, 7, 25)],
      [(0, 7, 26)], [(0, 7, 27)], [(0, 7, 28)], [(0, 7, 29)], [(0, 7, 30)]]
  | 0x37 => [[(4, 3, 0)]]
  | 0x38 => [[(23, 2, 0)], [(23, 2, 1)]]
  | 0x39 => [[(0, 7, 0), (11, 14, 0)], [(0, 7, 1)], [(0, 7, 2)], [(0, 7, 4), (11, 4, 0)], [(0, 7, 5)], [(0, 7, 6), (11, 4, 0)],
      [(0, 7, 7)]]
  | 0x3B => [[(0, 7, 0), (18, 4, 0)], [(0, 7, 1), (13, 2, 0)], [(0, 7, 2)]]
  | 0x3D => [[(22, 3, 0)], [(0, 25, 4194304)], [(0, 15, 0), (22, 3, 2)], [(0, 25, 12582912)], [(0, 25, 16777216)], [(0, 16, 0), (20, 5, 20)],
      [(0, 16, 0), (20, 5, 21)], [(0, 25, 25165824)], [(8, 7, 0), (22, 3, 7)]]
  | 0x40 => [[(7, 3, 0)], [(7, 3, 1)], [(7, 3, 2)]]
  | 0x41 => [[(7, 3, 0)], [(7, 3, 1)], [(7, 3, 2)]]
  | 0x42 => [[(7, 3, 0)], [(7, 3, 1)], [(7, 3, 2)]]
  | 0x43 => [[(7, 3, 0)]]
  | 0x44 => [[(7, 3, 0)]]
  | 0x45 => [[(7, 3, 0)]]
  | 0x46 => [[(7, 3, 0)]]
  | 0x47 => [[(7, 3, 0)], [(7, 3, 1)]]
  | 0x48 => [[(7, 3, 0)], [(7, 3, 1)], [(7, 3, 2)], [(7, 3, 3)], [(7, 4, 4)], [(7, 4, 5)]]
  | 0x4A => [[(14, 4, 0)]]
  | 0x4C => [[(16, 9, 0)], [(16, 2, 1)], [(16, 2, 2)]]
  | 0x4D => [[(5, 6, 0)], [(5, 6, 4)], [(5, 6, 8)], [(5, 6, 12)], [(5, 6, 16)], [(5, 6, 20)],
      [(5, 6, 24)]]
  | 0x4E => [[(5, 6, 0)], [(5, 6, 8)], [(5, 6, 16)], [(5, 6, 20)], [(5, 6, 24)]]
  | 0x4F => [[(0, 11, 0)], [(0, 11, 128)], [(7, 3, 2)], [(7, 4, 3)]]
  | 0x50 => [[(0, 11, 0)]]
  | 0x51 => [[(0, 11, 0), (21, 4, 0)], [(0, 11, 128), (14, 4, 0)]]
  | 0x52 => [[(0, 11, 0), (23, 2, 0)], [(0, 11, 128), (16, 2, 0)]]
  | 0x53 => [[(7, 4, 0), (23, 2, 0)], [(7, 3, 1), (11, 7, 0), (23, 2, 0)], [(7, 3, 2), (11, 7, 0), (23, 2, 0)], [(7, 3, 3), (11, 7, 0), (23, 2, 0)], [(7, 3, 4), (11, 7, 0), (23, 2, 0)], [(7, 3, 5), (11, 7, 0), (23, 2, 0)],
      [(7, 3, 6), (11, 7, 0), (23, 2, 0)], [(7, 3, 7), (11, 7, 0), (23, 2, 0)]]
  | 0x54 => [[(0, 25, 0)], [(0, 18, 128)], [(0, 25, 256)]]
  | 0x55 => [[(0, 11, 0), (21, 4, 0)], [(0, 18, 128), (21, 4, 0)], [(0, 11, 256), (14, 4, 0)]]
  | 0x56 => [[(0, 11, 0), (18, 7, 0)], [(0, 18, 128)]]
  | 0x57 => [[(5, 13, 0)], [(5, 13, 4)]]
  | 0x58 => [[(5, 20, 0)]]
  | 0x59 => [[(5, 20, 0)]]
  | 0x5A => [[(5, 13, 0)], [(5, 13, 4)], [(5, 13, 8)], [(0, 18, 384)], [(0, 18, 512)]]
  | 0x5B => [[(0, 11, 0)], [(0, 11, 128)], [(0, 11, 256)]]
  | 0x5C => [[(5, 20, 0)], [(5, 20, 64)], [(0, 25, 128)], [(0, 25, 256)], [(0, 18, 384)], [(0, 18, 512)]]
  | 0x5D => [[(5, 6, 0), (22, 3, 0)]]
  | 0x5E => [[(0, 25, 0)], [(0, 11, 128)], [(0, 18, 256)], [(0, 18, 384)]]
  | 0x5F => [[(5, 6, 0)]]
  | 0x60 => [[(0, 11, 0)]]
  | 0x61 => [[(0, 18, 0)], [(0, 25, 128)]]
  | 0x62 => [[(7, 18, 8)], [(7, 18, 0)]]
  | 0x63 => [[(0, 25, 0)], [(0, 25, 128)], [(0, 25, 256)], [(0, 25, 384)]]
  | 0x64 => [[(7, 3, 0)], [(0, 11, 128)], [(7, 3, 2)], [(0, 11, 384)], [(5, 20, 16)], [(5, 20, 20)]]
  | _ => [[]]

/-- Bits 31 to 25 of a word: its set and its major. -/
def majorOf (w : Nat) : Nat := w / 2 ^ 25 % 128

/-- The position of the row that a word has, among those under its major. -/
def rowOfWord (w : Nat) : Option Nat := (fixedOf (majorOf w)).findIdx? fun r => fits r w

/-- The instructions that the rows under each value of bits 31 to 25 build from a word, in the order of `fixedOf`. (Lean compiles no
constructor beyond its 245th, so what builds an `Instr` is marked noncomputable; the kernel evaluates it.) -/
noncomputable def buildsOf : Nat → List (Nat → Instr)
  | 0x00 => [fun w => .iadd (fld w 22 3) (fld w 15 7) (srcOf w 7) (fld w 0 7)]
  | 0x01 => [fun w => .isub (fld w 22 3) (fld w 15 7) (srcOf w 7) (fld w 0 7)]
  | 0x02 => [fun w => .imul (fld w 22 3) (fld w 15 7) (srcOf w 7) (fld w 0 7)]
  | 0x03 => [fun w => .imad (fld w 22 3) (fld w 15 7) (srcOf w 7) (fld w 0 7)]
  | 0x04 => [fun w => .iaddi (fld w 22 3) (fld w 15 7) (srcOf w 7) (bits w 0 7)]
  | 0x05 => [fun w => .ishiShl (fld w 22 3) (fld w 15 7) (srcOf w 7) (fld w 0 5),
      fun w => .ishiShrN (fld w 22 3) (fld w 15 7) (srcOf w 7) (fld w 0 5),
      fun w => .ishiShrZ (fld w 22 3) (fld w 15 7) (srcOf w 7) (fld w 0 5),
      fun w => .ishiRol (fld w 22 3) (fld w 15 7) (srcOf w 7) (fld w 0 5)]
  | 0x06 => [fun w => .and (fld w 22 3) (fld w 15 7) (srcOf w 7) (fld w 0 7)]
  | 0x07 => [fun w => .or (fld w 22 3) (fld w 15 7) (srcOf w 7) (fld w 0 7)]
  | 0x08 => [fun w => .xor (fld w 22 3) (fld w 15 7) (srcOf w 7) (fld w 0 7)]
  | 0x09 => [fun w => .shl (fld w 22 3) (fld w 15 7) (srcOf w 7) (fld w 0 7)]
  | 0x0A => [fun w => .shrN (fld w 22 3) (fld w 15 7) (srcOf w 7) (fld w 0 7)]
  | 0x0B => [fun w => .shrZ (fld w 22 3) (fld w 15 7) (srcOf w 7) (fld w 0 7)]
  | 0x0C => [fun w => .iminZ (fld w 22 3) (fld w 15 7) (srcOf w 7) (fld w 0 7)]
  | 0x0D => [fun w => .imaxZ (fld w 22 3) (fld w 15 7) (srcOf w 7) (fld w 0 7)]
  | 0x0E => [fun w => .iminN (fld w 22 3) (fld w 15 7) (srcOf w 7) (fld w 0 7)]
  | 0x0F => [fun w => .imaxN (fld w 22 3) (fld w 15 7) (srcOf w 7) (fld w 0 7)]
  | 0x10 => [fun w => .imulhZ (fld w 22 3) (fld w 15 7) (srcOf w 7) (fld w 0 7)]
  | 0x11 => [fun w => .imulhN (fld w 22 3) (fld w 15 7) (srcOf w 7) (fld w 0 7)]
  | 0x12 => [fun w => .idivZ (fld w 22 3) (fld w 15 7) (srcOf w 7) (fld w 0 7)]
  | 0x13 => [fun w => .idivN (fld w 22 3) (fld w 15 7) (srcOf w 7) (fld w 0 7)]
  | 0x14 => [fun w => .iunMov (fld w 22 3) (fld w 15 7) (srcOf w 7),
      fun w => .iunNot (fld w 22 3) (fld w 15 7) (srcOf w 7),
      fun w => .iunNeg (fld w 22 3) (fld w 15 7) (srcOf w 7),
      fun w => .iunAbs (fld w 22 3) (fld w 15 7) (srcOf w 7),
      fun w => .iunPopc (fld w 22 3) (fld w 15 7) (srcOf w 7),
      fun w => .iunClz (fld w 22 3) (fld w 15 7) (srcOf w 7),
      fun w => .iunCtz (fld w 22 3) (fld w 15 7) (srcOf w 7),
      fun w => .iunBrev (fld w 22 3) (fld w 15 7) (srcOf w 7),
      fun w => .iunBswap (fld w 22 3) (fld w 15 7) (srcOf w 7),
      fun w => .iunSext8 (fld w 22 3) (fld w 15 7) (srcOf w 7),
      fun w => .iunSext16 (fld w 22 3) (fld w 15 7) (srcOf w 7),
      fun w => .iunZext8 (fld w 22 3) (fld w 15 7) (srcOf w 7),
      fun w => .iunZext16 (fld w 22 3) (fld w 15 7) (srcOf w 7),
      fun w => .iunFneg (fld w 22 3) (fld w 15 7) (srcOf w 7),
      fun w => .iunFabs (fld w 22 3) (fld w 15 7) (srcOf w 7)]
  | 0x15 => [fun w => .bfxN (fld w 22 3) (fld w 15 7) (srcOf w 7) (fld w 0 7)]
  | 0x16 => [fun w => .bfxZ (fld w 22 3) (fld w 15 7) (srcOf w 7) (fld w 0 7)]
  | 0x17 => [fun w => .bfi (fld w 22 3) (fld w 15 7) (srcOf w 7) (fld w 0 7)]
  | 0x18 => [fun w => .icmp (fld w 22 3) (flag w 21) (fld w 15 6) (srcOf w 7) (fld w 0 7)]
  | 0x19 => [fun w => .icmpi (fld w 22 3) (flag w 21) (fld w 15 6) (srcOf w 7) (bits w 0 7)]
  | 0x1A => [fun w => .fcmp (fld w 22 3) (flag w 21) (fld w 15 6) (srcOf w 7) (fld w 0 7)]
  | 0x1B => [fun w => .predAnd (fld w 19 6) (fld w 13 6) (fld w 7 6),
      fun w => .predOr (fld w 19 6) (fld w 13 6) (fld w 7 6),
      fun w => .predXor (fld w 19 6) (fld w 13 6) (fld w 7 6),
      fun w => .predAndn (fld w 19 6) (fld w 13 6) (fld w 7 6),
      fun w => .predOrn (fld w 19 6) (fld w 13 6) (fld w 7 6),
      fun w => .predNot (fld w 13 6) (fld w 7 6),
      fun w => .predMov (fld w 13 6) (fld w 7 6),
      fun w => .predTov (fld w 15 7) (fld w 7 6),
      fun w => .predFromv (fld w 15 6) (srcOf w 7)]
  | 0x1C => [fun w => .fadd (fld w 22 3) (fld w 15 7) (srcOf w 7) (fld w 0 7)]
  | 0x1D => [fun w => .fsub (fld w 22 3) (fld w 15 7) (srcOf w 7) (fld w 0 7)]
  | 0x1E => [fun w => .fmul (fld w 22 3) (fld w 15 7) (srcOf w 7) (fld w 0 7)]
  | 0x1F => [fun w => .ffma (fld w 22 3) (fld w 15 7) (srcOf w 7) (fld w 0 7)]
  | 0x20 => [fun w => .fmin (fld w 22 3) (fld w 15 7) (srcOf w 7) (fld w 0 7)]
  | 0x21 => [fun w => .fmax (fld w 22 3) (fld w 15 7) (srcOf w 7) (fld w 0 7)]
  | 0x22 => [fun w => .fdiv (fld w 22 3) (fld w 15 7) (srcOf w 7) (fld w 0 7)]
  | 0x23 => [fun w => .funRcp (fld w 22 3) (fld w 15 7) (srcOf w 7),
      fun w => .funRsqrt (fld w 22 3) (fld w 15 7) (srcOf w 7),
      fun w => .funSqrt (fld w 22 3) (fld w 15 7) (srcOf w 7),
      fun w => .funExp2 (fld w 22 3) (fld w 15 7) (srcOf w 7),
      fun w => .funLog2 (fld w 22 3) (fld w 15 7) (srcOf w 7),
      fun w => .funSinpi (fld w 22 3) (fld w 15 7) (srcOf w 7),
      fun w => .funCospi (fld w 22 3) (fld w 15 7) (srcOf w 7),
      fun w => .funTanh (fld w 22 3) (fld w 15 7) (srcOf w 7),
      fun w => .funLogistic (fld w 22 3) (fld w 15 7) (srcOf w 7)]
  | 0x24 => [fun w => .hadd2 (fld w 22 3) (fld w 15 7) (srcOf w 7) (fld w 0 7)]
  | 0x25 => [fun w => .hmul2 (fld w 22 3) (fld w 15 7) (srcOf w 7) (fld w 0 7)]
  | 0x26 => [fun w => .hfma2 (fld w 22 3) (fld w 15 7) (srcOf w 7) (fld w 0 7)]
  | 0x27 => [fun w => .bfma2 (fld w 22 3) (fld w 15 7) (srcOf w 7) (fld w 0 7)]
  | 0x28 => [fun w => .ladd (fld w 22 3) (fld w 15 7) (srcOf w 7) (fld w 0 7)]
  | 0x29 => [fun w => .lmul (fld w 22 3) (fld w 15 7) (srcOf w 7) (fld w 0 7)]
  | 0x2A => [fun w => .cvtF16F32 (fld w 22 3) (fld w 15 7) (srcOf w 7),
      fun w => .cvtBf16F32 (fld w 22 3) (fld w 15 7) (srcOf w 7),
      fun w => .cvtF32F16 (fld w 22 3) (fld w 15 7) (srcOf w 7),
      fun w => .cvtF32Bf16 (fld w 22 3) (fld w 15 7) (srcOf w 7),
      fun w => .cvtE4m3F32 (fld w 22 3) (fld w 15 7) (srcOf w 7),
      fun w => .cvtE5m2F32 (fld w 22 3) (fld w 15 7) (srcOf w 7),
      fun w => .cvtF32E4m3 (fld w 22 3) (fld w 15 7) (srcOf w 7),
      fun w => .cvtF32E5m2 (fld w 22 3) (fld w 15 7) (srcOf w 7),
      fun w => .cvtZ32F32 (fld w 22 3) (fld w 15 7) (srcOf w 7),
      fun w => .cvtN32F32 (fld w 22 3) (fld w 15 7) (srcOf w 7),
      fun w => .cvtF32Z32 (fld w 22 3) (fld w 15 7) (srcOf w 7),
      fun w => .cvtF32N32 (fld w 22 3) (fld w 15 7) (srcOf w 7),
      fun w => .cvtZ16F32 (fld w 22 3) (fld w 15 7) (srcOf w 7),
      fun w => .cvtN16F32 (fld w 22 3) (fld w 15 7) (srcOf w 7),
      fun w => .cvtZ8F32 (fld w 22 3) (fld w 15 7) (srcOf w 7),
      fun w => .cvtN8F32 (fld w 22 3) (fld w 15 7) (srcOf w 7),
      fun w => .cvtF32Z8 (fld w 22 3) (fld w 15 7) (srcOf w 7),
      fun w => .cvtF32N8 (fld w 22 3) (fld w 15 7) (srcOf w 7),
      fun w => .cvtF32Z16 (fld w 22 3) (fld w 15 7) (srcOf w 7),
      fun w => .cvtF32N16 (fld w 22 3) (fld w 15 7) (srcOf w 7),
      fun w => .cvtZ16Z32 (fld w 22 3) (fld w 15 7) (srcOf w 7),
      fun w => .cvtN16Z32 (fld w 22 3) (fld w 15 7) (srcOf w 7),
      fun w => .cvtZ8Z32 (fld w 22 3) (fld w 15 7) (srcOf w 7),
      fun w => .cvtN8Z32 (fld w 22 3) (fld w 15 7) (srcOf w 7),
      fun w => .cvtL16F32 (fld w 22 3) (fld w 15 7) (srcOf w 7),
      fun w => .cvtF32L16 (fld w 22 3) (fld w 15 7) (srcOf w 7),
      fun w => .cvtL8F32 (fld w 22 3) (fld w 15 7) (srcOf w 7),
      fun w => .cvtF32L8 (fld w 22 3) (fld w 15 7) (srcOf w 7),
      fun w => .cvtZ8Tn5lo (fld w 22 3) (fld w 15 7) (srcOf w 7),
      fun w => .cvtZ8Tn5hi (fld w 22 3) (fld w 15 7) (srcOf w 7),
      fun w => .cvtTn5Z8 (fld w 22 3) (fld w 15 7) (srcOf w 7)]
  | 0x2B => [fun w => .qntMxp (fld w 22 3) (fld w 15 7) (srcOf w 7),
      fun w => .qntMxu (fld w 22 3) (fld w 15 7) (srcOf w 7),
      fun w => .qntAqp (fld w 22 3) (fld w 15 7) (srcOf w 7),
      fun w => .qntAqu (fld w 22 3) (fld w 15 7) (srcOf w 7)]
  | 0x2C => [fun w => .ld (fld w 22 3) (fld w 15 7) (fld w 10 5) (fld w 7 3) (fld w 0 7)]
  | 0x2D => [fun w => .st (fld w 22 3) (fld w 15 7) (fld w 10 5) (fld w 7 3) (fld w 0 7)]
  | 0x2E => [fun w => .lda (fld w 22 3) (fld w 15 7) (fld w 10 5) (fld w 7 3) (fld w 0 7)]
  | 0x2F => [fun w => .amoNAdd (fld w 15 7) (fld w 10 5) (fld w 7 3) (fld w 0 7),
      fun w => .amoNMin (fld w 15 7) (fld w 10 5) (fld w 7 3) (fld w 0 7),
      fun w => .amoNMax (fld w 15 7) (fld w 10 5) (fld w 7 3) (fld w 0 7),
      fun w => .amoNAnd (fld w 15 7) (fld w 10 5) (fld w 7 3) (fld w 0 7),
      fun w => .amoNOr (fld w 15 7) (fld w 10 5) (fld w 7 3) (fld w 0 7),
      fun w => .amoNXor (fld w 15 7) (fld w 10 5) (fld w 7 3) (fld w 0 7),
      fun w => .amoNXchg (fld w 15 7) (fld w 10 5) (fld w 7 3) (fld w 0 7),
      fun w => .amoNCas (fld w 15 7) (fld w 10 5) (fld w 7 3) (fld w 0 7)]
  | 0x30 => [fun w => .amoFAdd (fld w 15 7) (fld w 10 5) (fld w 7 3) (fld w 0 7),
      fun w => .amoFMin (fld w 15 7) (fld w 10 5) (fld w 7 3) (fld w 0 7),
      fun w => .amoFMax (fld w 15 7) (fld w 10 5) (fld w 7 3) (fld w 0 7),
      fun w => .amoFAnd (fld w 15 7) (fld w 10 5) (fld w 7 3) (fld w 0 7),
      fun w => .amoFOr (fld w 15 7) (fld w 10 5) (fld w 7 3) (fld w 0 7),
      fun w => .amoFXor (fld w 15 7) (fld w 10 5) (fld w 7 3) (fld w 0 7),
      fun w => .amoFXchg (fld w 15 7) (fld w 10 5) (fld w 7 3) (fld w 0 7),
      fun w => .amoFCas (fld w 15 7) (fld w 10 5) (fld w 7 3) (fld w 0 7)]
  | 0x31 => [fun w => .amoCAdd (fld w 15 7) (fld w 10 5) (fld w 7 3) (fld w 0 7),
      fun w => .amoCMin (fld w 15 7) (fld w 10 5) (fld w 7 3) (fld w 0 7),
      fun w => .amoCMax (fld w 15 7) (fld w 10 5) (fld w 7 3) (fld w 0 7),
      fun w => .amoCAnd (fld w 15 7) (fld w 10 5) (fld w 7 3) (fld w 0 7),
      fun w => .amoCOr (fld w 15 7) (fld w 10 5) (fld w 7 3) (fld w 0 7),
      fun w => .amoCXor (fld w 15 7) (fld w 10 5) (fld w 7 3) (fld w 0 7),
      fun w => .amoCXchg (fld w 15 7) (fld w 10 5) (fld w 7 3) (fld w 0 7),
      fun w => .amoCCas (fld w 15 7) (fld w 10 5) (fld w 7 3) (fld w 0 7)]
  | 0x32 => [fun w => .amoRAdd (fld w 15 7) (fld w 10 5) (fld w 0 7)]
  | 0x33 => [fun w => .bredAdd (fld w 15 7) (fld w 10 5) (fld w 7 3) (fld w 0 7),
      fun w => .bredMin (fld w 15 7) (fld w 10 5) (fld w 7 3) (fld w 0 7),
      fun w => .bredMax (fld w 15 7) (fld w 10 5) (fld w 7 3) (fld w 0 7),
      fun w => .bredAnd (fld w 15 7) (fld w 10 5) (fld w 7 3) (fld w 0 7),
      fun w => .bredOr (fld w 15 7) (fld w 10 5) (fld w 7 3) (fld w 0 7),
      fun w => .bredXor (fld w 15 7) (fld w 10 5) (fld w 7 3) (fld w 0 7)]
  | 0x34 => [fun _ => .memcFence,
      fun _ => .memcFenceLd,
      fun _ => .memcFenceSt,
      fun w => .memcPf (fld w 15 7) (fld w 7 5),
      fun w => .memcPfl1 (fld w 15 7) (fld w 7 5),
      fun w => .memcWbl (fld w 15 7) (fld w 7 5),
      fun w => .memcInvl (fld w 15 7) (fld w 7 5),
      fun _ => .memcWbL1,
      fun _ => .memcInvL1]
  | 0x35 => [fun w => .xlnBallot (fld w 15 7) (fld w 7 6),
      fun w => .xlnAll (fld w 15 6) (fld w 7 6),
      fun w => .xlnAny (fld w 15 6) (fld w 7 6),
      fun w => .xlnCount (fld w 15 7) (fld w 7 6),
      fun w => .xlnMatch (fld w 22 3) (fld w 15 7) (srcOf w 7),
      fun w => .xlnRadd (fld w 22 3) (fld w 15 7) (srcOf w 7),
      fun w => .xlnRminZ (fld w 22 3) (fld w 15 7) (srcOf w 7),
      fun w => .xlnRmaxZ (fld w 22 3) (fld w 15 7) (srcOf w 7),
      fun w => .xlnRminN (fld w 22 3) (fld w 15 7) (srcOf w 7),
      fun w => .xlnRmaxN (fld w 22 3) (fld w 15 7) (srcOf w 7),
      fun w => .xlnRand (fld w 22 3) (fld w 15 7) (srcOf w 7),
      fun w => .xlnRor (fld w 22 3) (fld w 15 7) (srcOf w 7),
      fun w => .xlnRxor (fld w 22 3) (fld w 15 7) (srcOf w 7),
      fun w => .xlnRfadd (fld w 22 3) (fld w 15 7) (srcOf w 7),
      fun w => .xlnRfmin (fld w 22 3) (fld w 15 7) (srcOf w 7),
      fun w => .xlnRfmax (fld w 22 3) (fld w 15 7) (srcOf w 7),
      fun w => .xlnIscanAdd (fld w 22 3) (fld w 15 7) (srcOf w 7),
      fun w => .xlnXscanAdd (fld w 22 3) (fld w 15 7) (srcOf w 7),
      fun w => .xlnIscanFadd (fld w 22 3) (fld w 15 7) (srcOf w 7),
      fun w => .xlnXscanFadd (fld w 22 3) (fld w 15 7) (srcOf w 7),
      fun w => .xlnIscanMinZ (fld w 22 3) (fld w 15 7) (srcOf w 7),
      fun w => .xlnIscanMaxZ (fld w 22 3) (fld w 15 7) (srcOf w 7),
      fun w => .xlnIscanOr (fld w 22 3) (fld w 15 7) (srcOf w 7)]
  | 0x36 => [fun w => .shfl (fld w 22 3) (fld w 15 7) (srcOf w 7) (fld w 0 7)]
  | 0x37 => [fun w => .xbar (fld w 22 3) (fld w 15 7) (srcOf w 7) (fld w 0 4)]
  | 0x38 => [fun w => .mma (fld w 19 4) (fld w 16 3) (srcOf w 8) (srcOf w 0),
      fun w => .mmaZ (fld w 19 4) (fld w 16 3) (srcOf w 8) (srcOf w 0)]
  | 0x39 => [fun w => .maccZero (fld w 7 4),
      fun w => .maccRd (fld w 22 3) (fld w 15 7) (fld w 11 4) (fld w 7 4),
      fun w => .maccWr (fld w 22 3) (fld w 15 7) (fld w 11 4) (fld w 7 4),
      fun w => .maccDrs (fld w 22 3) (fld w 15 7) (fld w 7 4),
      fun w => .maccDrm (fld w 22 3) (fld w 15 7) (fld w 11 4) (fld w 7 4),
      fun w => .maccDrsZ (fld w 22 3) (fld w 15 7) (fld w 7 4),
      fun w => .maccDrmZ (fld w 22 3) (fld w 15 7) (fld w 11 4) (fld w 7 4)]
  | 0x3A => [fun w => .movi (fld w 22 3) (fld w 15 7) (bits w 0 15)]
  | 0x3B => [fun w => .plyPut (fld w 22 3) (fld w 15 3) (srcOf w 7),
      fun w => .plyGet (fld w 22 3) (fld w 15 7) (fld w 10 3) (fld w 7 3),
      fun w => .plyBrx (bits w 7 18)]
  | 0x3C => [fun w => .br (fld w 19 6) (flag w 18) (flag w 17) (bits w 0 17)]
  | 0x3D => [fun w => .call (bits w 0 22),
      fun _ => .ret,
      fun w => .bri (fld w 15 7),
      fun _ => .exit,
      fun _ => .rcv,
      fun w => .barTeam (fld w 16 4),
      fun w => .barClu (fld w 16 4),
      fun _ => .yield,
      fun w => .trapc (fld w 16 6) (flag w 15) (bits w 0 8)]
  | 0x3E => [fun w => .loopr (fld w 18 7) (fld w 15 3) (bits w 0 15)]
  | 0x3F => [fun w => .pfx (fld w 19 6) (flag w 18) (fld w 15 3) (flag w 14) (fld w 7 7) (fld w 4 3) (fld w 0 4)]
  | 0x40 => [fun w => .uadd (fld w 18 7) (fld w 11 7) (usrcOf w),
      fun w => .uaddSatz (fld w 18 7) (fld w 11 7) (usrcOf w),
      fun w => .uaddSatn (fld w 18 7) (fld w 11 7) (usrcOf w)]
  | 0x41 => [fun w => .usub (fld w 18 7) (fld w 11 7) (usrcOf w),
      fun w => .usubSatz (fld w 18 7) (fld w 11 7) (usrcOf w),
      fun w => .usubSatn (fld w 18 7) (fld w 11 7) (usrcOf w)]
  | 0x42 => [fun w => .umul (fld w 18 7) (fld w 11 7) (usrcOf w),
      fun w => .umulhZ (fld w 18 7) (fld w 11 7) (usrcOf w),
      fun w => .umulhN (fld w 18 7) (fld w 11 7) (usrcOf w)]
  | 0x43 => [fun w => .uand (fld w 18 7) (fld w 11 7) (usrcOf w)]
  | 0x44 => [fun w => .uor (fld w 18 7) (fld w 11 7) (usrcOf w)]
  | 0x45 => [fun w => .uxor (fld w 18 7) (fld w 11 7) (usrcOf w)]
  | 0x46 => [fun w => .ushl (fld w 18 7) (fld w 11 7) (usrcOf w)]
  | 0x47 => [fun w => .ushrN (fld w 18 7) (fld w 11 7) (usrcOf w),
      fun w => .ushrZ (fld w 18 7) (fld w 11 7) (usrcOf w)]
  | 0x48 => [fun w => .uminZ (fld w 18 7) (fld w 11 7) (usrcOf w),
      fun w => .umaxZ (fld w 18 7) (fld w 11 7) (usrcOf w),
      fun w => .uminN (fld w 18 7) (fld w 11 7) (usrcOf w),
      fun w => .umaxN (fld w 18 7) (fld w 11 7) (usrcOf w),
      fun w => .ufmin (fld w 18 7) (fld w 11 7) (fld w 0 7),
      fun w => .ufmax (fld w 18 7) (fld w 11 7) (fld w 0 7)]
  | 0x49 => [fun w => .ucmp (fld w 18 7) (fld w 11 7) (fld w 7 3) (usrcOf w)]
  | 0x4A => [fun w => .umovhi (fld w 18 7) (bits w 0 14)]
  | 0x4B => [fun w => .umovlo (fld w 18 7) (bits w 0 18)]
  | 0x4C => [fun w => .bra (bits w 0 16),
      fun w => .braZ (fld w 18 7) (bits w 0 16),
      fun w => .braNz (fld w 18 7) (bits w 0 16)]
  | 0x4D => [fun w => .uld (fld w 18 7) (fld w 11 7) (fld w 0 5),
      fun w => .uldZ8 (fld w 18 7) (fld w 11 7) (fld w 0 5),
      fun w => .uldN8 (fld w 18 7) (fld w 11 7) (fld w 0 5),
      fun w => .uldZ16 (fld w 18 7) (fld w 11 7) (fld w 0 5),
      fun w => .uldN16 (fld w 18 7) (fld w 11 7) (fld w 0 5),
      fun w => .uld64 (fld w 18 7) (fld w 11 7) (fld w 0 5),
      fun w => .uld128 (fld w 18 7) (fld w 11 7) (fld w 0 5)]
  | 0x4E => [fun w => .ust (fld w 18 7) (fld w 11 7) (fld w 0 5),
      fun w => .ust8 (fld w 18 7) (fld w 11 7) (fld w 0 5),
      fun w => .ust16 (fld w 18 7) (fld w 11 7) (fld w 0 5),
      fun w => .ust64 (fld w 18 7) (fld w 11 7) (fld w 0 5),
      fun w => .ust128 (fld w 18 7) (fld w 11 7) (fld w 0 5)]
  | 0x4F => [fun w => .sread (fld w 18 7) (fld w 11 7),
      fun w => .sreadV (fld w 18 7) (fld w 11 7),
      fun w => .sreadClr (fld w 18 7) (fld w 11 7) (usrcOf w),
      fun w => .sreadXchg (fld w 18 7) (fld w 11 7) (fld w 0 7)]
  | 0x50 => [fun w => .swrite (fld w 18 7) (fld w 11 7)]
  | 0x51 => [fun w => .segld (fld w 18 3) (fld w 11 7),
      fun w => .segrd (fld w 18 7) (fld w 11 3)]
  | 0x52 => [fun w => .recld (fld w 18 5) (fld w 11 7),
      fun w => .recrd (fld w 18 7) (fld w 11 5)]
  | 0x53 => [fun w => .recsetBase (fld w 18 5) (fld w 11 7) (fld w 0 7),
      fun w => .recsetExt (fld w 18 5) (usrcOf w),
      fun w => .recsetStride (fld w 18 5) (usrcOf w),
      fun w => .recsetSwz (fld w 18 5) (usrcOf w),
      fun w => .recsetTag (fld w 18 5) (usrcOf w),
      fun w => .recsetFlags (fld w 18 5) (usrcOf w),
      fun w => .recsetAdv (fld w 18 5) (usrcOf w),
      fun w => .recsetFmt (fld w 18 5) (usrcOf w)]
  | 0x54 => [fun _ => .acq,
      fun w => .acqTry (fld w 18 7),
      fun _ => .acqRel]
  | 0x55 => [fun w => .cvset (fld w 18 3) (fld w 11 7),
      fun w => .cvsetAll (fld w 18 3),
      fun w => .cvrd (fld w 18 7) (fld w 11 3)]
  | 0x56 => [fun w => .mcfg (fld w 11 7),
      fun w => .mcfgRd (fld w 18 7)]
  | 0x57 => [fun w => .hwaitFull (fld w 18 7) (fld w 0 5),
      fun w => .hwaitFree (fld w 18 7) (fld w 0 5)]
  | 0x58 => [fun w => .hrel (fld w 0 5)]
  | 0x59 => [fun w => .hcommit (fld w 0 5)]
  | 0x5A => [fun w => .hqry (fld w 18 7) (fld w 0 5),
      fun w => .hqryBase (fld w 18 7) (fld w 0 5),
      fun w => .hqryTile (fld w 18 7) (fld w 0 5),
      fun w => .hqryScr (fld w 18 7),
      fun w => .hqryCore (fld w 18 7)]
  | 0x5B => [fun w => .mvx (fld w 18 7) (fld w 11 7),
      fun w => .mvxC (fld w 18 7) (fld w 11 7),
      fun w => .mvxB (fld w 18 7) (fld w 11 7)]
  | 0x5C => [fun w => .plycOpen (fld w 0 5),
      fun w => .plycOpenDrop (fld w 0 5),
      fun _ => .plycClose,
      fun _ => .plycRev,
      fun w => .plycMark (fld w 18 7),
      fun w => .plycStat (fld w 18 7)]
  | 0x5D => [fun w => .xpld (fld w 18 4) (fld w 11 7) (fld w 0 5)]
  | 0x5E => [fun _ => .tsyncAll,
      fun w => .tsyncPoll (fld w 18 7) (fld w 11 7),
      fun w => .tsyncCount (fld w 18 7),
      fun w => .tsyncPips (fld w 18 7)]
  | 0x5F => [fun w => .resv (fld w 18 7) (fld w 11 7) (fld w 0 5)]
  | 0x60 => [fun w => .launch (fld w 18 7) (fld w 11 7)]
  | 0x61 => [fun w => .tktWait (fld w 18 7),
      fun _ => .tktPost]
  | 0x62 => [fun w => .trapImm (fld w 0 7),
      fun w => .trapReg (fld w 0 7)]
  | 0x63 => [fun _ => .eret,
      fun _ => .eretStep,
      fun _ => .eretKill,
      fun _ => .eretOut]
  | 0x64 => [fun w => .ctxRd (fld w 18 7) (fld w 11 7) (usrcOf w),
      fun w => .ctxRdv (fld w 18 7) (fld w 11 7),
      fun w => .ctxWr (fld w 18 7) (fld w 11 7) (usrcOf w),
      fun w => .ctxWrv (fld w 18 7) (fld w 11 7),
      fun w => .ctxSave (fld w 0 5),
      fun w => .ctxRest (fld w 0 5)]
  | _ => []

/-- The instruction of a word (R43, R54, R58, R66, R72, R73). -/
noncomputable def decode (w : Nat) : Except DecodeError Instr :=
  match buildsOf (majorOf w), rowOfWord w with
  | [], _ => .error .reservedMajor
  | rows, some n => match rows[n]? with
    | some f => .ok (f w)
    | none => .error .reservedCode
  | _, none => .error .reservedCode

/-- R43: the 32-bit word stored little-endian at the head of a list of bytes. -/
def wordOfBytes : List Byte → Option Nat
  | b0 :: b1 :: b2 :: b3 :: _ => some (b0.toNat + 2 ^ 8 * b1.toNat + 2 ^ 16 * b2.toNat + 2 ^ 24 * b3.toNat)
  | _ => none

/-- The four bytes of a word, little-endian. -/
def bytesOfWord (w : Nat) : List Byte :=
  [BitVec.ofNat 8 w, BitVec.ofNat 8 (w / 2 ^ 8), BitVec.ofNat 8 (w / 2 ^ 16), BitVec.ofNat 8 (w / 2 ^ 24)]

/-- Decoding of bytes. -/
noncomputable def decodeBytes (bs : List Byte) : Except DecodeError Instr :=
  match wordOfBytes bs with
  | some w => decode w
  | none => .error .truncated

/-- The instruction that the decoder reads from an instruction whose bits are `w`. -/
noncomputable def decodeTableWord (nbits w : Nat) : Option Instr :=
  match decodeBytes (bytesOfWord (w % 2 ^ nbits)) with
  | .ok i => some i
  | .error _ => none

/-- A word put together from its fixed bits and its fields, each as (low bit, value). -/
def word (base : Nat) : List (Nat × Nat) → Nat
  | [] => base
  | f :: fs => 2 ^ f.1 * f.2 + word base fs

/-- The word of an instruction, from the encoding tables; a step without a word has none. -/
def encode : Instr → Option Nat
  | .pfx m s r z f o c => some (word 0x7E000000 [(19, m.val), (18, s.toNat), (15, r.val), (14, z.toNat), (7, f.val), (4, o.val), (0, c.val)])
  | .iadd e d a b => some (word 0x00000000 [(22, e.val), (15, d.val), (7, a.code), (0, b.val)])
  | .isub e d a b => some (word 0x02000000 [(22, e.val), (15, d.val), (7, a.code), (0, b.val)])
  | .imul e d a b => some (word 0x04000000 [(22, e.val), (15, d.val), (7, a.code), (0, b.val)])
  | .imad e d a b => some (word 0x06000000 [(22, e.val), (15, d.val), (7, a.code), (0, b.val)])
  | .iaddi e d a m => some (word 0x08000000 [(22, e.val), (15, d.val), (7, a.code), (0, m.toNat)])
  | .ishiShl e d a n => some (word 0x0A000000 [(22, e.val), (15, d.val), (7, a.code), (0, n.val)])
  | .ishiShrN e d a n => some (word 0x0A000020 [(22, e.val), (15, d.val), (7, a.code), (0, n.val)])
  | .ishiShrZ e d a n => some (word 0x0A000040 [(22, e.val), (15, d.val), (7, a.code), (0, n.val)])
  | .ishiRol e d a n => some (word 0x0A000060 [(22, e.val), (15, d.val), (7, a.code), (0, n.val)])
  | .and e d a b => some (word 0x0C000000 [(22, e.val), (15, d.val), (7, a.code), (0, b.val)])
  | .or e d a b => some (word 0x0E000000 [(22, e.val), (15, d.val), (7, a.code), (0, b.val)])
  | .xor e d a b => some (word 0x10000000 [(22, e.val), (15, d.val), (7, a.code), (0, b.val)])
  | .shl e d a b => some (word 0x12000000 [(22, e.val), (15, d.val), (7, a.code), (0, b.val)])
  | .shrN e d a b => some (word 0x14000000 [(22, e.val), (15, d.val), (7, a.code), (0, b.val)])
  | .shrZ e d a b => some (word 0x16000000 [(22, e.val), (15, d.val), (7, a.code), (0, b.val)])
  | .iminZ e d a b => some (word 0x18000000 [(22, e.val), (15, d.val), (7, a.code), (0, b.val)])
  | .imaxZ e d a b => some (word 0x1A000000 [(22, e.val), (15, d.val), (7, a.code), (0, b.val)])
  | .iminN e d a b => some (word 0x1C000000 [(22, e.val), (15, d.val), (7, a.code), (0, b.val)])
  | .imaxN e d a b => some (word 0x1E000000 [(22, e.val), (15, d.val), (7, a.code), (0, b.val)])
  | .imulhZ e d a b => some (word 0x20000000 [(22, e.val), (15, d.val), (7, a.code), (0, b.val)])
  | .imulhN e d a b => some (word 0x22000000 [(22, e.val), (15, d.val), (7, a.code), (0, b.val)])
  | .idivZ e d a b => some (word 0x24000000 [(22, e.val), (15, d.val), (7, a.code), (0, b.val)])
  | .idivN e d a b => some (word 0x26000000 [(22, e.val), (15, d.val), (7, a.code), (0, b.val)])
  | .iunMov e d a => some (word 0x28000000 [(22, e.val), (15, d.val), (7, a.code)])
  | .iunNot e d a => some (word 0x28000001 [(22, e.val), (15, d.val), (7, a.code)])
  | .iunNeg e d a => some (word 0x28000002 [(22, e.val), (15, d.val), (7, a.code)])
  | .iunAbs e d a => some (word 0x28000003 [(22, e.val), (15, d.val), (7, a.code)])
  | .iunPopc e d a => some (word 0x28000004 [(22, e.val), (15, d.val), (7, a.code)])
  | .iunClz e d a => some (word 0x28000005 [(22, e.val), (15, d.val), (7, a.code)])
  | .iunCtz e d a => some (word 0x28000006 [(22, e.val), (15, d.val), (7, a.code)])
  | .iunBrev e d a => some (word 0x28000007 [(22, e.val), (15, d.val), (7, a.code)])
  | .iunBswap e d a => some (word 0x28000008 [(22, e.val), (15, d.val), (7, a.code)])
  | .iunSext8 e d a => some (word 0x28000009 [(22, e.val), (15, d.val), (7, a.code)])
  | .iunSext16 e d a => some (word 0x2800000A [(22, e.val), (15, d.val), (7, a.code)])
  | .iunZext8 e d a => some (word 0x2800000B [(22, e.val), (15, d.val), (7, a.code)])
  | .iunZext16 e d a => some (word 0x2800000C [(22, e.val), (15, d.val), (7, a.code)])
  | .iunFneg e d a => some (word 0x2800000D [(22, e.val), (15, d.val), (7, a.code)])
  | .iunFabs e d a => some (word 0x2800000E [(22, e.val), (15, d.val), (7, a.code)])
  | .bfxN e d a b => some (word 0x2A000000 [(22, e.val), (15, d.val), (7, a.code), (0, b.val)])
  | .bfxZ e d a b => some (word 0x2C000000 [(22, e.val), (15, d.val), (7, a.code), (0, b.val)])
  | .bfi e d a b => some (word 0x2E000000 [(22, e.val), (15, d.val), (7, a.code), (0, b.val)])
  | .icmp c x p a b => some (word 0x30000000 [(22, c.val), (21, x.toNat), (15, p.val), (7, a.code), (0, b.val)])
  | .icmpi c x p a m => some (word 0x32000000 [(22, c.val), (21, x.toNat), (15, p.val), (7, a.code), (0, m.toNat)])
  | .fcmp c x p a b => some (word 0x34000000 [(22, c.val), (21, x.toNat), (15, p.val), (7, a.code), (0, b.val)])
  | .predAnd b d a => some (word 0x36000000 [(19, b.val), (13, d.val), (7, a.val)])
  | .predOr b d a => some (word 0x36000001 [(19, b.val), (13, d.val), (7, a.val)])
  | .predXor b d a => some (word 0x36000002 [(19, b.val), (13, d.val), (7, a.val)])
  | .predAndn b d a => some (word 0x36000003 [(19, b.val), (13, d.val), (7, a.val)])
  | .predOrn b d a => some (word 0x36000004 [(19, b.val), (13, d.val), (7, a.val)])
  | .predNot d a => some (word 0x36000005 [(13, d.val), (7, a.val)])
  | .predMov d a => some (word 0x36000006 [(13, d.val), (7, a.val)])
  | .predTov d a => some (word 0x36000008 [(15, d.val), (7, a.val)])
  | .predFromv d a => some (word 0x36000009 [(15, d.val), (7, a.code)])
  | .fadd e d a b => some (word 0x38000000 [(22, e.val), (15, d.val), (7, a.code), (0, b.val)])
  | .fsub e d a b => some (word 0x3A000000 [(22, e.val), (15, d.val), (7, a.code), (0, b.val)])
  | .fmul e d a b => some (word 0x3C000000 [(22, e.val), (15, d.val), (7, a.code), (0, b.val)])
  | .ffma e d a b => some (word 0x3E000000 [(22, e.val), (15, d.val), (7, a.code), (0, b.val)])
  | .fmin e d a b => some (word 0x40000000 [(22, e.val), (15, d.val), (7, a.code), (0, b.val)])
  | .fmax e d a b => some (word 0x42000000 [(22, e.val), (15, d.val), (7, a.code), (0, b.val)])
  | .fdiv e d a b => some (word 0x44000000 [(22, e.val), (15, d.val), (7, a.code), (0, b.val)])
  | .funRcp e d a => some (word 0x46000000 [(22, e.val), (15, d.val), (7, a.code)])
  | .funRsqrt e d a => some (word 0x46000001 [(22, e.val), (15, d.val), (7, a.code)])
  | .funSqrt e d a => some (word 0x46000002 [(22, e.val), (15, d.val), (7, a.code)])
  | .funExp2 e d a => some (word 0x46000003 [(22, e.val), (15, d.val), (7, a.code)])
  | .funLog2 e d a => some (word 0x46000004 [(22, e.val), (15, d.val), (7, a.code)])
  | .funSinpi e d a => some (word 0x46000005 [(22, e.val), (15, d.val), (7, a.code)])
  | .funCospi e d a => some (word 0x46000006 [(22, e.val), (15, d.val), (7, a.code)])
  | .funTanh e d a => some (word 0x46000007 [(22, e.val), (15, d.val), (7, a.code)])
  | .funLogistic e d a => some (word 0x46000008 [(22, e.val), (15, d.val), (7, a.code)])
  | .hadd2 e d a b => some (word 0x48000000 [(22, e.val), (15, d.val), (7, a.code), (0, b.val)])
  | .hmul2 e d a b => some (word 0x4A000000 [(22, e.val), (15, d.val), (7, a.code), (0, b.val)])
  | .hfma2 e d a b => some (word 0x4C000000 [(22, e.val), (15, d.val), (7, a.code), (0, b.val)])
  | .bfma2 e d a b => some (word 0x4E000000 [(22, e.val), (15, d.val), (7, a.code), (0, b.val)])
  | .ladd e d a b => some (word 0x50000000 [(22, e.val), (15, d.val), (7, a.code), (0, b.val)])
  | .lmul e d a b => some (word 0x52000000 [(22, e.val), (15, d.val), (7, a.code), (0, b.val)])
  | .cvtF16F32 e d a => some (word 0x54000000 [(22, e.val), (15, d.val), (7, a.code)])
  | .cvtBf16F32 e d a => some (word 0x54000001 [(22, e.val), (15, d.val), (7, a.code)])
  | .cvtF32F16 e d a => some (word 0x54000002 [(22, e.val), (15, d.val), (7, a.code)])
  | .cvtF32Bf16 e d a => some (word 0x54000003 [(22, e.val), (15, d.val), (7, a.code)])
  | .cvtE4m3F32 e d a => some (word 0x54000004 [(22, e.val), (15, d.val), (7, a.code)])
  | .cvtE5m2F32 e d a => some (word 0x54000005 [(22, e.val), (15, d.val), (7, a.code)])
  | .cvtF32E4m3 e d a => some (word 0x54000006 [(22, e.val), (15, d.val), (7, a.code)])
  | .cvtF32E5m2 e d a => some (word 0x54000007 [(22, e.val), (15, d.val), (7, a.code)])
  | .cvtZ32F32 e d a => some (word 0x54000008 [(22, e.val), (15, d.val), (7, a.code)])
  | .cvtN32F32 e d a => some (word 0x54000009 [(22, e.val), (15, d.val), (7, a.code)])
  | .cvtF32Z32 e d a => some (word 0x5400000A [(22, e.val), (15, d.val), (7, a.code)])
  | .cvtF32N32 e d a => some (word 0x5400000B [(22, e.val), (15, d.val), (7, a.code)])
  | .cvtZ16F32 e d a => some (word 0x5400000C [(22, e.val), (15, d.val), (7, a.code)])
  | .cvtN16F32 e d a => some (word 0x5400000D [(22, e.val), (15, d.val), (7, a.code)])
  | .cvtZ8F32 e d a => some (word 0x5400000E [(22, e.val), (15, d.val), (7, a.code)])
  | .cvtN8F32 e d a => some (word 0x5400000F [(22, e.val), (15, d.val), (7, a.code)])
  | .cvtF32Z8 e d a => some (word 0x54000010 [(22, e.val), (15, d.val), (7, a.code)])
  | .cvtF32N8 e d a => some (word 0x54000011 [(22, e.val), (15, d.val), (7, a.code)])
  | .cvtF32Z16 e d a => some (word 0x54000012 [(22, e.val), (15, d.val), (7, a.code)])
  | .cvtF32N16 e d a => some (word 0x54000013 [(22, e.val), (15, d.val), (7, a.code)])
  | .cvtZ16Z32 e d a => some (word 0x54000014 [(22, e.val), (15, d.val), (7, a.code)])
  | .cvtN16Z32 e d a => some (word 0x54000015 [(22, e.val), (15, d.val), (7, a.code)])
  | .cvtZ8Z32 e d a => some (word 0x54000016 [(22, e.val), (15, d.val), (7, a.code)])
  | .cvtN8Z32 e d a => some (word 0x54000017 [(22, e.val), (15, d.val), (7, a.code)])
  | .cvtL16F32 e d a => some (word 0x54000018 [(22, e.val), (15, d.val), (7, a.code)])
  | .cvtF32L16 e d a => some (word 0x54000019 [(22, e.val), (15, d.val), (7, a.code)])
  | .cvtL8F32 e d a => some (word 0x5400001A [(22, e.val), (15, d.val), (7, a.code)])
  | .cvtF32L8 e d a => some (word 0x5400001B [(22, e.val), (15, d.val), (7, a.code)])
  | .cvtZ8Tn5lo e d a => some (word 0x5400001C [(22, e.val), (15, d.val), (7, a.code)])
  | .cvtZ8Tn5hi e d a => some (word 0x5400001D [(22, e.val), (15, d.val), (7, a.code)])
  | .cvtTn5Z8 e d a => some (word 0x5400001E [(22, e.val), (15, d.val), (7, a.code)])
  | .qntMxp f d a => some (word 0x56000000 [(22, f.val), (15, d.val), (7, a.code)])
  | .qntMxu f d a => some (word 0x56000001 [(22, f.val), (15, d.val), (7, a.code)])
  | .qntAqp f d a => some (word 0x56000002 [(22, f.val), (15, d.val), (7, a.code)])
  | .qntAqu f d a => some (word 0x56000003 [(22, f.val), (15, d.val), (7, a.code)])
  | .ld e d r w i => some (word 0x58000000 [(22, e.val), (15, d.val), (10, r.val), (7, w.val), (0, i.val)])
  | .st e d r w i => some (word 0x5A000000 [(22, e.val), (15, d.val), (10, r.val), (7, w.val), (0, i.val)])
  | .lda e d r t i => some (word 0x5C000000 [(22, e.val), (15, d.val), (10, r.val), (7, t.val), (0, i.val)])
  | .amoNAdd d r w i => some (word 0x5E000000 [(15, d.val), (10, r.val), (7, w.val), (0, i.val)])
  | .amoNMin d r w i => some (word 0x5E400000 [(15, d.val), (10, r.val), (7, w.val), (0, i.val)])
  | .amoNMax d r w i => some (word 0x5E800000 [(15, d.val), (10, r.val), (7, w.val), (0, i.val)])
  | .amoNAnd d r w i => some (word 0x5EC00000 [(15, d.val), (10, r.val), (7, w.val), (0, i.val)])
  | .amoNOr d r w i => some (word 0x5F000000 [(15, d.val), (10, r.val), (7, w.val), (0, i.val)])
  | .amoNXor d r w i => some (word 0x5F400000 [(15, d.val), (10, r.val), (7, w.val), (0, i.val)])
  | .amoNXchg d r w i => some (word 0x5F800000 [(15, d.val), (10, r.val), (7, w.val), (0, i.val)])
  | .amoNCas d r w i => some (word 0x5FC00000 [(15, d.val), (10, r.val), (7, w.val), (0, i.val)])
  | .amoFAdd d r w i => some (word 0x60000000 [(15, d.val), (10, r.val), (7, w.val), (0, i.val)])
  | .amoFMin d r w i => some (word 0x60400000 [(15, d.val), (10, r.val), (7, w.val), (0, i.val)])
  | .amoFMax d r w i => some (word 0x60800000 [(15, d.val), (10, r.val), (7, w.val), (0, i.val)])
  | .amoFAnd d r w i => some (word 0x60C00000 [(15, d.val), (10, r.val), (7, w.val), (0, i.val)])
  | .amoFOr d r w i => some (word 0x61000000 [(15, d.val), (10, r.val), (7, w.val), (0, i.val)])
  | .amoFXor d r w i => some (word 0x61400000 [(15, d.val), (10, r.val), (7, w.val), (0, i.val)])
  | .amoFXchg d r w i => some (word 0x61800000 [(15, d.val), (10, r.val), (7, w.val), (0, i.val)])
  | .amoFCas d r w i => some (word 0x61C00000 [(15, d.val), (10, r.val), (7, w.val), (0, i.val)])
  | .amoCAdd d r w i => some (word 0x62000000 [(15, d.val), (10, r.val), (7, w.val), (0, i.val)])
  | .amoCMin d r w i => some (word 0x62400000 [(15, d.val), (10, r.val), (7, w.val), (0, i.val)])
  | .amoCMax d r w i => some (word 0x62800000 [(15, d.val), (10, r.val), (7, w.val), (0, i.val)])
  | .amoCAnd d r w i => some (word 0x62C00000 [(15, d.val), (10, r.val), (7, w.val), (0, i.val)])
  | .amoCOr d r w i => some (word 0x63000000 [(15, d.val), (10, r.val), (7, w.val), (0, i.val)])
  | .amoCXor d r w i => some (word 0x63400000 [(15, d.val), (10, r.val), (7, w.val), (0, i.val)])
  | .amoCXchg d r w i => some (word 0x63800000 [(15, d.val), (10, r.val), (7, w.val), (0, i.val)])
  | .amoCCas d r w i => some (word 0x63C00000 [(15, d.val), (10, r.val), (7, w.val), (0, i.val)])
  | .amoRAdd d r i => some (word 0x64000080 [(15, d.val), (10, r.val), (0, i.val)])
  | .bredAdd d r w i => some (word 0x66000000 [(15, d.val), (10, r.val), (7, w.val), (0, i.val)])
  | .bredMin d r w i => some (word 0x66400000 [(15, d.val), (10, r.val), (7, w.val), (0, i.val)])
  | .bredMax d r w i => some (word 0x66800000 [(15, d.val), (10, r.val), (7, w.val), (0, i.val)])
  | .bredAnd d r w i => some (word 0x66C00000 [(15, d.val), (10, r.val), (7, w.val), (0, i.val)])
  | .bredOr d r w i => some (word 0x67000000 [(15, d.val), (10, r.val), (7, w.val), (0, i.val)])
  | .bredXor d r w i => some (word 0x67400000 [(15, d.val), (10, r.val), (7, w.val), (0, i.val)])
  | .memcFence => some (word 0x68000000 [])
  | .memcFenceLd => some (word 0x68000001 [])
  | .memcFenceSt => some (word 0x68000002 [])
  | .memcPf d r => some (word 0x68000008 [(15, d.val), (7, r.val)])
  | .memcPfl1 d r => some (word 0x68000009 [(15, d.val), (7, r.val)])
  | .memcWbl d r => some (word 0x6800000A [(15, d.val), (7, r.val)])
  | .memcInvl d r => some (word 0x6800000B [(15, d.val), (7, r.val)])
  | .memcWbL1 => some (word 0x68000010 [])
  | .memcInvL1 => some (word 0x68000011 [])
  | .xlnBallot d a => some (word 0x6A000000 [(15, d.val), (7, a.val)])
  | .xlnAll d a => some (word 0x6A000001 [(15, d.val), (7, a.val)])
  | .xlnAny d a => some (word 0x6A000002 [(15, d.val), (7, a.val)])
  | .xlnCount d a => some (word 0x6A000003 [(15, d.val), (7, a.val)])
  | .xlnMatch e d a => some (word 0x6A000004 [(22, e.val), (15, d.val), (7, a.code)])
  | .xlnRadd e d a => some (word 0x6A000008 [(22, e.val), (15, d.val), (7, a.code)])
  | .xlnRminZ e d a => some (word 0x6A000009 [(22, e.val), (15, d.val), (7, a.code)])
  | .xlnRmaxZ e d a => some (word 0x6A00000A [(22, e.val), (15, d.val), (7, a.code)])
  | .xlnRminN e d a => some (word 0x6A00000B [(22, e.val), (15, d.val), (7, a.code)])
  | .xlnRmaxN e d a => some (word 0x6A00000C [(22, e.val), (15, d.val), (7, a.code)])
  | .xlnRand e d a => some (word 0x6A00000D [(22, e.val), (15, d.val), (7, a.code)])
  | .xlnRor e d a => some (word 0x6A00000E [(22, e.val), (15, d.val), (7, a.code)])
  | .xlnRxor e d a => some (word 0x6A00000F [(22, e.val), (15, d.val), (7, a.code)])
  | .xlnRfadd e d a => some (word 0x6A000010 [(22, e.val), (15, d.val), (7, a.code)])
  | .xlnRfmin e d a => some (word 0x6A000011 [(22, e.val), (15, d.val), (7, a.code)])
  | .xlnRfmax e d a => some (word 0x6A000012 [(22, e.val), (15, d.val), (7, a.code)])
  | .xlnIscanAdd e d a => some (word 0x6A000018 [(22, e.val), (15, d.val), (7, a.code)])
  | .xlnXscanAdd e d a => some (word 0x6A000019 [(22, e.val), (15, d.val), (7, a.code)])
  | .xlnIscanFadd e d a => some (word 0x6A00001A [(22, e.val), (15, d.val), (7, a.code)])
  | .xlnXscanFadd e d a => some (word 0x6A00001B [(22, e.val), (15, d.val), (7, a.code)])
  | .xlnIscanMinZ e d a => some (word 0x6A00001C [(22, e.val), (15, d.val), (7, a.code)])
  | .xlnIscanMaxZ e d a => some (word 0x6A00001D [(22, e.val), (15, d.val), (7, a.code)])
  | .xlnIscanOr e d a => some (word 0x6A00001E [(22, e.val), (15, d.val), (7, a.code)])
  | .shfl e d a b => some (word 0x6C000000 [(22, e.val), (15, d.val), (7, a.code), (0, b.val)])
  | .xbar e d a n => some (word 0x6E000000 [(22, e.val), (15, d.val), (7, a.code), (0, n.val)])
  | .mma t c a b => some (word 0x70000000 [(19, t.val), (16, c.val), (8, a.code), (0, b.code)])
  | .mmaZ t c a b => some (word 0x70800000 [(19, t.val), (16, c.val), (8, a.code), (0, b.code)])
  | .maccZero t => some (word 0x72000000 [(7, t.val)])
  | .maccRd e d w t => some (word 0x72000001 [(22, e.val), (15, d.val), (11, w.val), (7, t.val)])
  | .maccWr e d w t => some (word 0x72000002 [(22, e.val), (15, d.val), (11, w.val), (7, t.val)])
  | .maccDrs k d t => some (word 0x72000004 [(22, k.val), (15, d.val), (7, t.val)])
  | .maccDrm k d r t => some (word 0x72000005 [(22, k.val), (15, d.val), (11, r.val), (7, t.val)])
  | .maccDrsZ k d t => some (word 0x72000006 [(22, k.val), (15, d.val), (7, t.val)])
  | .maccDrmZ k d r t => some (word 0x72000007 [(22, k.val), (15, d.val), (11, r.val), (7, t.val)])
  | .movi e d m => some (word 0x74000000 [(22, e.val), (15, d.val), (0, m.toNat)])
  | .plyPut e s a => some (word 0x76000000 [(22, e.val), (15, s.val), (7, a.code)])
  | .plyGet e d k s => some (word 0x76000001 [(22, e.val), (15, d.val), (10, k.val), (7, s.val)])
  | .plyBrx o => some (word 0x76000002 [(7, o.toNat)])
  | .br p s r o => some (word 0x78000000 [(19, p.val), (18, s.toNat), (17, r.toNat), (0, o.toNat)])
  | .call o => some (word 0x7A000000 [(0, o.toNat)])
  | .ret => some (word 0x7A400000 [])
  | .bri a => some (word 0x7A800000 [(15, a.val)])
  | .exit => some (word 0x7AC00000 [])
  | .rcv => some (word 0x7B000000 [])
  | .barTeam n => some (word 0x7B400000 [(16, n.val)])
  | .barClu n => some (word 0x7B500000 [(16, n.val)])
  | .yield => some (word 0x7B800000 [])
  | .trapc p s m => some (word 0x7BC00000 [(16, p.val), (15, s.toNat), (0, m.toNat)])
  | .loopr c s o => some (word 0x7C000000 [(18, c.val), (15, s.val), (0, o.toNat)])
  | .uadd d a b => some (word 0x80000000 [(18, d.val), (11, a.val), (0, b.code)])
  | .uaddSatz d a b => some (word 0x80000080 [(18, d.val), (11, a.val), (0, b.code)])
  | .uaddSatn d a b => some (word 0x80000100 [(18, d.val), (11, a.val), (0, b.code)])
  | .usub d a b => some (word 0x82000000 [(18, d.val), (11, a.val), (0, b.code)])
  | .usubSatz d a b => some (word 0x82000080 [(18, d.val), (11, a.val), (0, b.code)])
  | .usubSatn d a b => some (word 0x82000100 [(18, d.val), (11, a.val), (0, b.code)])
  | .umul d a b => some (word 0x84000000 [(18, d.val), (11, a.val), (0, b.code)])
  | .umulhZ d a b => some (word 0x84000080 [(18, d.val), (11, a.val), (0, b.code)])
  | .umulhN d a b => some (word 0x84000100 [(18, d.val), (11, a.val), (0, b.code)])
  | .uand d a b => some (word 0x86000000 [(18, d.val), (11, a.val), (0, b.code)])
  | .uor d a b => some (word 0x88000000 [(18, d.val), (11, a.val), (0, b.code)])
  | .uxor d a b => some (word 0x8A000000 [(18, d.val), (11, a.val), (0, b.code)])
  | .ushl d a b => some (word 0x8C000000 [(18, d.val), (11, a.val), (0, b.code)])
  | .ushrN d a b => some (word 0x8E000000 [(18, d.val), (11, a.val), (0, b.code)])
  | .ushrZ d a b => some (word 0x8E000080 [(18, d.val), (11, a.val), (0, b.code)])
  | .uminZ d a b => some (word 0x90000000 [(18, d.val), (11, a.val), (0, b.code)])
  | .umaxZ d a b => some (word 0x90000080 [(18, d.val), (11, a.val), (0, b.code)])
  | .uminN d a b => some (word 0x90000100 [(18, d.val), (11, a.val), (0, b.code)])
  | .umaxN d a b => some (word 0x90000180 [(18, d.val), (11, a.val), (0, b.code)])
  | .ufmin d a b => some (word 0x90000200 [(18, d.val), (11, a.val), (0, b.val)])
  | .ufmax d a b => some (word 0x90000280 [(18, d.val), (11, a.val), (0, b.val)])
  | .ucmp d a c b => some (word 0x92000000 [(18, d.val), (11, a.val), (7, c.val), (0, b.code)])
  | .umovhi d m => some (word 0x94000000 [(18, d.val), (0, m.toNat)])
  | .umovlo d m => some (word 0x96000000 [(18, d.val), (0, m.toNat)])
  | .bra o => some (word 0x98000000 [(0, o.toNat)])
  | .braZ c o => some (word 0x98010000 [(18, c.val), (0, o.toNat)])
  | .braNz c o => some (word 0x98020000 [(18, c.val), (0, o.toNat)])
  | .uld d a r => some (word 0x9A000000 [(18, d.val), (11, a.val), (0, r.val)])
  | .uldZ8 d a r => some (word 0x9A000080 [(18, d.val), (11, a.val), (0, r.val)])
  | .uldN8 d a r => some (word 0x9A000100 [(18, d.val), (11, a.val), (0, r.val)])
  | .uldZ16 d a r => some (word 0x9A000180 [(18, d.val), (11, a.val), (0, r.val)])
  | .uldN16 d a r => some (word 0x9A000200 [(18, d.val), (11, a.val), (0, r.val)])
  | .uld64 d a r => some (word 0x9A000280 [(18, d.val), (11, a.val), (0, r.val)])
  | .uld128 d a r => some (word 0x9A000300 [(18, d.val), (11, a.val), (0, r.val)])
  | .ust d a r => some (word 0x9C000000 [(18, d.val), (11, a.val), (0, r.val)])
  | .ust8 d a r => some (word 0x9C000100 [(18, d.val), (11, a.val), (0, r.val)])
  | .ust16 d a r => some (word 0x9C000200 [(18, d.val), (11, a.val), (0, r.val)])
  | .ust64 d a r => some (word 0x9C000280 [(18, d.val), (11, a.val), (0, r.val)])
  | .ust128 d a r => some (word 0x9C000300 [(18, d.val), (11, a.val), (0, r.val)])
  | .sread d a => some (word 0x9E000000 [(18, d.val), (11, a.val)])
  | .sreadV d a => some (word 0x9E000080 [(18, d.val), (11, a.val)])
  | .sreadClr d a b => some (word 0x9E000100 [(18, d.val), (11, a.val), (0, b.code)])
  | .sreadXchg d a b => some (word 0x9E000180 [(18, d.val), (11, a.val), (0, b.val)])
  | .swrite d a => some (word 0xA0000000 [(18, d.val), (11, a.val)])
  | .segld n a => some (word 0xA2000000 [(18, n.val), (11, a.val)])
  | .segrd d n => some (word 0xA2000080 [(18, d.val), (11, n.val)])
  | .recld r a => some (word 0xA4000000 [(18, r.val), (11, a.val)])
  | .recrd d r => some (word 0xA4000080 [(18, d.val), (11, r.val)])
  | .recsetBase r a b => some (word 0xA6000000 [(18, r.val), (11, a.val), (0, b.val)])
  | .recsetExt r b => some (word 0xA6000080 [(18, r.val), (0, b.code)])
  | .recsetStride r b => some (word 0xA6000100 [(18, r.val), (0, b.code)])
  | .recsetSwz r b => some (word 0xA6000180 [(18, r.val), (0, b.code)])
  | .recsetTag r b => some (word 0xA6000200 [(18, r.val), (0, b.code)])
  | .recsetFlags r b => some (word 0xA6000280 [(18, r.val), (0, b.code)])
  | .recsetAdv r b => some (word 0xA6000300 [(18, r.val), (0, b.code)])
  | .recsetFmt r b => some (word 0xA6000380 [(18, r.val), (0, b.code)])
  | .acq => some (word 0xA8000000 [])
  | .acqTry d => some (word 0xA8000080 [(18, d.val)])
  | .acqRel => some (word 0xA8000100 [])
  | .cvset n a => some (word 0xAA000000 [(18, n.val), (11, a.val)])
  | .cvsetAll n => some (word 0xAA000080 [(18, n.val)])
  | .cvrd d n => some (word 0xAA000100 [(18, d.val), (11, n.val)])
  | .mcfg a => some (word 0xAC000000 [(11, a.val)])
  | .mcfgRd d => some (word 0xAC000080 [(18, d.val)])
  | .hwaitFull d n => some (word 0xAE000000 [(18, d.val), (0, n.val)])
  | .hwaitFree d n => some (word 0xAE000080 [(18, d.val), (0, n.val)])
  | .hrel n => some (word 0xB0000000 [(0, n.val)])
  | .hcommit n => some (word 0xB2000000 [(0, n.val)])
  | .hqry d n => some (word 0xB4000000 [(18, d.val), (0, n.val)])
  | .hqryBase d n => some (word 0xB4000080 [(18, d.val), (0, n.val)])
  | .hqryTile d n => some (word 0xB4000100 [(18, d.val), (0, n.val)])
  | .hqryScr d => some (word 0xB4000180 [(18, d.val)])
  | .hqryCore d => some (word 0xB4000200 [(18, d.val)])
  | .mvx d a => some (word 0xB6000000 [(18, d.val), (11, a.val)])
  | .mvxC d a => some (word 0xB6000080 [(18, d.val), (11, a.val)])
  | .mvxB d a => some (word 0xB6000100 [(18, d.val), (11, a.val)])
  | .plycOpen r => some (word 0xB8000000 [(0, r.val)])
  | .plycOpenDrop r => some (word 0xB8000800 [(0, r.val)])
  | .plycClose => some (word 0xB8000080 [])
  | .plycRev => some (word 0xB8000100 [])
  | .plycMark d => some (word 0xB8000180 [(18, d.val)])
  | .plycStat d => some (word 0xB8000200 [(18, d.val)])
  | .xpld n a r => some (word 0xBA000000 [(18, n.val), (11, a.val), (0, r.val)])
  | .tsyncAll => some (word 0xBC000000 [])
  | .tsyncPoll d a => some (word 0xBC000080 [(18, d.val), (11, a.val)])
  | .tsyncCount d => some (word 0xBC000100 [(18, d.val)])
  | .tsyncPips d => some (word 0xBC000180 [(18, d.val)])
  | .resv d a r => some (word 0xBE000000 [(18, d.val), (11, a.val), (0, r.val)])
  | .launch d a => some (word 0xC0000000 [(18, d.val), (11, a.val)])
  | .tktWait d => some (word 0xC2000000 [(18, d.val)])
  | .tktPost => some (word 0xC2000080 [])
  | .trapImm n => some (word 0xC4000400 [(0, n.val)])
  | .trapReg b => some (word 0xC4000000 [(0, b.val)])
  | .eret => some (word 0xC6000000 [])
  | .eretStep => some (word 0xC6000080 [])
  | .eretKill => some (word 0xC6000100 [])
  | .eretOut => some (word 0xC6000180 [])
  | .ctxRd d a b => some (word 0xC8000000 [(18, d.val), (11, a.val), (0, b.code)])
  | .ctxRdv d a => some (word 0xC8000080 [(18, d.val), (11, a.val)])
  | .ctxWr d a b => some (word 0xC8000100 [(18, d.val), (11, a.val), (0, b.code)])
  | .ctxWrv d a => some (word 0xC8000180 [(18, d.val), (11, a.val)])
  | .ctxSave r => some (word 0xC8000200 [(0, r.val)])
  | .ctxRest r => some (word 0xC8000280 [(0, r.val)])
  | .pickerFormBundle _ _ => none
  | .swapOut _ _ => none
  | .groupStarved _ _ => none
  | .starvedSwapIn _ _ => none
  | .yieldExpiry _ _ _ => none
  | .pipOperationComplete _ => none
  | .groupRetire _ _ => none
  | .acqGrant _ => none
  | .l1DirtyWriteback _ _ => none
  | .faultAnswerResume _ _ => none
  | .faultAnswerFail _ _ => none
  | .uldDataReturn _ => none
  | .xpldDataReturn _ => none
  | .atomicElementPerformed _ _ => none
  | .atomicPoisonReport _ _ => none
  | .bredUpdate _ _ => none
  | .barrierTimeout _ _ _ _ => none
  | .streamFillStart _ _ _ => none
  | .streamFillComplete _ _ _ => none
  | .outputDrainComplete _ _ _ => none
  | .reservationPost _ _ _ => none
  | .quorumTimeout _ _ _ => none
  | .passStart _ _ => none
  | .passComplete _ _ => none
  | .matrixDrainStart _ _ => none
  | .matrixDrainComplete _ _ => none
  | .mvxEntryPost _ => none
  | .mvxComplete _ => none
  | .plyGetComplete _ => none
  | .ldaComplete _ => none
  | .launchAccept _ => none
  | .clusterDispatch _ _ _ _ => none
  | .spillWaitExpiry _ => none
  | .launchComplete _ => none
  | .ticketAutoPost _ _ => none
  | .trapDelivery _ _ => none
  | .watchdogExpiry _ _ => none
  | .preemptionRequest _ _ => none
  | .contextRestore _ _ => none
  | .invalidationRequest _ => none
  | .invalidationComplete => none
  | .regionSwitch => none
  | .regionSwitchComplete => none
  | .mscBlockWriteback _ => none
  | .uncorrectableEccError _ => none
  | .sqtailDoorbell _ _ => none
  | .cqheadDoorbell _ _ => none
  | .submissionEntry _ => none
  | .functionLevelReset _ => none
  | .powerUpReset => none
  | .powerDown => none
  | .linkIntegrityFailure _ => none
  | .peerLinkFailure _ => none
  | .peerRequest _ _ _ => none
  | .hostCxlMemAccess _ _ => none
  | .hostSnoop _ => none
  | .hostCxlioPostedWrite _ _ => none
  | .hostCxlioRead _ _ => none
  | .thermalThrottle _ _ => none
  | .thermalIssueStop _ => none
  | .thermalIssueResume _ => none
  | .thermalPowerOff _ => none
  | .unitRetire _ _ => none
  | .keySlotInstall _ _ => none
  | .healthRead _ => none
  | .registerWrite _ _ _ => none
  | .hostTranslationRequest _ _ _ => none
  | .activationRequest _ => none
  | .linkRetrainComplete _ => none
  | .linkKeyEstablishment _ => none

end Sys2Proof
end

