-- ==== Sys2Proof/Machine/Numbers.lean ====
section
/-! DEFINITION. Exact values, rounding and the IEEE and saturating targets ("Number formats and the sum rules", R11 to R36).

An exact value that a format encodes is a `Val`: its finite values are m * 2^(e/256), so that the logarithmic formats
(R23, R24) and the dyadic formats share one representation. Rounding sees a magnitude only through `Mag`, which answers
the floor of the magnitude times a power of two, and whether that product is an integer. -/

namespace Sys2Proof.Machine

/-- The rounding modes of R30. -/
inductive RMode where
  | rne | rz | rup | rdn | rna | sr
  deriving DecidableEq, Repr

/-- R30: the mode of a prefix RND code; codes 6 and 7 have none. -/
def RMode.ofCode : Nat → Option RMode
  | 0 => some .rne | 1 => some .rz | 2 => some .rup | 3 => some .rdn | 4 => some .rna | 5 => some .sr | _ => none

/-- An exact value with the specials of R14 to R16. `fin neg m e` is ±m * 2^(e/256), with m > 0. -/
inductive Val where
  | nan
  | inf (neg : Bool)
  | zero (neg : Bool)
  | fin (neg : Bool) (m : Nat) (e : Int)
  deriving DecidableEq, Repr

/-- A positive real seen through its scaled floors: `lead` is the floor of log2 of it, and `fl k` is the floor of the
real times 2^k, with `true` when that product is an integer. -/
structure Mag where
  lead : Int
  fl   : Int → Nat × Bool

/-- m * 2^k rounded down, and whether nothing was lost. -/
def shiftFloor (m : Nat) (k : Int) : Nat × Bool :=
  if 0 ≤ k then (m * 2 ^ k.toNat, true) else (m / 2 ^ (-k).toNat, m % 2 ^ (-k).toNat == 0)

/-- Newton's iteration for the integer square root, downward from an upper bound. -/
def isqrtGo : Nat → Nat → Nat → Nat
  | 0, _, x => x
  | fuel + 1, n, x =>
    let y := (x + n / x) / 2
    if y < x then isqrtGo fuel n y else x

/-- The floor of the square root. -/
def isqrt (n : Nat) : Nat := if n = 0 then 0 else isqrtGo 64 n (2 ^ (Nat.log2 n / 2 + 1))

/-- The floor of the 256th root: eight floored square roots. -/
def root256 (n : Nat) : Nat :=
  isqrt (isqrt (isqrt (isqrt (isqrt (isqrt (isqrt (isqrt n)))))))

/-- The magnitude m * 2^(e/256), for m > 0. It is dyadic exactly when 256 divides e. -/
def Mag.term (m : Nat) (e : Int) : Mag where
  lead := if e % 256 = 0 then e / 256 + (Nat.log2 m : Nat) else (e + (Nat.log2 (m ^ 256) : Nat)) / 256
  fl k :=
    if e % 256 = 0 then shiftFloor m (e / 256 + k)
    else
      let z := 256 * k + e
      (if 0 ≤ z then root256 (m ^ 256 * 2 ^ z.toNat) else root256 (m ^ 256 / 2 ^ (-z).toNat), false)

/-- The magnitude n/d, for positive n and d. -/
def Mag.ratio (n d : Nat) : Mag where
  lead :=
    let g : Int := (Nat.log2 n : Int) - (Nat.log2 d : Int)
    let fits := if 0 ≤ g then d * 2 ^ g.toNat ≤ n else d ≤ n * 2 ^ (-g).toNat
    if fits then g else g - 1
  fl k :=
    let n' := if 0 ≤ k then n * 2 ^ k.toNat else n
    let d' := if 0 ≤ k then d else d * 2 ^ (-k).toNat
    (n' / d', n' % d' == 0)

/-- A magnitude known from below to `p` fractional bits: l/2^p ≤ x, and no integer multiple of a power of two that the
roundings below ask about lies between them. `exact` says that the two are equal. -/
def Mag.fixed (p l : Nat) (exact : Bool) : Mag where
  lead := if l = 0 then -(p : Int) - 1 else (Nat.log2 l : Int) - p
  fl k :=
    let r := shiftFloor l (k - p)
    (r.1, exact && r.2)

/-- The square root of m * 2^e. -/
def Mag.sqrt (m : Nat) (e : Int) : Mag where
  lead := (e + (Nat.log2 m : Nat)) / 2
  fl k :=
    let s := shiftFloor m (e + 2 * k)
    let r := isqrt s.1
    (r, s.2 && r * r == s.1)

/-- R30 and R31: the integer that the magnitude times 2^k rounds to, and whether it was rounded away from zero.
`u` is the 24-bit value of SrHash for mode SR. -/
def Mag.round (x : Mag) (k : Int) (mode : RMode) (neg : Bool) (u : Nat) : Nat × Bool :=
  let base := x.fl k
  if base.2 then (base.1, false)
  else
    let half := x.fl (k + 1)
    let upper := half.1 % 2 == 1
    let tie := half.2 && upper
    let up := match mode with
      | .rne => if tie then base.1 % 2 == 1 else upper
      | .rna => upper
      | .rz => false
      | .rup => !neg
      | .rdn => neg
      | .sr => decide (u < (x.fl (k + 24)).1 - base.1 * 2 ^ 24)
    (if up then base.1 + 1 else base.1, up)

/-- R31: SrHash(seed, E), 24 bits. -/
def srHash (seed : BitVec 64) (e : Nat) : Nat :=
  let lo : Word := seed.extractLsb' 0 32
  let hi : Word := seed.extractLsb' 32 32
  let round (h : Word) : Word := let g := h * 0x2C1B3C6D#32 + hi; g ^^^ (g >>> 16)
  ((round (round (round (round (BitVec.ofNat 32 e ^^^ lo))))).extractLsb' 8 24).toNat

/-- A binary floating format (R14, R16). `maxCode` is the code of the largest finite magnitude; `infCode` and
`nanCode` are the codes (sign 0) of infinity and of the canonical NaN where the format has them. -/
structure FloatFmt where
  expBits  : Nat
  fracBits : Nat
  bias     : Nat
  maxCode  : Nat
  infCode  : Option Nat
  nanCode  : Option Nat
  ieee     : Bool
  deriving DecidableEq, Repr

/-- R14. -/
def FloatFmt.f32 : FloatFmt := ⟨8, 23, 127, 0x7F7FFFFF, some 0x7F800000, some 0x7FC00000, true⟩
/-- R14. -/
def FloatFmt.f16 : FloatFmt := ⟨5, 10, 15, 0x7BFF, some 0x7C00, some 0x7E00, true⟩
/-- R14. -/
def FloatFmt.bf16 : FloatFmt := ⟨8, 7, 127, 0x7F7F, some 0x7F80, some 0x7FC0, true⟩
/-- R16. -/
def FloatFmt.e4m3 : FloatFmt := ⟨4, 3, 7, 0x7E, none, some 0x7F, false⟩
/-- R16. -/
def FloatFmt.e5m2 : FloatFmt := ⟨5, 2, 15, 0x7B, some 0x7C, some 0x7E, false⟩
/-- R16. -/
def FloatFmt.e3m2 : FloatFmt := ⟨3, 2, 3, 0x1F, none, none, false⟩
/-- R16. -/
def FloatFmt.e2m3 : FloatFmt := ⟨2, 3, 1, 0x1F, none, none, false⟩
/-- R16. -/
def FloatFmt.e2m1 : FloatFmt := ⟨2, 1, 1, 0x7, none, none, false⟩

/-- The bits of one element. -/
def FloatFmt.bits (f : FloatFmt) : Nat := 1 + f.expBits + f.fracBits

/-- The code of a signed magnitude code. -/
def FloatFmt.withSign (f : FloatFmt) (neg : Bool) (code : Nat) : Nat :=
  if neg then code + 2 ^ (f.expBits + f.fracBits) else code

/-- The exact value of a code (R14, R16): every code above the largest finite one is the infinity or a NaN. -/
def FloatFmt.decode (f : FloatFmt) (code : Nat) : Val :=
  let neg := fieldOf code (f.expBits + f.fracBits) 1 == 1
  let mag := code % 2 ^ (f.expBits + f.fracBits)
  if f.infCode == some mag then .inf neg
  else if f.maxCode < mag then .nan
  else
    let ex := mag / 2 ^ f.fracBits
    let fr := mag % 2 ^ f.fracBits
    if ex = 0 then
      if fr = 0 then .zero neg else .fin neg fr (256 * (1 - (f.bias : Int) - f.fracBits))
    else .fin neg (2 ^ f.fracBits + fr) (256 * ((ex : Int) - f.bias - f.fracBits))

/-- The result of an encoding: the code, and whether CVX is set (R33). -/
structure Coded where
  code : Nat
  cvx  : Bool := false
  deriving DecidableEq, Repr

/-- Rounding of a finite non-zero magnitude into a floating format (R30 to R33). The grid has an unbounded exponent:
the code is (q - qmin) * 2^fracBits + n for the rounded magnitude n * 2^q. Where RUP or RDN rounds away from zero past the largest
finite value, R32 names IEEE 754, which gives the infinity, and the largest finite value; the model gives IEEE's infinity (DEDUCED,
log 74). -/
def FloatFmt.encodeMag (f : FloatFmt) (neg : Bool) (x : Mag) (mode : RMode) (u : Nat) : Coded :=
  let qmin : Int := 1 - (f.bias : Int) - f.fracBits
  let q := max (x.lead - f.fracBits) qmin
  let r := x.round (-q) mode neg u
  let code := (q - qmin).toNat * 2 ^ f.fracBits + r.1
  if code ≤ f.maxCode then ⟨f.withSign neg code, false⟩
  else if f.ieee then
    let toInf := match mode with
      | .rne | .rna => true
      | .rz => false
      | .rup => !neg
      | .rdn => neg
      | .sr => r.2
    ⟨f.withSign neg (if toInf then f.infCode.getD f.maxCode else f.maxCode), false⟩
  else ⟨f.withSign neg f.maxCode, true⟩

/-- R32, R33: encoding of the specials. -/
def FloatFmt.encodeNan (f : FloatFmt) : Coded :=
  match f.nanCode with | some c => ⟨c, false⟩ | none => ⟨0, true⟩

/-- R32, R33: encoding of an infinity. -/
def FloatFmt.encodeInf (f : FloatFmt) (neg : Bool) : Coded :=
  match f.infCode with | some c => ⟨f.withSign neg c, false⟩ | none => ⟨f.withSign neg f.maxCode, true⟩

/-- `Round(x, fmt, mode)` of R8 for a floating format, from an exact value. -/
def FloatFmt.encode (f : FloatFmt) (v : Val) (mode : RMode) (u : Nat) : Coded :=
  match v with
  | .nan => f.encodeNan
  | .inf neg => f.encodeInf neg
  | .zero neg => ⟨f.withSign neg 0, false⟩
  | .fin neg m e => f.encodeMag neg (Mag.term m e) mode u

/-- An integer format: signed (Zn) or unsigned (Nn), R13. -/
structure IntFmt where
  bits   : Nat
  signed : Bool
  deriving DecidableEq, Repr

/-- The least and greatest integers of the format. -/
def IntFmt.lo (f : IntFmt) : Int := if f.signed then -(2 ^ (f.bits - 1) : Nat) else 0
/-- The greatest integer of the format. -/
def IntFmt.hi (f : IntFmt) : Int := if f.signed then (2 ^ (f.bits - 1) : Nat) - 1 else (2 ^ f.bits : Nat) - 1

/-- The integer that a code stands for. -/
def IntFmt.read (f : IntFmt) (code : Nat) : Int := if f.signed then signedOf f.bits code else (code % 2 ^ f.bits : Nat)

/-- The code of an integer in range. -/
def IntFmt.write (f : IntFmt) (x : Int) : Nat := (x % (2 ^ f.bits : Nat)).toNat

/-- Clamps an integer into the format; a clamp sets CVX (R33). -/
def IntFmt.clamp (f : IntFmt) (x : Int) : Coded :=
  if x < f.lo then ⟨f.write f.lo, true⟩ else if f.hi < x then ⟨f.write f.hi, true⟩ else ⟨f.write x, false⟩

/-- An integer as an exact value. -/
def Val.ofInt (x : Int) : Val := if x = 0 then .zero false else .fin (decide (x < 0)) x.natAbs 0

/-- R33 for an integer target. -/
def IntFmt.encode (f : IntFmt) (v : Val) (mode : RMode) (u : Nat) : Coded :=
  match v with
  | .nan => ⟨0, true⟩
  | .inf neg => ⟨f.write (if neg then f.lo else f.hi), true⟩
  | .zero neg => ⟨0, neg⟩
  | .fin neg m e =>
    let n : Int := ((Mag.term m e).round 0 mode neg u).1
    f.clamp (if neg then -n else n)

/-- A logarithmic format (R23, R24): `bits` of the code, and the field scale 2^scale (256 for L16, 8 for L8). -/
structure LogFmt where
  bits  : Nat
  scale : Nat
  deriving DecidableEq, Repr

/-- R23. -/
def LogFmt.l16 : LogFmt := ⟨16, 8⟩
/-- R24. -/
def LogFmt.l8 : LogFmt := ⟨8, 3⟩

/-- The largest field value. -/
def LogFmt.fmax (f : LogFmt) : Int := (2 ^ (f.bits - 2) : Nat) - 1
/-- The smallest non-zero field value. -/
def LogFmt.fmin (f : LogFmt) : Int := -((2 ^ (f.bits - 2) : Nat) - 1 : Int)
/-- The zero code, and with the sign bit the NaN code. -/
def LogFmt.zeroCode (f : LogFmt) : Nat := 2 ^ (f.bits - 2)
/-- The NaN code. -/
def LogFmt.nanCode (f : LogFmt) : Nat := 3 * 2 ^ (f.bits - 2)
/-- The code of a sign and a field. -/
def LogFmt.code (f : LogFmt) (neg : Bool) (field : Int) : Nat :=
  (field % (2 ^ (f.bits - 1) : Nat)).toNat + (if neg then 2 ^ (f.bits - 1) else 0)

/-- What an L code stands for: none for NaN, a `none` field for zero. -/
inductive LogVal where
  | nan
  | zero
  | num (neg : Bool) (field : Int)
  deriving DecidableEq, Repr

/-- R23, R24. -/
def LogFmt.read (f : LogFmt) (code : Nat) : LogVal :=
  let c := code % 2 ^ f.bits
  if c = f.zeroCode then .zero else if c = f.nanCode then .nan
  else .num (c ≥ 2 ^ (f.bits - 1)) (signedOf (f.bits - 1) c)

/-- The exact value of an L code (R26, last paragraph): the zero code is +0. -/
def LogFmt.decode (f : LogFmt) (code : Nat) : Val :=
  match f.read code with
  | .nan => .nan
  | .zero => .zero false
  | .num neg field => .fin neg 1 (field * (2 ^ (8 - f.scale) : Nat))

/-- R25: the limits on a field. -/
def LogFmt.limit (f : LogFmt) (neg : Bool) (field : Int) : Coded :=
  if f.fmax < field then ⟨f.code neg f.fmax, true⟩
  else if field < f.fmin then ⟨f.zeroCode, true⟩
  else ⟨f.code neg field, false⟩

/-- R26: conversion of m * 2^(e/256) into an L field. With s = 2^scale, g = s * log2|x|; fa is its floor. -/
def LogFmt.field (f : LogFmt) (neg : Bool) (m : Nat) (e : Int) (mode : RMode) (u : Nat) : Int :=
  let s : Nat := 2 ^ f.scale
  -- k * g = log2 big + sh, with k = 1 for a dyadic x and 256 otherwise
  let k : Nat := if e % 256 = 0 then 1 else 256
  let big : Nat := (m ^ s) ^ k
  let sh : Int := (s : Int) * e * (k : Int) / 256
  let fa : Int := ((Nat.log2 big : Int) + sh) / (k : Int)
  if big == 2 ^ Nat.log2 big && ((Nat.log2 big : Int) + sh) % k == 0 then fa
  else
    let fb := fa + 1
    -- g ≥ fa + 1/2 exactly when big^2 ≥ 2^(k (2 fa + 1) - 2 sh)
    let t : Int := (k : Int) * (2 * fa + 1) - 2 * sh
    let big2 := big * big
    let atLeast := if 0 ≤ t then decide (2 ^ t.toNat ≤ big2) else true
    let tie := if 0 ≤ t then big2 == 2 ^ t.toNat else false
    match mode with
    | .rne => if tie then (if fa % 2 = 0 then fa else fb) else if atLeast then fb else fa
    | .rna => if atLeast then fb else fa
    | .rz => fa
    | .rup => if neg then fa else fb
    | .rdn => if neg then fb else fa
    | .sr =>
      -- T = floor (2^24 * (|x| / 2^(fa/s) - 1) / (2^(1/s) - 1)), by fixed point with 200 fractional bits
      let unit : Int := (2 ^ (8 - f.scale) : Nat)
      let x := ((Mag.term m (e - fa * unit)).fl 200).1 - 2 ^ 200
      let w := ((Mag.term 1 unit).fl 200).1 - 2 ^ 200
      if u < 2 ^ 24 * x / w then fb else fa

/-- R26, R33: encoding into an L format. -/
def LogFmt.encode (f : LogFmt) (v : Val) (mode : RMode) (u : Nat) : Coded :=
  match v with
  | .nan => ⟨f.nanCode, false⟩
  | .inf neg => ⟨f.code neg f.fmax, true⟩
  | .zero neg => ⟨f.zeroCode, neg⟩
  | .fin neg m e => f.limit neg (f.field neg m e mode u)

/-- R25: LogMul. -/
def LogFmt.mul (f : LogFmt) (a b : Nat) : Coded :=
  match f.read a, f.read b with
  | .nan, _ => ⟨f.nanCode, false⟩
  | _, .nan => ⟨f.nanCode, false⟩
  | .zero, _ => ⟨f.zeroCode, false⟩
  | _, .zero => ⟨f.zeroCode, false⟩
  | .num na fa, .num nb fb => f.limit (na != nb) (fa + fb)

/-- R31, R134: the value U of SrHash in mode SR, and 0 in every other mode. -/
def srValue (mode : RMode) (seed : BitVec 64) (e : Nat) : Nat := if mode = .sr then srHash seed e else 0

end Sys2Proof.Machine
end

