-- ==== Sys2Proof/Machine/Functions.lean ====
section
/-! DEFINITION. The special functions of the FUN group (R148) and the log-domain sum (R25).

DEDUCED (log 9): R148 and R25 ask for the exact value rounded once. The transcendental values are computed from below to
`prec` fractional bits; each rounding of the spec asks for at most 200 of them, and a value of one of these functions that
is no exact case lies farther than the error from every rounding boundary. -/

namespace Sys2Proof.Machine

/-- Fractional bits of the working fixed point, and of the enclosure handed to the rounding. -/
def workPrec : Nat := 768
/-- See `workPrec`. -/
def prec : Nat := 640

/-- Product of two fixed-point numbers with `workPrec` fractional bits, rounded down. -/
def fmulW (a b : Nat) : Nat := a * b / 2 ^ workPrec

/-- The sum of a Taylor series: `t` is the term of index `n - 1` and the n-th term is t * x / n, up to the fuel. -/
def expSeries : Nat → Nat → Nat → Nat → Nat → Nat
  | 0, _, _, _, acc => acc
  | fuel + 1, x, n, t, acc =>
    let t' := fmulW t x / n
    if t' = 0 then acc else expSeries fuel x (n + 1) t' (acc + t')

/-- Repeated squaring. -/
def squareTimes : Nat → Nat → Nat
  | 0, x => x
  | k + 1, x => squareTimes k (fmulW x x)

/-- e^x for a fixed-point x with 0 ≤ x < 2. -/
def expW (x : Nat) : Nat := squareTimes 10 (expSeries 200 (x / 2 ^ 10) 1 (2 ^ workPrec) (2 ^ workPrec))

/-- Twice the inverse hyperbolic tangent series: y + y^3/3 + y^5/5 + ..., with t = y^(2n+1). -/
def atanhSeries : Nat → Nat → Nat → Nat → Nat → Nat
  | 0, _, _, _, acc => acc
  | fuel + 1, y2, n, t, acc =>
    if t = 0 then acc else atanhSeries fuel y2 (n + 2) (fmulW t y2) (acc + t / n)

/-- ln x for a fixed-point x with 1 ≤ x ≤ 2: 2 artanh ((x - 1) / (x + 1)). -/
def lnW (x : Nat) : Nat :=
  let y := (x - 2 ^ workPrec) * 2 ^ workPrec / (x + 2 ^ workPrec)
  2 * atanhSeries 500 (fmulW y y) 1 y 0

/-- ln 2. -/
def ln2W : Nat := lnW (2 * 2 ^ workPrec)

/-- log2 x for a fixed-point x with 1 ≤ x ≤ 2. -/
def log2W (x : Nat) : Nat := lnW x * 2 ^ workPrec / ln2W

/-- 2^x for a fixed-point x with 0 ≤ x < 1. -/
def exp2W (x : Nat) : Nat := expW (fmulW x ln2W)

/-- The inverse tangent of 1/n: Machin's series, alternating. -/
def atanInvGo : Nat → Nat → Nat → Nat → Int → Int
  | 0, _, _, _, acc => acc
  | fuel + 1, n, k, t, acc =>
    if t = 0 then acc
    else atanInvGo fuel n (k + 2) (t / (n * n)) (acc + (if k % 4 = 1 then ((t / k : Nat) : Int) else -((t / k : Nat) : Int)))

/-- atan (1/n). -/
def atanInvW (n : Nat) : Int := atanInvGo 600 n 1 (2 ^ workPrec / n) 0

/-- π, by Machin's formula. -/
def piW : Nat := (16 * atanInvW 5 - 4 * atanInvW 239).toNat

/-- sin x (first term x) or cos x (first term 1): alternating series in x^2, t the next term, n its index. -/
def trigSeries : Nat → Nat → Nat → Nat → Bool → Int → Int
  | 0, _, _, _, _, acc => acc
  | fuel + 1, x2, n, t, minus, acc =>
    if t = 0 then acc
    else trigSeries fuel x2 (n + 2) (fmulW t x2 / ((n + 1) * (n + 2))) (!minus) (if minus then acc - t else acc + t)

/-- sin x for a fixed-point 0 ≤ x ≤ 2. -/
def sinW (x : Nat) : Nat := (trigSeries 400 (fmulW x x) 1 x false 0).toNat

/-- Narrowing from the working fixed point to an enclosure from below: the error margin of 2^-(prec+32) is taken off. -/
def lowerMag (x : Nat) : Mag :=
  .fixed prec ((x - 2 ^ (workPrec - prec - 32)) / 2 ^ (workPrec - prec)) false

/-- As `lowerMag`, times 2^k: the shift is applied to the exponent so that no bit is lost. -/
def Mag.shifted (x : Mag) (k : Int) : Mag where
  lead := x.lead + k
  fl j := x.fl (j + k)

/-- The result of a function before its rounding. -/
inductive Exact where
  | nan
  | inf (neg : Bool)
  | zero (neg : Bool)
  | mag (neg : Bool) (x : Mag)

/-- Rounding of an exact result into a floating format (R8 `Round`). -/
def Exact.round (f : FloatFmt) (x : Exact) (mode : RMode) (u : Nat) : Coded :=
  match x with
  | .nan => f.encodeNan
  | .inf neg => f.encodeInf neg
  | .zero neg => ⟨f.withSign neg 0, false⟩
  | .mag neg m => f.encodeMag neg m mode u

/-- R148: 1/x. -/
def funRcp : Val → Exact
  | .nan => .nan
  | .zero neg => .inf neg
  | .inf neg => .zero neg
  | .fin neg m e => .mag neg ((Mag.ratio 1 m).shifted (-(e / 256)))

/-- R148: the square root. -/
def funSqrt : Val → Exact
  | .nan => .nan
  | .zero neg => .zero neg
  | .inf neg => if neg then .nan else .inf false
  | .fin neg m e => if neg then .nan else .mag false (.sqrt m (e / 256))

/-- R148: 1/√x. The floor of 2^k / √y is the floor of √(2^(2k) / y). -/
def funRsqrt : Val → Exact
  | .nan => .nan
  | .zero neg => .inf neg
  | .inf neg => if neg then .nan else .zero false
  | .fin neg m e =>
    if neg then .nan
    else
      let e2 := e / 256
      let odd := e2 % 2 ≠ 0
      let m' := if odd then 2 * m else m
      let h := (if odd then e2 - 1 else e2) / 2
      -- x = m' * 4^h, and 1/√x = 2^(-h) / √m'
      let fl (k : Int) : Nat × Bool :=
        let k' := k - h
        if 0 ≤ k' then
          let n := 2 ^ (2 * k').toNat
          let r := isqrt (n / m')
          (r, r * r * m' == n)
        else
          let d := m' * 2 ^ (2 * (-k')).toNat
          (if d ≤ 1 then 1 else 0, d == 1)
      let lead0 : Int := -h - (Nat.log2 m' : Int) / 2
      let lead := if (fl (-lead0)).1 = 0 then lead0 - 1 else lead0
      .mag false ⟨lead, fl⟩

/-- Fixed point with `workPrec` fractional bits of a fraction in [0, 1) given as m * 2^e. -/
def fixedOf (m : Nat) (e : Int) : Nat := (shiftFloor m (e + workPrec)).1

/-- R148: 2^x. -/
def funExp2 : Val → Exact
  | .nan => .nan
  | .zero _ => .mag false (.term 1 0)
  | .inf neg => if neg then .zero false else .inf false
  | .fin neg m e =>
    let e2 := e / 256
    if neg ∧ (Nat.log2 m : Int) + e2 ≥ 12 then
      -- x ≤ -4,096: the result is below every non-zero value
      .mag false ⟨-5000, fun _ => (0, false)⟩
    else
      -- the fraction has at most 149 bits: it is exact in the working fixed point
      let x : Int := if neg then -(fixedOf m e2 : Int) else fixedOf m e2
      let i := x / (2 ^ workPrec : Nat)
      let f := (x % (2 ^ workPrec : Nat)).toNat
      if f = 0 then .mag false (Mag.term 1 (256 * i))
      else .mag false ((lowerMag (exp2W f)).shifted i)

/-- R148: log2 x. -/
def funLog2 : Val → Exact
  | .nan => .nan
  | .zero _ => .inf true
  | .inf neg => if neg then .nan else .inf false
  | .fin neg m e =>
    if neg then .nan
    else
      let l := Nat.log2 m
      let i : Int := e / 256 + l
      if m = 2 ^ l then
        if i = 0 then .zero false else .mag (decide (i < 0)) (.term i.natAbs 0)
      else
        let w := log2W (fixedOf m (-(l : Int)))
        if 0 ≤ i then .mag false (lowerMag (i.toNat * 2 ^ workPrec + w))
        else .mag true (lowerMag ((-i).toNat * 2 ^ workPrec - w))

/-- sin (π r) for a dyadic r = x / 2^workPrec in [0, 1/2]; exact at 0 and 1/2. -/
def sinPi (x : Nat) : Exact :=
  if x = 0 then .zero false
  else if 2 * x = 2 ^ workPrec then .mag false (.term 1 0)
  else .mag false (lowerMag (sinW (fmulW x piW)))

/-- Changes the sign of a non-zero magnitude. -/
def Exact.signed (neg : Bool) : Exact → Exact
  | .mag _ m => .mag neg m
  | x => x

/-- x modulo 2, for |x| = m * 2^e, in the working fixed point. -/
def mod2 (m : Nat) (e : Int) : Nat :=
  if 1 ≤ e then 0 else fixedOf m e % (2 * 2 ^ workPrec)

/-- R148: sin (π x). An integer gives the zero of the sign of x. -/
def funSinpi : Val → Exact
  | .nan => .nan
  | .inf _ => .nan
  | .zero neg => .zero neg
  | .fin neg m e =>
    let r := mod2 m (e / 256)
    let one := 2 ^ workPrec
    let (flip, r1) := if one ≤ r then (true, r - one) else (false, r)
    let r2 := if one < 2 * r1 then one - r1 else r1
    if r1 = 0 then .zero neg else (sinPi r2).signed (flip != neg)

/-- R148: cos (π x). A half-integer gives +0. -/
def funCospi : Val → Exact
  | .nan => .nan
  | .inf _ => .nan
  | .zero _ => .mag false (.term 1 0)
  | .fin _ m e =>
    let one := 2 ^ workPrec
    -- cos is even and has period 2: fold into [0, 1]
    let r := mod2 m (e / 256)
    let r1 := if one < r then 2 * one - r else r
    if 2 * r1 = one then .zero false
    else if 2 * r1 < one then
      -- close to zero the cosine is 1 minus a tiny amount, below every enclosure when x is tiny
      if r1 = 0 then
        (if e / 256 < -(workPrec : Int) then .mag false (.fixed prec (2 ^ prec - 1) false) else .mag false (.term 1 0))
      else
        match sinPi (one / 2 - r1) with
        | .mag n _ => .mag n (if r1 < 2 ^ (workPrec - 200) then .fixed prec (2 ^ prec - 1) false
            else lowerMag (sinW (fmulW (one / 2 - r1) piW)))
        | x => x
    else if r1 = one then .mag true (.term 1 0)
    else
      let d := r1 - one / 2
      .mag true (if one / 2 - d < 2 ^ (workPrec - 200) then .fixed prec (2 ^ prec - 1) false
            else lowerMag (sinW (fmulW d piW)))

/-- e^(-z) for z = m * 2^e ≥ 0, in the working fixed point. -/
def expNeg (m : Nat) (e : Int) : Nat :=
  let z := fixedOf m e
  let q := z / ln2W
  let f := z % ln2W
  if 700 < q then 0 else 2 ^ (2 * workPrec) / expW f / 2 ^ q

/-- |x| is 2^10 or more: the exponentials below are then beyond every precision asked for. -/
def isHuge (m : Nat) (e : Int) : Bool := decide ((Nat.log2 m : Int) + e ≥ 10)

/-- 1 minus an amount below every precision asked for. -/
def justBelowOne : Mag := .fixed prec (2 ^ prec - 1) false

/-- R148: tanh x = (1 - t) / (1 + t) with t = e^(-2|x|). -/
def funTanh : Val → Exact
  | .nan => .nan
  | .zero neg => .zero neg
  | .inf neg => .mag neg (.term 1 0)
  | .fin neg m e =>
    let e2 := e / 256
    if isHuge m e2 then .mag neg justBelowOne
    else
      let t := expNeg m (e2 + 1)
      let one := 2 ^ workPrec
      let v := (one - t) * one / (one + t)
      if one - v < 2 ^ (workPrec - 200) then .mag neg justBelowOne else .mag neg (lowerMag v)

/-- R148: 1 / (1 + e^(-x)). -/
def funLogistic : Val → Exact
  | .nan => .nan
  | .zero _ => .mag false (.term 1 (-256))
  | .inf neg => if neg then .zero false else .mag false (.term 1 0)
  | .fin neg m e =>
    let e2 := e / 256
    if isHuge m e2 then (if neg then .mag false ⟨-1000, fun _ => (0, false)⟩ else .mag false justBelowOne)
    else
      let t := expNeg m e2
      let one := 2 ^ workPrec
      if neg then .mag false (lowerMag (t * one / (one + t)))
      else
        let v := one * one / (one + t)
        if one - v < 2 ^ (workPrec - 200) then .mag false justBelowOne else .mag false (lowerMag v)

/-- The field of 1 ± 2^(-d) in units of 1/2^scale, rounded to nearest: round (2^scale * log2 (1 ± 2^(-d/2^scale))).
No tie arises but for d = 0 (R25). -/
def logAddField (f : LogFmt) (d : Nat) (minus : Bool) : Int :=
  let s := 2 ^ f.scale
  if minus then
    let t := (Mag.term 1 (-(d * 2 ^ (8 - f.scale) : Nat))).fl workPrec
    let w := 2 ^ workPrec - t.1           -- in (0, 1)
    let sh := workPrec - Nat.log2 w       -- w * 2^sh lies in [1, 2]
    let l := log2W (w * 2 ^ sh)
    -- log2 = l - sh
    let v : Int := (l : Int) * s - ((sh * s * 2 ^ workPrec : Nat) : Int)
    (2 * v + (2 ^ workPrec : Nat)) / (2 * 2 ^ workPrec : Nat)
  else
    if d = 0 then s
    else
      let t := (Mag.term 1 (-(d * 2 ^ (8 - f.scale) : Nat))).fl workPrec
      let l := log2W (2 ^ workPrec + t.1)
      ((2 * l * s + 2 ^ workPrec) / (2 * 2 ^ workPrec) : Nat)

/-- R25: LogAdd. -/
def LogFmt.add (f : LogFmt) (a b : Nat) : Coded :=
  match f.read a, f.read b with
  | .nan, _ => ⟨f.nanCode, false⟩
  | _, .nan => ⟨f.nanCode, false⟩
  | .zero, _ => ⟨b % 2 ^ f.bits, false⟩
  | _, .zero => ⟨a % 2 ^ f.bits, false⟩
  | .num na fa, .num nb fb =>
    if na = nb then f.limit na (max fa fb + logAddField f (fa - fb).natAbs false)
    else if fa = fb then ⟨f.zeroCode, false⟩
    else f.limit (if fb < fa then na else nb) (max fa fb + logAddField f (fa - fb).natAbs true)

end Sys2Proof.Machine
end

