-- ==== Sys2Proof/Machine/Sums.lean ====
section
/-! DEFINITION. Exact sums and the sum rules (R37 to R42). -/

namespace Sys2Proof.Machine

/-- A dyadic number m * 2^e. -/
structure Dyadic where
  m : Int
  e : Int
  deriving DecidableEq, Repr

/-- The sum of two dyadic numbers. -/
def Dyadic.add (a b : Dyadic) : Dyadic :=
  let e := min a.e b.e
  ⟨a.m * 2 ^ (a.e - e).toNat + b.m * 2 ^ (b.e - e).toNat, e⟩

/-- An exact real: the sum over its entries (r, d) of d * 2^(r/256). Residues ascend strictly below 256 and no entry
is zero, so the real is zero exactly when the list is empty (the powers 2^(r/256) are independent over the rationals). -/
structure ExactReal where
  parts : List (Nat × Dyadic)
  deriving DecidableEq, Repr

/-- Inserts one term, keeping the order and dropping a part that becomes zero. -/
def addPart (r : Nat) (d : Dyadic) : List (Nat × Dyadic) → List (Nat × Dyadic)
  | [] => if d.m = 0 then [] else [(r, d)]
  | (r', d') :: rest =>
    if r < r' then (if d.m = 0 then (r', d') :: rest else (r, d) :: (r', d') :: rest)
    else if r = r' then
      let s := d.add d'
      if s.m = 0 then rest else (r, s) :: rest
    else (r', d') :: addPart r d rest

/-- Zero. -/
def ExactReal.zero : ExactReal := ⟨[]⟩

/-- Adds ±m * 2^(e/256). -/
def ExactReal.addTerm (x : ExactReal) (neg : Bool) (m : Nat) (e : Int) : ExactReal :=
  ⟨addPart (e % 256).toNat ⟨if neg then -(m : Int) else m, e / 256⟩ x.parts⟩

/-- The sum of two exact reals. -/
def ExactReal.add (x y : ExactReal) : ExactReal := ⟨y.parts.foldl (fun acc p => addPart p.1 p.2 acc) x.parts⟩

/-- d * 2^(r/256) * 2^k rounded down, and whether it is exact. -/
def partFloor (p : Nat × Dyadic) (k : Int) : Int × Bool :=
  let f := (Mag.term p.2.m.natAbs (256 * p.2.e + p.1)).fl k
  if p.2.m < 0 then (if f.2 then (-(f.1 : Int), true) else (-(f.1 : Int) - 1, false)) else ((f.1 : Int), f.2)

/-- Bounds of x * 2^k: a lower integer bound, and how many unit errors the upper bound may lie above it. -/
def ExactReal.bounds (x : ExactReal) (k : Int) : Int × Nat :=
  x.parts.foldl (fun acc p => let f := partFloor p k; (acc.1 + f.1, if f.2 then acc.2 else acc.2 + 1)) (0, 0)

/-- The floor of x * 2^k and whether it is exact. A real with a part of non-zero residue is no rational, so refining the
precision separates it from every integer; the fuel covers the largest precision that the formats can ask for. -/
def ExactReal.floorGo (x : ExactReal) (k : Int) : Nat → Nat → Int × Bool
  | 0, p => ((x.bounds (k + p)).1 / (2 ^ p : Nat), false)
  | fuel + 1, p =>
    let b := x.bounds (k + p)
    let lo := b.1 / (2 ^ p : Nat)
    let hi := (b.1 + b.2) / (2 ^ p : Nat)
    if lo = hi ∧ ¬ (b.2 ≠ 0 ∧ b.1 % (2 ^ p : Nat) = 0) then (lo, b.2 == 0 && b.1 % (2 ^ p : Nat) == 0)
    else floorGo x k fuel (2 * p)

/-- The floor of x * 2^k and whether it is exact. -/
def ExactReal.floor (x : ExactReal) (k : Int) : Int × Bool :=
  match x.parts with
  | [] => (0, true)
  | [(0, d)] => partFloor (0, d) k
  | _ => x.floorGo k 12 64

/-- Negation. -/
def ExactReal.neg (x : ExactReal) : ExactReal := ⟨x.parts.map fun p => (p.1, ⟨-p.2.m, p.2.e⟩)⟩

/-- The sign of a non-zero exact real: it is negative when its floor at a separating precision is. -/
def ExactReal.isNeg (x : ExactReal) : Bool := decide ((x.floor 0).1 < 0)

/-- An upper bound of log2 |x|. -/
def ExactReal.top (x : ExactReal) : Int :=
  x.parts.foldl (fun acc p => max acc (p.2.e + (Nat.log2 p.2.m.natAbs : Int) + 2)) (-20000) + 9

/-- The floor of log2 of a positive real, downward from an upper bound. -/
def ExactReal.leadGo (x : ExactReal) : Nat → Int → Int
  | 0, t => t
  | fuel + 1, t =>
    let f := (x.floor (64 - t)).1
    if f ≤ 0 then leadGo x fuel (t - 64) else t - 64 + (Nat.log2 f.toNat : Int)

/-- The magnitude of a positive exact real. -/
def ExactReal.mag (x : ExactReal) : Mag where
  lead := match x.parts with
    | [(r, d)] => (Mag.term d.m.natAbs (256 * d.e + r)).lead
    | _ => x.leadGo 2000 x.top
  fl k := let f := x.floor k; (f.1.toNat, f.2)

/-- The value of a sum or of a tile element: an exact real, or a special (R40). A zero sum has one representation and is
+0; -0 and the payload of a NaN stand only in an element that `macc.wr` set (R141, R294). -/
inductive Acc where
  | nan (code : Word)
  | inf (neg : Bool)
  | negZero
  | real (x : ExactReal)
  deriving DecidableEq, Repr

/-- +0. -/
def Acc.zero : Acc := .real .zero

/-- The canonical NaN (R15). -/
def Acc.qnan : Acc := .nan 0x7FC00000

/-- R40: adds one value; both signs of infinity give NaN. -/
def Acc.addVal (a : Acc) (v : Val) : Acc :=
  match a, v with
  | .nan _, _ => .qnan
  | _, .nan => .qnan
  | .inf n, .inf n' => if n = n' then .inf n else .qnan
  | .inf n, _ => .inf n
  | _, .inf n => .inf n
  | .negZero, .zero _ => .zero
  | .negZero, .fin neg m e => .real (ExactReal.zero.addTerm neg m e)
  | .real x, .zero _ => .real x
  | .real x, .fin neg m e => .real (x.addTerm neg m e)

/-- The sum of two accumulated values. -/
def Acc.add (a b : Acc) : Acc :=
  match a, b with
  | .nan _, _ => .qnan
  | _, .nan _ => .qnan
  | .inf n, .inf n' => if n = n' then .inf n else .qnan
  | .inf n, _ => .inf n
  | _, .inf n => .inf n
  | .negZero, .negZero => .zero
  | .negZero, .real y => .real y
  | .real x, .negZero => .real x
  | .real x, .real y => .real (x.add y)

/-- A value as a sum of one term. -/
def Acc.ofVal (v : Val) : Acc := Acc.zero.addVal v

/-- R141, R294: an F32 value that a tile element takes as it stands. -/
def Acc.held (w : Word) : Acc :=
  match FloatFmt.f32.decode w.toNat with
  | .nan => .nan w
  | .zero true => .negZero
  | v => .ofVal v

/-- The exact product of two values (R38, R40): 0 × ∞ is NaN. -/
def Val.mul (a b : Val) : Val :=
  match a, b with
  | .nan, _ => .nan
  | _, .nan => .nan
  | .inf _, .zero _ => .nan
  | .zero _, .inf _ => .nan
  | .inf n, .inf n' => .inf (n != n')
  | .inf n, .fin n' _ _ => .inf (n != n')
  | .fin n _ _, .inf n' => .inf (n != n')
  | .zero n, .zero n' => .zero (n != n')
  | .zero n, .fin n' _ _ => .zero (n != n')
  | .fin n _ _, .zero n' => .zero (n != n')
  | .fin n m e, .fin n' m' e' => .fin (n != n') (m * m') (e + e')

/-- The value with its sign changed. -/
def Val.neg : Val → Val
  | .nan => .nan
  | .inf n => .inf !n
  | .zero n => .zero !n
  | .fin n m e => .fin (!n) m e

/-- The value times 2^k. -/
def Val.scale (k : Int) : Val → Val
  | .fin n m e => .fin n m (e + 256 * k)
  | v => v

/-- An accumulated value handed to a rounding. -/
def Acc.exact : Acc → Exact
  | .nan _ => .nan
  | .inf neg => .inf neg
  | .negZero => .zero true
  | .real x => if x.parts = [] then .zero false else if x.isNeg then .mag true x.neg.mag else .mag false x.mag

/-- R40: the final rounding of a sum; a zero result is +0. The -0 that `macc.wr` set stays (R294). -/
def Acc.round (f : FloatFmt) (a : Acc) (mode : RMode) (u : Nat) : Coded :=
  let c := a.exact.round f mode u
  match a with
  | .negZero => c
  | _ => if c.code = f.withSign true 0 then { c with code := 0 } else c

/-- The F32 code of an accumulated value, rounded to nearest (R39). -/
def Acc.f32 (a : Acc) : Nat := (a.round .f32 .rne 0).code

/-- The value of a sum that lies in a dyadic or logarithmic format: a single part, zero or a special. -/
def Acc.isInt (a : Acc) : Bool :=
  match a with
  | .real x => (x.floor 0).2
  | _ => false

/-- The sum of a list of exact values. -/
def exactSum (c : Acc) (ps : List Val) : Acc := ps.foldl Acc.addVal c

/-- The integer of a sum of integers. -/
def Acc.toInt : Acc → Int
  | .real x => (x.floor 0).1
  | _ => 0

/-- One accumulator step of the chunked rule (R39): `z32` says that the accumulator format is Z32. -/
def chunkStep (z32 : Bool) (acc s : Acc) : Acc × Bool :=
  if z32 then
    let t := acc.toInt + s.toInt
    (.ofVal (.ofInt (satZ 32 t)), satZ 32 t != t)
  else
    (.ofVal (FloatFmt.f32.decode (acc.add s).f32), false)

/-- The chunked rule over the remaining products, 32 at a time. The fuel is the number of chunks. -/
def chunkedGo (z32 : Bool) : Nat → Acc → List Val → Bool → Acc × Bool
  | 0, acc, _, cvx => (acc, cvx)
  | fuel + 1, acc, ps, cvx =>
    let r := chunkStep z32 acc (exactSum .zero (ps.take 32))
    chunkedGo z32 fuel r.1 (ps.drop 32) (cvx || r.2)

/-- R39: SumRule over the exact products, and whether CVX is set. -/
def sumRule (xf z32 : Bool) (c : Acc) (ps : List Val) : Acc × Bool :=
  if xf then (exactSum c ps, false) else chunkedGo z32 ((ps.length + 31) / 32) c ps false

end Sys2Proof.Machine
end

