-- ==== Sys2Proof/Machine/Formats.lean ====
section
/-! DEFINITION. Type tags, scalar formats, MX blocks, AQ super-blocks, TN5 bytes and sparsity metadata (R11 to R28, R35). -/

namespace Sys2Proof.Machine

/-- R11: the type tags. -/
inductive Tag where
  | raw | z8 | z16 | z32 | n8 | n16 | n32 | f32 | f16 | bf16 | e4m3 | e5m2 | e3m2 | e2m3 | e2m1 | e8m0
  | mxf8 | mxf8b | mxf6 | mxf6b | mxf4 | mxi8 | aq4 | aq8 | l8 | l16 | tn5
  deriving DecidableEq, Repr

/-- R11: the tag of a 6-bit code; a code outside the table is reserved. -/
def Tag.ofCode : Nat → Option Tag
  | 0x00 => some .raw | 0x01 => some .z8 | 0x02 => some .z16 | 0x03 => some .z32
  | 0x05 => some .n8 | 0x06 => some .n16 | 0x07 => some .n32
  | 0x08 => some .f32 | 0x09 => some .f16 | 0x0A => some .bf16
  | 0x0C => some .e4m3 | 0x0D => some .e5m2 | 0x0E => some .e3m2 | 0x0F => some .e2m3
  | 0x10 => some .e2m1 | 0x11 => some .e8m0
  | 0x14 => some .mxf8 | 0x15 => some .mxf8b | 0x16 => some .mxf6 | 0x17 => some .mxf6b
  | 0x18 => some .mxf4 | 0x19 => some .mxi8 | 0x1C => some .aq4 | 0x1D => some .aq8
  | 0x20 => some .l8 | 0x21 => some .l16 | 0x24 => some .tn5
  | _ => none

/-- R11: the code of a tag. -/
def Tag.code : Tag → Nat
  | .raw => 0x00 | .z8 => 0x01 | .z16 => 0x02 | .z32 => 0x03
  | .n8 => 0x05 | .n16 => 0x06 | .n32 => 0x07
  | .f32 => 0x08 | .f16 => 0x09 | .bf16 => 0x0A
  | .e4m3 => 0x0C | .e5m2 => 0x0D | .e3m2 => 0x0E | .e2m3 => 0x0F
  | .e2m1 => 0x10 | .e8m0 => 0x11
  | .mxf8 => 0x14 | .mxf8b => 0x15 | .mxf6 => 0x16 | .mxf6b => 0x17
  | .mxf4 => 0x18 | .mxi8 => 0x19 | .aq4 => 0x1C | .aq8 => 0x1D
  | .l8 => 0x20 | .l16 => 0x21 | .tn5 => 0x24

/-- R11: every type tag. -/
def Tag.all : List Tag :=
  [.raw, .z8, .z16, .z32, .n8, .n16, .n32, .f32, .f16, .bf16, .e4m3, .e5m2, .e3m2, .e2m3, .e2m1, .e8m0,
    .mxf8, .mxf8b, .mxf6, .mxf6b, .mxf4, .mxi8, .aq4, .aq8, .l8, .l16, .tn5]

/-- A format of single elements: one code stands for one value. -/
inductive Scalar where
  | float (f : FloatFmt)
  | int (f : IntFmt)
  | log (f : LogFmt)
  | e8m0
  deriving DecidableEq, Repr

/-- The bits of one element. -/
def Scalar.bits : Scalar → Nat
  | .float f => f.bits
  | .int f => f.bits
  | .log f => f.bits
  | .e8m0 => 8

/-- The exact value of a code (R13 to R17, R23, R24). -/
def Scalar.decode (s : Scalar) (code : Nat) : Val :=
  match s with
  | .float f => f.decode (code % 2 ^ f.bits)
  | .int f => .ofInt (f.read code)
  | .log f => f.decode code
  | .e8m0 => if code % 256 = 255 then .nan else .fin false 1 (256 * (((code % 256 : Nat) : Int) - 127))

/-- R33 for E8M0, whose grid is the powers of two 2^-127 to 2^127: no zero and no sign. The grid value at or below a
magnitude is 2^lead; rounding to nearest goes up from 1.5 * 2^lead (the tie goes to the even code). A value below the
grid, zero or negative is clamped to the smallest code with CVX (log 15). -/
def e8m0Encode (v : Val) (mode : RMode) (u : Nat) : Coded :=
  match v with
  | .nan => ⟨255, false⟩
  | .inf neg => ⟨if neg then 0 else 254, true⟩
  | .zero _ => ⟨0, true⟩
  | .fin true _ _ => ⟨0, true⟩
  | .fin false m e =>
    let x := Mag.term m e
    let base := x.lead
    let exact := x.fl (-base) == (1, true)
    let half := x.fl (1 - base)          -- 2 or 3, and whether exact
    let up := if exact then false else match mode with
      | .rne => if half == (3, true) then decide ((base + 127) % 2 = 1) else half.1 == 3
      | .rna => half.1 == 3
      | .rz | .rdn => false
      | .rup => true
      | .sr => decide (u < (x.fl (24 - base)).1 - 2 ^ 24)
    let c := base + 127 + (if up then 1 else 0)
    if c < 0 then ⟨0, true⟩ else if 254 < c then ⟨254, true⟩ else ⟨c.toNat, false⟩

/-- `Round(x, fmt, mode)` of R8. -/
def Scalar.encode (s : Scalar) (v : Val) (mode : RMode) (u : Nat) : Coded :=
  match s with
  | .float f => f.encode v mode u
  | .int f => f.encode v mode u
  | .log f => f.encode v mode u
  | .e8m0 => e8m0Encode v mode u

/-- The scalar format of a tag that is one. -/
def Tag.scalar : Tag → Option Scalar
  | .z8 => some (.int ⟨8, true⟩) | .z16 => some (.int ⟨16, true⟩) | .z32 => some (.int ⟨32, true⟩)
  | .n8 => some (.int ⟨8, false⟩) | .n16 => some (.int ⟨16, false⟩) | .n32 => some (.int ⟨32, false⟩)
  | .f32 => some (.float .f32) | .f16 => some (.float .f16) | .bf16 => some (.float .bf16)
  | .e4m3 => some (.float .e4m3) | .e5m2 => some (.float .e5m2) | .e3m2 => some (.float .e3m2)
  | .e2m3 => some (.float .e2m3) | .e2m1 => some (.float .e2m1) | .e8m0 => some .e8m0
  | .l8 => some (.log .l8) | .l16 => some (.log .l16)
  | .raw | .mxf8 | .mxf8b | .mxf6 | .mxf6b | .mxf4 | .mxi8 | .aq4 | .aq8 | .tn5 => none

/-- R39: an operand format whose products go to a Z32 accumulator. -/
def Tag.isInteger : Tag → Bool
  | .z8 | .z16 | .z32 | .n8 | .n16 | .n32 | .tn5 => true
  | _ => false

/-- R18: the element format, block bytes and emax of an MX tag. -/
structure MxFmt where
  elem  : Scalar
  emax  : Int
  bytes : Nat
  /-- MXI8: the element is an integer times 2^-6. -/
  isInt : Bool := false
  deriving DecidableEq, Repr

/-- R18. -/
def Tag.mx : Tag → Option MxFmt
  | .mxf8 => some ⟨.float .e4m3, 8, 33, false⟩
  | .mxf8b => some ⟨.float .e5m2, 15, 33, false⟩
  | .mxf6 => some ⟨.float .e3m2, 4, 25, false⟩
  | .mxf6b => some ⟨.float .e2m3, 2, 25, false⟩
  | .mxf4 => some ⟨.float .e2m1, 2, 17, false⟩
  | .mxi8 => some ⟨.int ⟨8, true⟩, 0, 33, true⟩
  | _ => none

/-- R20: an MX element under its block's scale code. -/
def MxFmt.decode (f : MxFmt) (scale code : Nat) : Val :=
  if scale % 256 = 255 then .nan
  else (f.elem.decode code).scale ((((scale % 256 : Nat) : Int) - 127) + (if f.isInt then -6 else 0))

/-- Little-endian value of a list of bytes (R3). -/
def leValue : List Byte → Nat
  | [] => 0
  | b :: bs => b.toNat + 256 * leValue bs

/-- The `n` bytes of a value, little-endian (R3). -/
def leBytes : Nat → Nat → List Byte
  | 0, _ => []
  | n + 1, x => BitVec.ofNat 8 x :: leBytes n (x / 256)

/-- R19: element `i` of `w` bits in a run of packed bytes. -/
def packedElem (w : Nat) (bytes : Nat) (i : Nat) : Nat := fieldOf bytes (w * i) w

/-- R19: packs codes of `w` bits, the first lowest. -/
def packCodes (w : Nat) : List Nat → Nat
  | [] => 0
  | c :: cs => c % 2 ^ w + 2 ^ w * packCodes w cs

/-- R18, R20: the 32 values of one MX block. -/
def MxFmt.decodeBlock (f : MxFmt) (bytes : List Byte) : List Val :=
  let x := leValue bytes
  let scale := fieldOf x (8 * (f.bytes - 1)) 8
  (List.range 32).map fun i => f.decode scale (packedElem f.elem.bits x i)

/-- R35 step 5 and 6: one element under a scale code. -/
def MxFmt.encodeElem (f : MxFmt) (scale : Int) (mode : RMode) (v : Val) (u : Nat) : Coded :=
  match v with
  | .inf neg =>
    if f.isInt then ⟨(IntFmt.mk 8 true).write (if neg then -127 else 127), true⟩
    else match f.elem with
      | .float g => ⟨g.withSign neg g.maxCode, true⟩
      | _ => ⟨0, true⟩
  | v =>
    let y := v.scale (127 - scale)
    if f.isInt then
      let r := (y.scale 6)
      match r with
      | .fin neg m e =>
        let n : Int := ((Mag.term m e).round 0 mode neg u).1
        ⟨(IntFmt.mk 8 true).write (if neg then -(min n 127) else min n 127), false⟩
      | y => ⟨0, y == .zero true⟩
    else match f.elem with
      | .float g =>
        match y with
        | .fin neg m e =>
          -- an element beyond the maximum saturates without CVX; E5M2 too, whose infinity is no maximum
          let r := { g with ieee := false }.encodeMag neg (Mag.term m e) mode u
          ⟨r.code, false⟩
        | y => ⟨(g.encode y mode u).code, false⟩
      | _ => ⟨0, false⟩

/-- The floor of log2 of the greatest finite magnitude; none when all finite values are zero. -/
def amaxLead (vs : List Val) : Option Int :=
  vs.foldl (fun acc v => match v with
    | .fin _ m e =>
      let l := (Mag.term m e).lead
      some (match acc with | none => l | some a => max a l)
    | _ => acc) none

/-- R35: packs 32 values; `u i` is the SrHash value of element i. Answers the 32 codes, the scale code and CVX. -/
def MxFmt.pack (f : MxFmt) (vs : List Val) (mode : RMode) (u : Nat → Nat) : List Nat × Nat × Bool :=
  if vs.any (· == .nan) then (vs.map fun _ => 0, 255, true)
  else
    let raw : Int := match amaxLead vs with
      | none => 127
      | some l => l - f.emax + 127
    let scale := max 0 (min raw 254)
    let elems := vs.zipIdx.map fun p => f.encodeElem scale mode p.1 (u p.2)
    (elems.map (·.code), scale.toNat, decide (254 < raw) || elems.any (·.cvx))

/-- R18, R19: the bytes of a packed block. -/
def MxFmt.blockBytes (f : MxFmt) (codes : List Nat) (scale : Nat) : List Byte :=
  leBytes (f.bytes - 1) (packCodes f.elem.bits codes) ++ [BitVec.ofNat 8 scale]

/-- R27: the five trits of a TN5 byte and whether it sets CVX. -/
def tn5Decode (b : Nat) : List Int × Bool :=
  if 243 ≤ b % 256 then ([0, 0, 0, 0, 0], true)
  else ((List.range 5).map fun i => let t := b % 256 / 3 ^ i % 3; if t = 2 then (-1 : Int) else ((t : Nat) : Int), false)

/-- R27: the trit code that a value converts to. -/
def tritEncode (v : Val) (mode : RMode) (u : Nat) : Coded :=
  match v with
  | .nan => ⟨0, true⟩
  | .inf neg => ⟨if neg then 2 else 1, true⟩
  | .zero neg => ⟨0, neg⟩
  | .fin neg m e =>
    let n := ((Mag.term m e).round 0 mode neg u).1
    if n = 0 then ⟨0, false⟩ else ⟨if neg then 2 else 1, decide (1 < n)⟩

/-- R27: a TN5 byte of five trit codes. -/
def tn5Byte (codes : List Nat) : Nat := (codes.zipIdx.map fun p => p.1 * 3 ^ p.2).foldl (· + ·) 0

/-- One side-list entry of an AQ super-block (R21). -/
structure AqEntry where
  index : Nat
  wide  : Bool
  value : Nat
  deriving DecidableEq, Repr

/-- An AQ super-block read from memory (R21). `codes` holds the packed codes as one little-endian number. -/
structure AqBlock where
  width   : Nat
  s2      : Nat
  count   : Nat
  scales  : Nat → Nat
  zeros   : Nat → Nat
  codes   : Nat
  entries : List AqEntry

/-- R21: the bytes of a super-block. -/
def aqBytes (width : Nat) : Nat := if width = 4 then 712 else 1224

/-- R21, R22: reads a super-block from its bytes, given as one little-endian number. -/
def AqBlock.read (width : Nat) (x : Nat) : AqBlock :=
  let count := fieldOf x 32 16
  let side := 8 * (72 + 128 * width)
  { width := width
    s2 := fieldOf x 0 32
    count := count
    scales := fun b => fieldOf x (8 * (8 + 2 * b)) 8
    zeros := fun b => fieldOf x (8 * (9 + 2 * b)) 8
    codes := fieldOf x (8 * 72) (8 * 128 * width)
    entries := (List.range (min count 16)).map fun i =>
      { index := fieldOf x (side + 64 * i) 16
        wide := fieldOf x (side + 64 * i + 16) 1 == 1
        value := fieldOf x (side + 64 * i + 32) 32 } }

/-- R22: the conditions on the side list that set CVX when a super-block is read. -/
def AqBlock.cvx (q : AqBlock) : Bool := decide (16 < q.count) || q.entries.any (fun e => decide (1023 < e.index))

/-- R22: the value of element k, and whether it sets CVX. -/
def AqBlock.decode (q : AqBlock) (k : Nat) : Val × Bool :=
  let b := k / 32
  let scale := q.scales b
  let c := packedElem q.width q.codes k
  let live := q.entries.filter fun e => decide (e.index ≤ 1023)
  match (if scale = 0 then live.find? fun e => e.wide && e.index / 32 == b else none) with
  | some e => (FloatFmt.f32.decode e.value, false)
  | none =>
    if c = 2 ^ q.width - 1 then
      match live.find? fun e => !e.wide && e.index == k with
      | some e => (FloatFmt.f32.decode e.value, false)
      | none => (.nan, true)
    else
      let s := (FloatFmt.f32.decode q.s2).mul (FloatFmt.e4m3.decode scale)
      match s with
      | .nan => (.nan, true)
      | .inf _ => (.nan, true)
      | s => match s.mul (.ofInt ((c : Int) - q.zeros b)) with
        | .zero _ => (.zero false, false)
        | v => (v, false)

/-- R28: the dense positions of the stored values of one group, or none when the indices do not ascend strictly. -/
def ascending : List Nat → Bool
  | a :: b :: rest => decide (a < b) && ascending (b :: rest)
  | _ => true

/-- R28: the dense positions, in 0 to 31, of the values stored for 32 dense K positions; none for malformed metadata.
`four8` selects the 4:8 pattern, whose field is 64 bits. -/
def sparsePositions (four8 : Bool) (md : Nat) : Option (List Nat) :=
  let groups := (List.range (if four8 then 4 else 8)).map fun g =>
    if four8 then
      let f := fieldOf md (16 * g) 16
      if 2 ^ 12 ≤ f then none
      else some ((List.range 4).map (fun j => fieldOf f (3 * j) 3), 8 * g)
    else some ((List.range 2).map (fun j => fieldOf md (4 * g + 2 * j) 2), 4 * g)
  groups.foldr (fun g acc => match g, acc with
    | some (ix, base), some rest => if ascending ix then some (ix.map (base + ·) ++ rest) else none
    | _, _ => none) (some [])

end Sys2Proof.Machine
end

