-- ==== Sys2Proof/Machine/Static.lean ====
section
/-! DEFINITION. What a word's bits alone say about it: the registers it names, the fields of a prefix word it accepts, its
pipe and its occupancy, and the static checks of R53. Each family has one function from its fields to a `WordInfo`; the
meanings and `Instr.info` call the same one. -/

namespace Sys2Proof.Machine

/-- A block of lane registers named by a word: h rows of w columns from a base (R56). -/
structure Block where
  base : Nat
  h    : Nat
  w    : Nat
  deriving DecidableEq, Repr

/-- R56: h and w of an extent code. -/
def extShape : Ext → Nat × Nat
  | 0 => (1, 1) | 1 => (1, 2) | 2 => (1, 4) | 3 => (1, 8)
  | 4 => (2, 2) | 5 => (2, 4) | 6 => (4, 4) | 7 => (4, 8)

/-- R56: the block of an extent at a base. -/
def Block.of (e : Ext) (base : Nat) : Block := ⟨base, (extShape e).1, (extShape e).2⟩

/-- One register. -/
def Block.one (base : Nat) : Block := ⟨base, 1, 1⟩

/-- The last register of the block. -/
def Block.last (b : Block) : Nat := b.base + 8 * (b.h - 1) + b.w - 1

/-- R56: the three static geometry checks. -/
def Block.fits (b : Block) : Bool :=
  decide (b.base % 8 + b.w ≤ 8) && !(decide (b.base < 64) && decide (64 ≤ b.last)) && decide (b.last ≤ 127)

/-- The registers of the block, in ascending position (i, j). -/
def Block.regs (b : Block) : List Nat :=
  (List.range (b.h * b.w)).map fun p => b.base + 8 * (p / b.w) + p % b.w

/-- The fields of a PREFIX word (R66). -/
structure Pfx where
  mask   : Nat := 0
  sense  : Bool := false
  rnd    : Nat := 0
  zero   : Bool := false
  fourth : Nat := 0
  mod    : Nat := 0
  scope  : Nat := 0
  deriving DecidableEq, Repr

/-- The uses of the RND field (R69). -/
inductive RndUse where
  | unused | rounding | ordering
  deriving DecidableEq, Repr

/-- What a word accepts in a PREFIX before it (R67 to R71 and each chapter's table). -/
structure PfxRule where
  /-- A PREFIX may stand before the word (R67). -/
  allowed : Bool := false
  rnd     : RndUse := .unused
  /-- The accepted MOD values. -/
  mods    : List Nat := [0]
  /-- The word takes a fourth operand (R70). -/
  fourth  : Bool := false
  /-- ZERO is accepted: the word writes a lane register or a predicate (R68). -/
  zero    : Bool := true
  /-- SCOPE is read (R71). -/
  scope   : Bool := false
  /-- The ordering codes accepted, where RND carries an ordering (R199, R209, R235). -/
  orders  : List Nat := [0, 1, 2, 3, 4]
  /-- R235: MOD 1 is the form without return, which refuses acquire orderings and ZERO. -/
  noret   : Bool := false
  /-- R209: the word has no legal form without a PREFIX. -/
  needed  : Bool := false
  /-- The mask must be q0 with sense 0, else class 0x02 (R64). -/
  plainMask : Bool := false
  deriving DecidableEq, Repr

/-- R67 to R71: the class that a PREFIX raises before a word, if any. -/
def PfxRule.check (r : PfxRule) (p : Pfx) (fourthOk : Bool) : Option Nat :=
  if !r.allowed then some 0x01
  else if (match r.rnd with | .unused => decide (p.rnd ≠ 0) | .rounding => decide (5 < p.rnd) | .ordering => !r.orders.contains p.rnd) then some 0x01
  else if r.noret && p.mod == 1 && (p.zero || p.rnd == 1 || p.rnd == 3) then some 0x01
  else if r.rnd == .ordering && p.rnd == 0 && p.scope != 0 then some 0x01
  else if !(r.mods.contains p.mod) then some 0x01
  else if !r.fourth && decide (p.fourth ≠ 0) then some 0x01
  else if !r.zero && p.zero then some 0x01
  else if (if r.scope then decide (13 < p.scope) else decide (p.scope ≠ 0)) then some 0x01
  else if r.plainMask && (p.mask != 0 || p.sense) then some 0x02
  else if r.fourth && !fourthOk then some 0x02
  else none

/-- What issuing a word needs to know of it. -/
structure WordInfo where
  /-- R43: a U word. -/
  uniform  : Bool := false
  /-- Pipe cycles: of the word (L) or of each group that executes it (U) (R95). -/
  cycles   : Nat := 1
  /-- The lane register blocks the word names, the destination first where it has one. -/
  blocks   : List Block := []
  /-- The word writes the first of `blocks`. -/
  writesBlock : Bool := false
  /-- The predicate the word writes. -/
  predDst  : Option (Fin 64) := none
  /-- The uniform registers read as operands, and those written. -/
  reads    : List Nat := []
  writes   : List Nat := []
  /-- A uniform register that the word reads whether it is a pending token or not (R106). -/
  peeks    : List Nat := []
  /-- Where the word reads and writes other registers than whole blocks in their roles (R234, R350): the lane registers that it reads,
  and those that it writes. -/
  exact    : Option (List Nat × List Nat) := none
  /-- R74, R123: the word is privileged. -/
  priv     : Bool := false
  /-- R381: the word's own checks come before that of its token register. -/
  tokenLast : Bool := false
  /-- R102: the uniform register that an asynchronous operation marks pending. -/
  token    : Option Nat := none
  rule     : PfxRule := {}
  /-- R49. -/
  terminal : Bool := false
  /-- R47. -/
  pip      : Bool := false
  /-- R172. -/
  gather   : Bool := false
  /-- The word is an issue of a store, an atomic, an engine operation or a ply record (R109). -/
  effect   : Bool := false
  /-- The word reads or writes memory, or orders such accesses, for its threads (R205, R217). -/
  memory   : Bool := false
  /-- The crossbar slot that the word names (R270, R271). -/
  xslot    : Option Nat := none
  /-- R294: the first tile row and the block positions of a word that maps them to tile elements. -/
  tileRows : Option (Nat × Nat) := none
  /-- A static check of the word's own fields that fails. -/
  bad      : Option Nat := none
  deriving DecidableEq, Repr

/-- R95: L-pipe cycles of a block word: `n` for each position. -/
def blockCycles (e : Ext) (n : Nat) : Nat := n * (extShape e).1 * (extShape e).2

/-- The lane block that an A operand names. -/
def srcBlocks (e : Ext) : LaneSrc → List Block
  | .v n => [.of e n]
  | .s _ => []

/-- The uniform register that an A operand names. -/
def srcReads : LaneSrc → List Nat
  | .v _ => []
  | .s n => [n.val]

/-- The uniform register that a B operand of a U word names. -/
def usrcReads : USrc → List Nat
  | .reg n => [n.val]
  | .imm _ => []

/-- An operand of a block word of the general layout (R54, R59). -/
inductive Operand where
  | none
  | lane (n : Fin 128)
  | imm (x : Word)
  deriving DecidableEq, Repr

/-- The operands of a block word that writes one register at each position. -/
structure LaneOp where
  e : Ext
  d : Fin 128
  a : LaneSrc
  b : Operand := .none
  deriving DecidableEq, Repr

/-- The lane block that a B operand names. -/
def operandBlocks (e : Ext) : Operand → List Block
  | .lane n => [.of e n]
  | _ => []

/-- A word of the lane arithmetic chapter that writes a block (R130, R131). -/
def laneInfo (op : LaneOp) (rule : PfxRule) (perPos : Nat) (pip : Bool := false) : WordInfo where
  cycles := blockCycles op.e perPos
  blocks := Block.of op.e op.d :: srcBlocks op.e op.a ++ operandBlocks op.e op.b
  writesBlock := true
  reads := srcReads op.a
  rule := rule
  pip := pip

/-- R131: IADD and its kin. -/
def ruleSat : PfxRule := { allowed := true, mods := [0, 1, 2] }
/-- R131: IMAD. -/
def ruleSat4 : PfxRule := { allowed := true, mods := [0, 1, 2], fourth := true }
/-- R131: the integer majors without a modifier. -/
def rulePlain : PfxRule := { allowed := true }
/-- R131: BFI. -/
def rulePlain4 : PfxRule := { allowed := true, fourth := true }
/-- R131: IDIV, and NEG and ABS of IUN. -/
def ruleMod1 : PfxRule := { allowed := true, mods := [0, 1] }
/-- R131: FADD and its kin, HADD2, HMUL2, LADD, LMUL. -/
def ruleRnd1 : PfxRule := { allowed := true, rnd := .rounding, mods := [0, 1] }
/-- R131: FFMA. -/
def ruleRnd1F : PfxRule := { allowed := true, rnd := .rounding, mods := [0, 1], fourth := true }
/-- R131: HFMA2, BFMA2. -/
def ruleRndF : PfxRule := { allowed := true, rnd := .rounding, fourth := true }
/-- R131: FUN. -/
def ruleRnd : PfxRule := { allowed := true, rnd := .rounding }

/-- R150, R151: the element numbers that MOD may name for a form whose packed elements have that many bits. -/
def cvtMods (packed : Nat) : List Nat := if packed = 8 then [0, 1, 2, 3] else if packed = 16 then [0, 1] else [0]

/-- R151: the rule of a CVT form. -/
def ruleCvt (packed : Nat) (rounds : Bool) : PfxRule :=
  { allowed := true, rnd := if rounds then .rounding else .unused, mods := cvtMods packed }

/-- A compare (R142). -/
def compareInfo (p : Fin 64) (a : LaneSrc) (b : Operand) : WordInfo where
  blocks := srcBlocks 0 a ++ operandBlocks 0 b
  predDst := some p
  reads := srcReads a
  rule := rulePlain

/-- A word of the predicate layout (R143). -/
def predInfo (p : Fin 64) : WordInfo where
  predDst := some p
  rule := rulePlain

/-- A U word of the arithmetic majors (R153). -/
def uniInfo (d : Fin 128) (reads : List Nat) : WordInfo where
  uniform := true
  reads := reads
  writes := [d.val]

/-- A terminal L word (R157, R159). -/
def flowInfo (blocks : List Block := []) (bad : Option Nat := none) : WordInfo where
  blocks := blocks
  terminal := true
  bad := bad

/-- R172: the MOD values of a gathering word. -/
def gatherMods : List Nat := [0, 4, 5, 6, 7]

/-- A vote form of XLN (R175): two cycles, EXT 0. -/
def voteInfo (dv : Option (Fin 128)) (dq : Option (Fin 64)) : WordInfo where
  cycles := 2
  blocks := match dv with | some d => [Block.one d] | none => []
  writesBlock := dv.isSome
  predDst := dq
  rule := { allowed := true, mods := gatherMods }
  gather := true

/-- A reduction or scan form of XLN (R175). -/
def xlnInfo (e : Ext) (d : Fin 128) (a : LaneSrc) (fp : Bool) : WordInfo where
  cycles := blockCycles e 2
  blocks := Block.of e d :: srcBlocks e a
  writesBlock := true
  reads := srcReads a
  rule := { allowed := true, mods := gatherMods, rnd := if fp then .rounding else .unused }
  gather := true

/-- SHFL (R178). -/
def shflInfo (e : Ext) (d : Fin 128) (a : LaneSrc) (b : Fin 128) : WordInfo where
  cycles := blockCycles e 1
  blocks := Block.of e d :: srcBlocks e a ++ [Block.of e b]
  writesBlock := true
  reads := srcReads a
  rule := { allowed := true, mods := gatherMods }
  gather := true

/-- MOVI (R122). -/
def moviInfo (e : Ext) (d : Fin 128) : WordInfo where
  cycles := blockCycles e 1
  blocks := [Block.of e d]
  writesBlock := true
  rule := { allowed := true, mods := [0, 1] }

/-- LOOPR (R63, R121): step codes 6 and 7 and an offset of 0 raise class 0x01. -/
def looprInfo (c : Fin 128) (step : Fin 8) (off : BitVec 15) : WordInfo :=
  flowInfo [Block.one c] (if 6 ≤ step.val ∨ off = 0 then some 0x01 else none)

/-- R125, R403: the numbers of the special registers. -/
def specialListed (n : Nat) : Bool :=
  decide (n ≤ 0x13) || (decide (0x40 ≤ n) && decide (n ≤ 0x46)) || (decide (0x48 ≤ n) && decide (n ≤ 0x4E)) || n == 0x50

/-- SREAD and SWRITE (R123, R124): an unlisted number fails a static check. -/
def specialInfo (num : Fin 128) (writes reads : List Nat) (blocks : List Block := []) : WordInfo where
  uniform := true
  priv := decide (0x40 ≤ num.val)
  writes := writes
  reads := reads
  blocks := blocks
  writesBlock := !blocks.isEmpty
  bad := if specialListed num.val then none else some 0x01

/-- R369, R370: the home bits of the select bits, plain and row-home, which are the reset masks. -/
def homeBits (rowHome : Bool) : List Nat :=
  if rowHome then [15, 16, 17, 9, 10, 11, 12, 13, 14, 0, 1, 2, 3] else [10, 11, 12, 0, 1, 2, 3, 4, 5, 6, 7, 8, 9]

/-- R309: the reset value of a steering word: BMAX 4, RESMAX 96, QMAX 48. -/
def steerReset : Word := 0x00030604
/-- R336: the reset value of a placement word. -/
def placeReset : Word := 0x010FFFFF
/-- R403: the reset values of the limits. -/
def watchdogReset : Word := 0x10000000
/-- R169. -/
def barrierReset : Word := 0x01000000
/-- R287. -/
def quorumReset : Word := 0x00100000
/-- R2: the nominal clock in MHz. -/
def nominalMhz : Nat := 3300

/-! ### Memory words -/

/-- Registers `n` to `n + k − 1`. -/
def regRun (n k : Nat) : List Nat := (List.range k).map (n + ·)

/-- LD (R197, R199). -/
def ldInfo (e : Ext) (d : Fin 128) (w : Nat) (i : Fin 128) : WordInfo where
  cycles := blockCycles e 1
  blocks := [Block.of e d, Block.one i]
  writesBlock := true
  rule := { allowed := true, rnd := .ordering, orders := [0, 1, 4], scope := true, mods := [0, 1, 2] }
  pip := true
  memory := true
  bad := if w = 7 then some 0x01 else none

/-- ST (R197, R199). -/
def stInfo (e : Ext) (d : Fin 128) (w : Nat) (i : Fin 128) : WordInfo where
  cycles := blockCycles e 1
  blocks := [Block.of e d, Block.one i]
  rule := { allowed := true, rnd := .ordering, orders := [0, 2, 4], scope := true, mods := [0, 1, 2], zero := false }
  effect := true
  memory := true
  bad := if w = 7 ∨ w = 1 ∨ w = 3 then some 0x01 else none

/-- LDA (R199, R203). -/
def ldaInfo (e : Ext) (d : Fin 128) (t : Fin 8) (i : Fin 128) : WordInfo where
  cycles := blockCycles e 1
  blocks := [Block.of e d, Block.one i]
  writesBlock := true
  token := some (120 + t.val)
  rule := { allowed := true, mods := [0, 1, 2] }
  effect := true
  memory := true

/-- The shape of an atomic word's data block (R234): columns by OP and W. -/
def atomicCols (op w : Nat) : Nat := (if op = 7 then 2 else 1) * (if w = 3 ∨ w = 4 then 2 else 1)

/-- R233: the pair of OP and W is legal for AMO.N, AMO.F and AMO.C. -/
def atomicPair (op w : Nat) : Bool := decide (w < 5) && !(w == 2 && (op == 3 || op == 4 || op == 5))

/-- R233: OP is legal for BRED. -/
def bredPair (op w : Nat) : Bool := atomicPair op w && decide (op < 6)

/-- An atomic word (R232 to R235). -/
def amoInfo (op : Nat) (d : Fin 128) (w : Nat) (i : Fin 128) : WordInfo where
  blocks := [⟨d.val, 1, atomicCols op w⟩, Block.one i]
  writesBlock := true
  exact := some (i.val :: regRun d.val (atomicCols op w), regRun d.val (if w = 3 ∨ w = 4 then 2 else 1))
  rule := { allowed := true, rnd := .ordering, scope := true, mods := [0, 1], noret := true }
  effect := true
  memory := true
  bad := if atomicPair op w then none else some 0x01

/-- AMO.R (R233, R234). -/
def amoRInfo (d i : Fin 128) : WordInfo where
  blocks := [Block.one d, Block.one i]
  writesBlock := true
  exact := some ([i.val, d.val], [d.val])
  rule := { allowed := true, rnd := .ordering, scope := true, mods := [0, 1], noret := true }
  effect := true
  memory := true

/-- BRED (R233 to R235). -/
def bredInfo (op : Nat) (d : Fin 128) (w : Nat) (i : Fin 128) : WordInfo where
  blocks := [⟨d.val, 1, atomicCols op w⟩, Block.one i]
  rule := { allowed := true, rnd := .ordering, orders := [0, 2, 4], scope := true, zero := false }
  effect := true
  memory := true
  bad := if bredPair op w then none else some 0x01

/-- A fence (R209, R217). -/
def fenceInfo : WordInfo where
  rule := { allowed := true, rnd := .ordering, orders := [1, 2, 3, 4], scope := true, zero := false, needed := true }
  memory := true

/-- A cache-control form (R209). -/
def cacheInfo (i : Option (Fin 128)) : WordInfo where
  blocks := match i with | some i => [Block.one i] | none => []
  rule := { allowed := true, zero := false }
  memory := true

/-- ULD (R206): `k` registers. -/
def uldInfo (d a : Fin 128) (k : Nat) : WordInfo where
  uniform := true
  reads := [a.val]
  writes := if d.val + k ≤ 128 then regRun d.val k else []
  memory := true
  bad := if d.val + k ≤ 128 then none else some 0x02

/-- UST (R206). -/
def ustInfo (d a : Fin 128) (k : Nat) : WordInfo where
  uniform := true
  reads := a.val :: (if d.val + k ≤ 128 then regRun d.val k else [])
  effect := true
  memory := true
  bad := if d.val + k ≤ 128 then none else some 0x02

/-- SEGLD (privileged) and RECLD (R74, R183, R186): four sources. -/
def quadReadInfo (a : Fin 128) (priv : Bool := false) : WordInfo where
  uniform := true
  priv := priv
  reads := if a.val ≤ 124 then regRun a.val 4 else []
  bad := if a.val ≤ 124 then none else some 0x02

/-- SEGRD (its major is privileged) and RECRD: four destinations. -/
def quadWriteInfo (d : Fin 128) (priv : Bool := false) : WordInfo where
  uniform := true
  priv := priv
  writes := if d.val ≤ 124 then regRun d.val 4 else []
  bad := if d.val ≤ 124 then none else some 0x02

/-- RECSET (R187). -/
def recsetInfo (reads : List Nat) : WordInfo where
  uniform := true
  reads := reads

/-- A U word with sources, destinations and nothing else. -/
def plainUInfo (reads writes : List Nat) : WordInfo where
  uniform := true
  reads := reads
  writes := writes

end Sys2Proof.Machine
end

