-- ==== Sys2Proof/Machine/State.lean ====
section
/-! DEFINITION. The state of the device, its reset, and the reasons a step can stop.

Plain data only. What the manual gives each part is named beside it; the model's own fields say so. -/

namespace Sys2Proof.Machine

/-- What a thread is doing (R92, R170). -/
inductive Run where
  /-- R162: the thread has exited, or its lane was never started. -/
  | exited
  /-- It stands at its position and may be gathered into a bundle. -/
  | ready
  /-- It is a member of an open bundle. -/
  | member
  /-- R192, R364: parked until the fault entries with these numbers are answered; `failed` once one answer was fail. -/
  | parked (entries : List Nat) (failed : Bool)
  /-- R165. -/
  | rcv
  /-- R167: at barrier `n` of the team (false) or of the cluster (true). -/
  | bar (clu : Bool) (n : Fin 16)
  /-- R261: in HWAIT for FULL, or for FREE. -/
  | hwait (free : Bool) (h : Fin 32)
  /-- R115. -/
  | acq
  /-- R285: at an MMA word for this convergence register. -/
  | mma (cv : Fin 8)
  /-- R395. -/
  | tkt
  /-- R163: until the core's cycle counter reaches this value. -/
  | yield (until_ : Nat)
  deriving DecidableEq, Repr

/-- R211: who accesses memory. A thread by its core, launch, cluster, team, group and home lane; `device` is every other agent of the
device (the scheduler, a walker, firmware, an engine); an agent of the host; an agent of a peer package. -/
inductive Party where
  | thread (core : CoreId) (launch cluster team gid : Nat) (lane : Lane)
  | device
  | host (agent : Nat)
  | peer (package agent : Nat)
  deriving DecidableEq, Repr

/-- R211, R213: a scope code, and for h1 to h7 the peer packages that its instance takes in, by the scope table as it stood when the word
issued. -/
structure Reach where
  scope : Nat
  peers : List Nat
  deriving DecidableEq, Repr

/-- R219: the writes and the reads that happen before something, by their numbers in `State.writes` and `State.reads`. -/
structure View where
  writes : List Nat
  reads  : List Nat
  deriving DecidableEq, Repr

/-- R218: a release, by its agent, its scope and the accesses that it covers; or what an SC fence makes visible (R221). -/
structure Head where
  party : Party
  reach : Reach
  view  : View
  deriving DecidableEq, Repr

/-- R216 to R221: what orders an agent's accesses. -/
structure Order where
  /-- What happens before its next access. -/
  view   : View
  /-- Its own reads. -/
  mine   : List Nat
  /-- R221: writes that its accesses treat as if they happened before. -/
  sc     : List Nat
  /-- R217: what happens before its last load, and that load. -/
  loads  : View
  /-- R217: what its acquire fences for stores alone bring to its next store. -/
  later  : View
  /-- R218: its release fences, whose carriers its later writes are. -/
  fences : List Head
  deriving DecidableEq, Repr

/-- A trap that a thread has raised (R398, R399): ECLASS, the code offset of the raising word and the detail words. -/
structure Trap where
  cls    : Nat
  fword  : Word
  detail : List Word
  deriving DecidableEq, Repr

/-- One thread (R111, R119, R155, R156, R401, R406). -/
structure Thread where
  run    : Run
  /-- The clause header at which the thread stands, or whose clause it is inside (R155). -/
  pc     : Word
  /-- The index (0 for the first instruction word) at which a thread that stands inside its clause resumes (R98). Only
  threads that the clause's guard selected stand inside it, and in a clause with an MMA word those that it skipped (R284). -/
  inside : Option Nat
  /-- R48, R406: the guard reading of the clause that the thread is inside: it was selected. -/
  guard  : Bool
  /-- R172: the masks of cv0 to cv3 as they were when the thread took the header of the clause that it is inside. -/
  sets   : Vector Word 4
  /-- The lane registers by storage row: rows 0 to 63 are v0 to v63, row 64 + n is slot n of the ring (R119). -/
  v      : Vector Word 128
  q      : BitVec 64
  turn   : Nat
  depth  : Nat
  /-- R400: no word has issued since the thread returned from a trap. -/
  noBp   : Bool
  trap   : Option Trap
  epc    : Word
  estate : Word
  sv0    : Word
  sv1    : Word
  ord    : Order
  deriving DecidableEq, Repr

/-- A pending token register (R102), or a completed one that no word has read yet (R104). The number of a register that the handler's
entry has set aside is 128 higher (R401). -/
structure Token where
  reg   : Nat
  done  : Bool
  /-- R126: the operation met an element out of bounds, which its join reports. -/
  bounds : Bool := false
  /-- R225: the operation's accesses, and what happens before them. -/
  did    : View := ⟨[], []⟩
  deriving DecidableEq, Repr

/-- R113, R115: the allotment of a group. -/
structure Allot where
  granted : Bool
  /-- k, a and c of the kernel descriptor or the group's role. -/
  k : Nat
  a : Nat
  c : Nat
  /-- The first grant has been made (R117). -/
  zeroed : Bool
  deriving DecidableEq, Repr

/-- Where a convergence register stands (R282). -/
inductive CvState where
  | empty | idle | open_ | postwait
  deriving DecidableEq, Repr

/-- An operand of a signing MMA word as captured (R285): register rows, or a scratch descriptor's two words. -/
inductive Captured where
  | rows (xs : List (Nat × Nat × Word))   -- (lane, register of the block, value)
  | desc (lo hi : Word)
  deriving DecidableEq, Repr

/-- One convergence register (R281 to R287). -/
structure Cv where
  mask    : Word
  signed  : Word
  st      : CvState
  /-- The bindings of the opening word: its code offset, VAR, tile and MCFG. -/
  fword   : Word
  var     : Nat
  tile    : Nat
  mcfg    : Word
  a       : Captured
  b       : Captured
  /-- R285: the members that contribute their rows. -/
  contrib : Word
  /-- R226: what happens before the signing words. -/
  view    : View
  deriving DecidableEq, Repr

/-- One accumulator tile (R273): its kind, its 64 × 64 elements as exact values, its two flags, and the accesses of the passes performed on
it that nothing has joined yet (R226). -/
structure Tile where
  z32   : Bool
  elems : Vector Acc 4096
  cvx   : Bool
  /-- R273: a trap class, or 0. -/
  err   : Nat
  view  : View
  deriving DecidableEq, Repr

/-- R315: the state of a tape. -/
inductive TapeState where
  | closed | recording | replaying
  deriving DecidableEq, Repr

/-- R317: a record of a tape: its first frame and the fields of its header; the checkpoint number of a mark or lost frame. -/
structure PlyRec where
  first : Nat
  nfr   : Nat
  kind  : Nat
  slot  : Nat
  extc  : Nat
  mask  : Word
  num   : Nat
  deriving DecidableEq, Repr

/-- R315 to R330: the tape of a group. The frames themselves lie in the tape's memory; the ply unit keeps the headers, oldest
first. -/
structure Tape where
  st     : TapeState
  drop   : Bool
  suppr  : Bool
  /-- The tape's copies of BASE and EXTENT (R316), and COMP of its record (R373). -/
  base   : Nat
  extent : Nat
  comp   : Bool
  recs   : List PlyRec
  /-- R326: each home lane has consumed the records that cover it from this position of `recs` on. -/
  pos    : Vector Nat 32
  deriving DecidableEq, Repr

/-- R401: what a group in handler mode holds. -/
structure Delivery where
  record  : List Word
  cls     : Nat
  restore : Bool
  shadow  : Vector Word 4
  deriving DecidableEq, Repr

/-- R132: a fixed-latency result of a lane that has not landed: its place in the storage row, and the core's cycle in which it lands. -/
structure Landing where
  lane  : Lane
  row   : Fin 128
  shift : Nat
  width : Nat
  time  : Nat
  deriving DecidableEq, Repr

/-- R91. -/
inductive SlotState where
  | pending | active | exiting
  deriving DecidableEq, Repr

/-- A resident group (R91, R111). -/
structure Group where
  /-- The team's key in `State.teams`. -/
  team     : Nat
  launch   : Nat
  gid      : Nat
  contract : Nat
  det      : Bool
  ctx      : Fin 64
  st       : SlotState
  s        : Vector Word 128
  b        : Vector (BitVec 128) 32
  seg      : Vector (BitVec 128) 8
  cv       : Vector Cv 8
  pip      : Vector Nat 12
  tokens   : List Token
  sticky   : Word
  seed     : BitVec 64
  cychi    : Word
  allot    : Allot
  tiles    : List Tile
  mcfg     : Word
  tape     : Tape
  handler  : Option Delivery
  /-- R410: a pre-emption is pending for the group. -/
  preempt  : Bool
  /-- R409: the team's watchdog has expired for the group. -/
  expired  : Bool
  /-- R364: lines of a waiting word of the group that firmware answered with fail. -/
  refused  : List Nat
  /-- R414: a thread of the group is being stepped; the rest of the group is halted. -/
  stepping : Bool
  /-- R132: fixed-latency results that have not landed. -/
  landing  : List Landing
  threads  : Vector Thread 32
  deriving DecidableEq, Repr

/-- Issue bookkeeping of a slot (R93, R107 to R110). -/
structure Sched where
  /-- Cycles for which the group has been ready and has issued nothing. -/
  starve  : Nat
  starved : Bool
  /-- R93: consecutive cycles without a ready thread and without an open bundle of the group whose next word can issue, for the reasons
  of a swap; whether the group stands so since the last step. -/
  idle    : Nat
  held    : Bool
  /-- R108: the urgency count, 24 bits. -/
  urg     : Nat
  /-- R109: the branch being watched (branch word, target), how often it was taken in a row after an iteration that changed nothing,
  whether the present iteration has changed nothing, the offset of the group's last word that changed something, the lowest and
  highest offsets of its words since, and the watched branch of the mark. -/
  branch  : Option (Word × Word)
  taken   : Nat
  quiet   : Bool
  noisy   : Option Word
  span    : Option (Word × Word)
  floor   : Option (Word × Word)
  /-- R287: for each convergence register the cycles that its signing has been open. -/
  quorum  : Vector Nat 8
  deriving DecidableEq, Repr

/-- A cached translation (R358): context, base of the virtual page, log2 of the page size, base of the physical page, the
address of the leaf's companion word, key slot, W, and whether D = 1 has been seen; and what the walk's acquire loads have heard of
(R355). -/
structure TlbEntry where
  ctx  : Fin 64
  va   : Nat
  size : Nat
  pa   : Nat
  comp : Nat
  key  : Option (Fin 8)
  w    : Bool
  d    : Bool
  heard : View
  deriving DecidableEq, Repr

/-- A byte held by an L1 (R208): physical address, key slot of its page, value, dirty; the core's cycle in which its line became
dirty (R223); the write that it holds, if that is known (R220); for a private byte the team and its offset in the area (R196); and
COMP of the record by which it was written (R373). -/
structure L1Byte where
  pa    : Nat
  key   : Option (Fin 8)
  value : Byte
  dirty : Bool
  since : Nat
  src   : Option Nat
  own   : Option (Nat × Nat)
  comp  : Bool
  deriving DecidableEq, Repr

/-- A core (R1, R128, R208, R268, R403). -/
structure Core where
  cycles  : Nat
  hentry  : Word
  wdlim   : Word
  barlimt : Word
  barlimc : Word
  qlim    : Word
  tctl    : Word
  bp      : Vector Word 4
  bpctx   : Word
  step    : Word
  xslot   : Vector (List Byte) 16
  /-- The scratch partition P in bytes, and its bytes, canonical and zero where unlisted. -/
  part    : Nat
  scratch : List Host.Cell
  l1      : List L1Byte
  /-- R199: lines of the L1 at the lowest retention. -/
  low     : List Nat
  tlb     : List TlbEntry
  slots   : Vector (Option Group) 32
  sched   : Vector Sched 32
  /-- R430: the die has stopped issuing. -/
  stopped : Bool
  /-- R428. -/
  retired : Bool
  deriving DecidableEq, Repr

/-- R258: the state of a handle instance. -/
inductive HState where
  | free | filling | full | draining
  deriving DecidableEq, Repr

/-- A handle instance (R255 to R266). -/
structure Handle where
  declared : Bool
  out      : Bool
  stream   : Nat
  st       : HState
  bounds   : Bool
  cvx      : Bool
  poison   : Bool
  fault    : Bool
  eos      : Bool
  cls      : Nat
  tile     : Option Nat
  /-- R265: bytes of the tile transferred so far, a multiple of 64 while the transfer waits. -/
  cursor   : Nat
  /-- A transfer waits for this fault entry. -/
  wait     : Option Nat
  /-- Offset of the buffer in the team's region. -/
  buf      : Nat
  /-- R225, R226: what happens before the transfer; once it is complete, its accesses too. -/
  view     : View
  deriving DecidableEq, Repr

/-- R405, R411: a group that has executed `eret.out`: its number, the lanes that had exited, and the lane rows and tiles of its allotment,
which are held until every group of its team has. -/
structure Away where
  gid   : Nat
  gone  : Word
  rows  : Nat
  tiles : Nat
  deriving DecidableEq, Repr

/-- A resident team (R87 to R91, R194, R253). -/
structure Team where
  key      : Nat
  launch   : Nat
  index    : Nat
  /-- R256: the cluster's index within the grid, and the team's position c in the rectangle `cores` (R252). -/
  cluster  : Nat
  rank     : Nat
  cores    : List CoreId
  /-- The slots of the team's groups, by group number. -/
  slots    : List Slot
  base     : Nat
  size     : Nat
  handles  : Vector Handle 32
  /-- R256: the next k′ of each input and output stream. -/
  inNext   : Vector Nat 8
  outNext  : Vector Nat 4
  /-- R156, R194: the call stacks, by offset in the area. -/
  own      : List Host.Cell
  /-- R196: the private bytes that their threads have written, by offset in the area. -/
  wrote    : List Nat
  /-- R395: the team has posted its ticket. -/
  posted   : Bool
  /-- R405: firmware or a handler has ended the team. -/
  killed   : Bool
  /-- R409, R169: the watchdog count and the counts of the 16 team and 16 cluster barriers, in cycles. -/
  wd       : Nat
  bars     : Vector Nat 32
  /-- R409: the count has reached the limit since it last restarted. -/
  wdHit    : Bool
  /-- R411: the groups that have executed `eret.out` in the pre-emption under way. -/
  out      : List Away
  /-- R225, R226: the accesses of its groups that have retired. -/
  did      : View
  deriving DecidableEq, Repr

/-- The threads of one group in an open bundle (R94): the slot, the lanes that the guard selected, and the lanes that it
skipped and for which an MMA word of the clause may still act (R284). -/
structure Member where
  slot : Slot
  sel  : Word
  skip : Word
  deriving DecidableEq, Repr

/-- An open bundle (R94, R95). -/
structure Bundle where
  core    : CoreId
  pc      : Word
  /-- The clause lies in the handler image (R401). -/
  handler : Bool
  /-- The instruction words of the clause, and the index of the next one. -/
  words   : List Word
  idx     : Nat
  /-- R45, R47: the two pip fields (15 for none), and whether no pip-tracked word has come yet. -/
  seta    : Nat
  setb    : Nat
  first   : Bool
  members : List Member
  /-- R66: the fields of a PREFIX word that has issued, for the next word. -/
  pfx     : Option Pfx
  /-- R414: the bundle of a single step, which closes after one word. -/
  step    : Bool
  /-- R95: its place in the order of formation. -/
  born    : Nat
  deriving DecidableEq, Repr

/-- A write of a result into a lane register (R99, R120, R150): `width` bits at `shift` of a storage row. -/
structure LaneWrite where
  lane  : Lane
  row   : Fin 128
  shift : Nat
  width : Nat
  value : Nat
  deriving DecidableEq, Repr

/-- Where an element lies once its address has been formed and translated. -/
inductive Target where
  /-- A physical address, with the key slot of its page (R354). -/
  | phys (pa : Nat) (key : Option (Fin 8))
  /-- An offset in a core's scratch partition (R252). -/
  | scratch (core : CoreId) (off : Nat)
  /-- An offset in a team's private area (R195), at that physical address. -/
  | own (team : Nat) (off pa : Nat) (key : Option (Fin 8))
  deriving DecidableEq, Repr

/-- An element of an atomic or BRED word that has passed its checks (R236, R245, R246): where it lies and by what unit it is performed, COMP of
its record, and what is before it in its thread, with the releases that its write carries (R218). -/
structure AtomicElem where
  slot    : Slot
  lane    : Lane
  targets : List Target
  /-- The location is an exact cell (R247). -/
  cell    : Bool
  /-- R242: the far atomic unit performs it. -/
  far     : Bool
  comp    : Bool
  past    : View
  heads   : List Head
  va      : Nat
  /-- OP and W as encoded; `w` is 5 for AMO.R. -/
  op     : Nat
  w      : Nat
  v      : Nat
  cmp    : Nat
  /-- The storage rows that receive the old value, low word first; none for a form without return. -/
  dst    : List (Fin 128)
  deriving DecidableEq, Repr

/-- Where a drain writes (R296, R297): a scratch descriptor, or a record with its first index and row pitch, and the
segment as it stood at issue. -/
inductive DrainDst where
  | scratch (lo hi : Word)
  | record (r : BitVec 128) (x0 : Int) (pitch : Nat) (seg : BitVec 128)
  deriving DecidableEq, Repr

/-- A matrix-vector call (R300 to R314). -/
structure Call where
  token   : Nat
  desc    : Vector Word 4
  mrec    : BitVec 128
  vrec    : BitVec 128
  orec    : BitVec 128
  seg0    : BitVec 128
  seg4    : BitVec 128
  ctx     : Fin 64
  contract : Nat
  seed    : BitVec 64
  /-- R309: the tenant's steering word at issue. -/
  steer   : Word
  /-- The handle whose vectors the call has still to read (R303), the vectors of a handle-fed call that it has read, each byte with whether
  it was in error (R424), and the declared tag. -/
  vbuf    : Option (Fin 32)
  vecs    : Option (List (Byte × Bool))
  vtag    : Nat
  /-- R310: the bank path was chosen. -/
  bank    : Bool
  /-- R307: a row has been computed by bank units. -/
  banked : Bool
  /-- Rows that are not complete and lie in no entry, ascending. -/
  todo    : List Nat
  /-- R314: rows in progress: the row, its next chunk, and for each vector the accumulator and whether it has met poison. -/
  partials : List (Nat × Nat × List (Acc × Bool))
  wait    : Option Nat
  fault   : Option Nat
  poison  : Bool
  cvx     : Bool
  oob     : Bool
  dropped : Nat
  deriving DecidableEq, Repr

/-- R203: an element of LDA whose line waits for a fault entry: its lane, row and virtual address, for a private element the base of seg1 at
issue, COMP of its record, and whether its line comes to the lowest retention (R199). -/
structure LdaWait where
  fault : Nat
  lane  : Lane
  row   : Fin 128
  va    : Nat
  base  : Option Nat
  comp  : Bool
  low   : Bool
  deriving DecidableEq, Repr

/-- What an operation that has issued and is not complete still has to do. -/
inductive Work where
  /-- A pip-tracked word (R99): its pip, results, the lanes that raise class 0x13 at its end, those that raise class 0x08, each with the
  virtual address of its lowest poisoned element, and whether it sets BOUNDS (R126). -/
  | pip (p : Fin 12) (writes : List LaneWrite) (cvx : Word) (bad : List (Lane × Nat)) (oob : Bool)
  /-- ULD (R206): the scoreboarded registers and their values; poison was read. -/
  | uld (writes : List (Fin 128 × Word)) (poison : Bool) (va : Nat)
  /-- XPLD (R270): the bytes of the pattern that it writes, by position. -/
  | xpld (x : Fin 16) (bytes : List (Nat × Byte)) (poison : Bool) (va : Nat)
  /-- An atomic word (R236 to R240): the elements still to be performed, and its prefix ordering and scope. -/
  | atomic (elems : List AtomicElem) (order : Nat) (reach : Reach)
  /-- R239: elements that met poison and whose report has not arrived. -/
  | report (who : List (Slot × Lane × Nat))
  /-- BRED (R246): for each location the elements that the bundle combines. -/
  | bred (updates : List (List AtomicElem)) (order : Nat) (reach : Reach)
  /-- LDA (R203): the token, the results read so far, the elements whose line waits for a fault entry, lanes with an element out of bounds,
  and the flags. -/
  | lda (token : Nat) (writes : List LaneWrite) (waits : List LdaWait) (oob : Word) (fault poison : Bool)
  /-- PLY.GET (R327): the token, its results, the records consumed, and the flags. -/
  | plyGet (token : Nat) (writes : List LaneWrite) (count : Nat) (fault poison : Bool)
  /-- A drain (R295): token, tile, `.z`, MOD, rounding mode, seed and destination; once the tile has been read, the codes of
  the elements still to be written with their numbers 64r + c; a fault entry it waits for; and what it reports. -/
  | drain (token tile : Nat) (z : Bool) (fmt rnd : Nat) (seed : BitVec 64) (dst : DrainDst) (read : Bool)
      (out : List (Nat × Nat)) (width : Nat) (wait : Option Nat) (fault : Option Nat) (cvx : Bool) (dropped : Nat)
  /-- MVX. -/
  | mvx (call : Call)
  /-- LAUNCH (R381): the token and the record's virtual address. -/
  | launch (token va : Nat)
  deriving DecidableEq, Repr

/-- An operation in flight, by its number: the group that issued it, its threads, the header of its word's clause and the word's code
offset, and whether it is a word of the handler (R401); what happens before it, and its own accesses (R225). -/
structure Op where
  id    : Nat
  core  : CoreId
  slot  : Slot
  lanes : Word
  pc    : Word
  fword : Word
  handler : Bool
  word  : Word
  work  : Work
  view  : View
  did   : View
  deriving DecidableEq, Repr

/-- What an entry of a reservation table does (R288, R312). -/
inductive Job where
  /-- A pass (R284 to R290): its bindings, captured operands and contributing rows, and what happens before it (R226). -/
  | pass (var : Nat) (mcfg : Word) (a b : Captured) (contrib : Word) (view : View)
  /-- The drain that is the operation of the entry's number. -/
  | drain
  /-- Rows of a matrix-vector call: the operation, and those of the entry's rows that are not complete. -/
  | rows (op : Nat) (rows : List Nat)
  deriving DecidableEq, Repr

/-- R288: an entry of a quad engine's reservation table, in posting order: the group that posted it, its tile, whether it
has started, and the cycles it has waited. -/
structure Entry where
  id      : Nat
  core    : CoreId
  slot    : Slot
  team    : Nat
  tile    : Option Nat
  started : Bool
  posted  : Nat
  job     : Job
  deriving DecidableEq, Repr

/-- A quad (R1, R116, R288): the entries of its engine, and the ACQ requests that wait at its arbiter, in posting order. -/
structure Quad where
  entries : List Entry
  acq     : List (CoreId × Slot)
  deriving DecidableEq, Repr

/-- R363: an entry of a context's fault queue; and the lanes of its group for which firmware has answered another entry with fail
(R364). -/
structure FaultEntry where
  id      : Nat
  ctx     : Fin 64
  core    : CoreId
  slot    : Slot
  lanes   : Word
  va      : Nat
  kind    : Nat
  refused : Word
  deriving DecidableEq, Repr

/-- R376: how a stored line is encrypted: the key, and the physical line under which it was written, which gives the data unit (a
256-byte sector of the physical address space), its tweak, and the line's place in it. -/
structure KeyTag where
  key  : BitVec 512
  line : Nat
  deriving DecidableEq, Repr

/-- R424: an element that holds an uncorrectable error: a lane register by its row, a predicate, a uniform register, a buffer record, an
element of a tile, or a 4-byte word of scratch. -/
inductive EccSite where
  | lane (core : CoreId) (slot : Slot) (lane : Lane) (row : Fin 128)
  | pred (core : CoreId) (slot : Slot) (lane : Lane) (q : Fin 64)
  | uni (core : CoreId) (slot : Slot) (reg : Fin 128)
  | rec_ (core : CoreId) (slot : Slot) (b : Fin 32)
  | tile (core : CoreId) (slot : Slot) (tile elem : Nat)
  | scratch (core : CoreId) (word : Nat)
  deriving DecidableEq, Repr

/-- R214: an 8-byte block of memory, under the key slot by which it is reached (R377), or of a core's scratch partition. -/
inductive Place where
  | phys (block : Nat) (key : Option (Fin 8))
  | scratch (core : CoreId) (block : Nat)
  deriving DecidableEq, Repr

/-- R215, R224: a write that stands in the coherence orders of the bytes of a block: for each byte its address, what it replaced there,
and the number of the write in `State.writes`; whether it is that of an atomic; the die that it left, that die's own counter then, and the
clock vector that it carries; and whether it has become visible to every acquire load and atomic whose instance holds its writer (R223). -/
structure Version where
  place  : Place
  bytes  : List (Nat × Byte × Nat)
  rmw    : Bool
  die    : Option (Fin 17)
  epoch  : Nat
  clock  : Vector Nat 17
  spread : Bool
  deriving DecidableEq, Repr

/-- R218 to R221: a write by its number: its writer, the releases whose carrier or whose chain it is, and what happens before it. -/
structure WriteInfo where
  id    : Nat
  party : Party
  heads : List Head
  view  : View
  deriving DecidableEq, Repr

/-- R222: an element of a load that has not landed and may still take effect later: the number of the read, the operation, the lane, the
rows that it fills, W and the record's tag, whether an L1 may serve it, its bytes, what happens before it, and the acquires of its thread
that follow it, its own among them. -/
structure Reread where
  read    : Nat
  op      : Nat
  core    : CoreId
  slot    : Slot
  lanes   : Word
  rows    : List (Fin 128)
  w       : Nat
  tag     : Nat
  cached  : Bool
  targets : List Target
  known   : List Nat
  by_     : List (Party × Reach)
  deriving DecidableEq, Repr

/-- R207, R208: a line that a chiplet's L2 holds: its line number, key slot, dirty, at the lowest retention (R199), and held by no other L2
(R241). -/
structure L2Line where
  line  : Nat
  key   : Option (Fin 8)
  dirty : Bool
  low   : Bool
  sole  : Bool
  deriving DecidableEq, Repr

/-- R416, R422: a line that the hub cache holds: its line number, key slot, dirty, and the way. -/
structure HubLine where
  line  : Nat
  key   : Option (Fin 8)
  dirty : Bool
  way   : Fin 32
  deriving DecidableEq, Repr

/-- R373: a line that the memory-side cache holds: physical line number, key slot, dirty. -/
structure MscLine where
  line  : Nat
  key   : Option (Fin 8)
  dirty : Bool
  deriving DecidableEq, Repr

/-- R248: an exact cell. -/
structure ExactCell where
  a    : Int
  pinf : Bool
  ninf : Bool
  nan  : Bool
  deriving DecidableEq, Repr

/-- R427: the wear monitor of a unit: the oscillator drift counter, the current-stress integrator and the count of ECC corrections. -/
structure Wear where
  drift  : Nat
  stress : Nat
  ecc    : Nat
  deriving DecidableEq, Repr

/-- Which step comes next (model's own, log 1). -/
inductive Event where
  /-- A step without a word. -/
  | row (i : Instr)
  /-- The open bundle of that position in `State.bundles` issues its next word. -/
  | issue (n : Nat)
  /-- One result of a pip- or token-carried operation lands before the others (R100). -/
  | land (op n : Nat)
  /-- A core's counter advances. -/
  | tick (core : CoreId) (n : Nat)
  /-- An L1 drops a line, writing its dirty bytes back (R223). -/
  | evict (core : CoreId) (line : Nat)
  /-- A core's translation cache drops an entry. -/
  | forget (core : CoreId) (n : Nat)
  /-- The Board's walk caches drop an entry. -/
  | forgetWalk (n : Nat)
  /-- R360: the host acknowledges the invalidation under way. -/
  | hostAck
  /-- R223: a write becomes visible to every acquire load and atomic whose instance holds its writer. -/
  | spread (n : Nat)
  /-- An L2 drops a line, and the hub cache; a dirty one goes to the next level (R207). -/
  | evictL2 (chip : Fin 8) (line : Nat)
  | evictHub (line : Nat)
  /-- R427: a unit wears. -/
  | wear (unit : Fin 488) (by_ : Wear)
  /-- An element of a load takes effect now (R222). -/
  | reread (n : Nat)
  /-- The word of the open bundle of that position, which waits, asks for what it waits for: an allotment, a page (R407, R325). -/
  | attempt (n : Nat)
  /-- The threads of a group that wait in TKT read the ticket word again (R395). -/
  | poll (core : CoreId) (slot : Slot)
  /-- A tile transfer moves some 64-byte parts of its tile (R264, R266). -/
  | transfer (core : CoreId) (slot : Slot) (handle : Fin 32) (n : Nat)
  /-- A matrix-vector call completes the next chunk of one of its rows (R306, R314). -/
  | chunk (op row : Nat)
  deriving DecidableEq, Repr

/-- A stream declaration of a kernel (R84, R378). -/
structure Stream where
  record : Fin 32
  tag    : Nat
  first  : Nat
  count  : Nat
  tile   : Nat
  cast   : Nat
  deriving DecidableEq, Repr

/-- A kernel descriptor as read (R378). -/
structure Kernel where
  contract : Nat
  groups   : Nat
  shape    : Nat × Nat × Nat
  priv     : Nat
  stack    : Nat
  k        : Nat
  a        : Nat
  c        : Nat
  /-- (FIRST, COUNT, BUDGET) of the roles with a non-zero count. -/
  roles    : List (Nat × Nat × Nat)
  /-- (record, argument slot) of the bound records. -/
  records  : List (Fin 32 × Fin 32)
  inputs   : Vector (Option Stream) 8
  outputs  : Vector (Option Stream) 4
  constBase : Nat
  constSize : Nat
  deriving DecidableEq, Repr

/-- A launch that the scheduler has accepted (R379 to R383). -/
structure Launch where
  id       : Nat
  kernel   : Kernel
  /-- The code image as it stood at dispatch (R51, log 8), as words; its virtual address. -/
  code     : List Word
  codeVa   : Nat
  teams    : Nat
  cw       : Nat
  ch       : Nat
  queue    : Fin 64
  det      : Bool
  tkt      : Bool
  part     : Nat
  dcores   : Nat
  waitoff  : Word
  waitval  : Word
  doneoff  : Word
  tktoff   : Word
  seed     : BitVec 64
  uinit    : Vector Word 4
  args     : Vector (BitVec 128) 32
  ctx      : Fin 64
  seg      : Vector (BitVec 128) 8
  /-- R383: firmware has ended the launch as a whole, after a trap of that class. -/
  killed   : Option Nat
  /-- R388: the rectangle bound to each run of logical cores. -/
  runs     : List (Nat × List CoreId)
  /-- R394, R396: the ticket's automatic posts that wait for their turn: the team, whether it is poisoned, and the team's accesses. -/
  posts    : List (Nat × Bool × View)
  /-- Clusters dispatched so far, and teams retired. -/
  next     : Nat
  retired  : Nat
  /-- R363: the fault entry for which the scheduler's write to the launch's ticket word or counter waits; firmware has answered one
  with fail, and the scheduler writes no more for the launch. -/
  hold     : Option Nat
  lost     : Bool
  /-- R225, R226: what happens before every access of the grid; and the accesses of its teams that have retired. -/
  view     : View
  did      : View
  deriving DecidableEq, Repr

/-- The BAR0 registers of a virtual function (R417) and firmware's ring positions (R418). -/
structure VirtFn where
  sqbase  : BitVec 64
  sqsize  : BitVec 64
  sqtail  : BitVec 64
  cqbase  : BitVec 64
  cqsize  : BitVec 64
  cqhead  : BitVec 64
  ready   : Bool
  ringerr : Bool
  /-- Next submission entry to read; next completion entry to write, and passes round that ring. -/
  sqpos   : Nat
  cqpos   : Nat
  pass    : Nat
  /-- Completion entries that are not yet written, each as its 16 bytes without PHASE, and what its write covers (R418). -/
  held    : List (List Byte × View)
  /-- R227: what happens before the doorbell rung last. -/
  rung    : View
  /-- R363: the fault entry for which the reading of the submission at the head waits; firmware has answered it with fail. -/
  wait    : Option Nat
  refused : Bool
  /-- R426: the running job's tag, and the digests of the kernels it has launched. -/
  job     : Option (BitVec 64)
  kernels : List (List Byte)
  /-- R426: digests of images replaced during the job, by kind. -/
  images  : List (Nat × List Byte)
  /-- R418: the job tags of the launches submitted, by launch number, and whether the entry ends the job. -/
  tags    : List (Nat × BitVec 64 × Bool)
  deriving DecidableEq, Repr

/-- R419, R421: a link: up, keyed, failed in training, and the integrity failures counted within the running second. -/
structure Link where
  up       : Bool
  keyed    : Bool
  failed   : Bool
  failures : Nat
  deriving DecidableEq, Repr

/-- R420: one window that firmware exports to a tenant of peer packages: the tenant, offset, size, physical base. -/
structure Export where
  tenant : Nat
  off    : Nat
  size   : Nat
  pa     : Nat
  deriving DecidableEq, Repr

/-- An entry of the firmware's log (R375, R420, R421, R424). -/
inductive LogEntry where
  | poisoned (loc : Nat)
  | lengthMismatch (pa : Nat)
  | dropped (pa : Nat)
  | linkDown (link : Nat)
  | killed (core : CoreId) (slot : Slot) (cls : Nat)
  deriving DecidableEq, Repr

/-- An engine image that `ctx.save` has written (R407, log 16): its bytes by number and size, the chiplet, and what it
holds of the group and, for the lowest group, of the team's region. -/
structure Image where
  id      : Nat
  size    : Nat
  chip    : Fin 8
  team    : Nat
  gid     : Nat
  group   : Group
  ops     : List Op
  entries : List Entry
  region  : Option (List Host.Cell × Vector Handle 32)
  deriving DecidableEq, Repr

/-- The Board's state. -/
structure Board where
  /-- R368, R371: the region tables and hash masks, live and shadow, and the quiesce register's two status bits. -/
  regions   : Vector Word 384
  shadow    : Vector Word 384
  hmask     : Vector (Vector Word 13) 4
  hshadow   : Vector (Vector Word 13) 4
  busy      : Bool
  refused   : Bool
  /-- R359. -/
  inval     : BitVec 128
  /-- R360: the host has acknowledged the request under way. -/
  hostAck   : Bool
  /-- R353: translation roots. -/
  roots     : Vector Nat 64
  /-- R380: the segments that a context's host submissions start with. -/
  ctxSegs   : Vector (Vector (BitVec 128) 8) 64
  /-- R416, R422: the tenant to which firmware has given each HBM region. -/
  owner     : Vector (Option (Fin 8)) 384
  /-- R358: the Board's record-translation caches, and its walk caches: context, physical address and the non-leaf entry there. -/
  tlb       : Vector (List TlbEntry) 8
  walks     : List (Fin 64 × Nat × Nat)
  /-- R213, R419, R420. -/
  scope     : Vector Word 4096
  pkg       : Nat
  exports   : List Export
  /-- R422, R247, R243: tenant entries, exact cells granted, and common-memory windows (offset, size). -/
  tenants   : Vector (BitVec 128) 8
  cellGrant : Vector Nat 8
  window    : Vector (Nat × Nat) 8
  /-- R309, R336: steering and placement words of each tenant. -/
  steer     : Vector Word 8
  place     : Vector Word 8
  /-- R425, R376: key slots. -/
  keys      : Vector (Option (BitVec 512)) 8
  /-- R384: the queues hold launch numbers; the queue served last at each level. -/
  queues    : Vector (List Nat) 64
  rotation  : Vector Nat 16
  /-- R337: the head launch of the queue has waited for its home class for SWAIT. -/
  spill     : Vector Bool 64
  vf        : Vector VirtFn 8
  /-- R401: the handler image, as words. -/
  handler   : List Word
  /-- R419, R421: link 0 is PCIe/CXL, links 1 to 18 the UALink ports, links 19 to 34 the UCIe ports of the 16 other dies (R1). -/
  links     : Vector Link 35
  /-- R428. -/
  quadOut   : Vector Bool 96
  chipOut   : Vector Bool 8
  /-- R428: firmware places no new cluster on the chiplet, which it is to retire. -/
  closing   : Vector Bool 8
  /-- R429, R430: power, and each die's clock in MHz. -/
  power     : Bool
  clockMhz  : Vector Nat 17
  /-- R224: the dies' clock vectors. -/
  clocks    : Vector (Vector Nat 17) 17
  /-- R426: jobs recorded since power-up, and digests of the images in use, by kind. -/
  seq       : Nat
  images    : List (Nat × List Byte)
  /-- R341: the emulation stores of the compute chiplets. -/
  emul      : Vector (List Byte) 8
  /-- R427: staged firmware images, by kind. -/
  staged    : List (Nat × List Byte)
  /-- R427, R429: the wear monitors of the 384 cores, the 96 quad engines and the 8 stacks; the figures are provisional; the monitors as
  firmware last exported them to the host. -/
  wear      : Vector Wear 488
  provisional : Bool
  blob      : Option (Vector Wear 488)
  /-- R427: the bytes last reported to management. -/
  managed   : List Byte
  /-- R426, R427: the job records written so far. -/
  records   : List (List Byte)
  /-- Bytes last returned to the host, a peer or management by a read, and whether they carry poison (R424). -/
  response  : List Byte
  rpoison   : Bool
  log       : List LogEntry
  saved     : List Image
  /-- R410 to R412: teams whose groups have all executed `eret.out`. -/
  suspended : List Team
  deriving DecidableEq, Repr

/-- The device. -/
structure State where
  agenda    : List Event
  bundles   : List Bundle
  cores     : Vector Core 384
  quads     : Vector Quad 96
  teams     : List Team
  launches  : List Launch
  ops       : List Op
  /-- The number of the next operation, team, launch, fault entry or image. -/
  nextId    : Nat
  /-- Bytes below the caches by storage location (R352, R369), canonical and zero where unlisted (log 2). -/
  mem       : List Host.Cell
  /-- R424: poisoned 32-byte sectors, with a mask of the bytes written since. -/
  poison    : List (Nat × Nat)
  /-- R424: poisoned elements of registers, tiles and scratch. -/
  ecc       : List EccSite
  /-- R376: the encrypted lines, by storage line. -/
  tags      : List (Nat × KeyTag)
  /-- R215, R218, R220: the coherence orders, block by block, oldest write first; the writes; and what each read took, by the numbers of
  the writes. -/
  hist      : List Version
  writes    : List WriteInfo
  reads     : List (Nat × List Nat)
  /-- R222: elements of loads that may still take effect. -/
  rereads   : List Reread
  /-- R221: the SC fences so far, each with the writes that it makes visible. -/
  fences    : List Head
  /-- R227, R420: what orders the accesses of the host's and of peer packages' agents. -/
  outside   : List (Party × Order)
  /-- R374: 1 KiB blocks stored compressed, with their sector count. -/
  packed    : List (Nat × Nat)
  msc       : List MscLine
  /-- R1, R207, R208: the lines that the L2s and the hub cache hold. -/
  l2        : Vector (List L2Line) 8
  hub       : List HubLine
  /-- R248: exact cells that differ from +0, by physical address. -/
  cells     : List (Nat × ExactCell)
  /-- R218, R248: the writes of an exact cell's chain, by physical address. -/
  chains    : List (Nat × List Nat)
  faults    : List FaultEntry
  board     : Board
  /-- The number of the next free value (model's own). -/
  fresh     : Nat
  deriving DecidableEq, Repr

/-- Nothing happens before. -/
def View.none : View := ⟨[], []⟩

/-- An agent that has made no access. -/
def Order.none : Order := ⟨.none, [], [], .none, .none, []⟩

/-- Bookkeeping of a slot in which nothing has issued. -/
def Sched.reset : Sched := ⟨0, false, 0, false, 0, none, 0, true, none, none, none, Vector.replicate 8 0⟩

/-- A core after power-up (R125, R268, R403; log 4). No team is resident; the whole local SRAM is L1. -/
def Core.reset : Core where
  cycles := 0
  hentry := 0
  wdlim := watchdogReset
  barlimt := barrierReset
  barlimc := barrierReset
  qlim := quorumReset
  tctl := 0
  bp := Vector.replicate 4 0
  bpctx := 0
  step := 0
  xslot := Vector.replicate 16 (List.replicate 128 0)
  part := 0
  scratch := []
  l1 := []
  low := []
  tlb := []
  slots := Vector.replicate 32 none
  sched := Vector.replicate 32 .reset
  stopped := false
  retired := false

/-- R417: the registers of a virtual function after power-up. -/
def VirtFn.reset : VirtFn where
  sqbase := 0
  sqsize := 0
  sqtail := 0
  cqbase := 0
  cqsize := 0
  cqhead := 0
  ready := false
  ringerr := false
  sqpos := 0
  cqpos := 0
  pass := 0
  held := []
  rung := .none
  wait := none
  refused := false
  job := none
  kernels := []
  images := []
  tags := []

/-- R370: the masks of a set after power-up. -/
def maskReset (rowHome : Bool) : Vector Word 13 := Vector.ofFn fun i : Fin 13 => BitVec.ofNat 32 (2 ^ (homeBits rowHome).getD i.val 0)

/-- The Board after power-up (R213, R309, R336, R353, R359, R368, R370, R417, R422, R424; log 4). -/
def Board.reset : Board where
  regions := Vector.replicate 384 0
  shadow := Vector.replicate 384 0
  hmask := Vector.ofFn fun i : Fin 4 => maskReset (decide (2 ≤ i.val))
  hshadow := Vector.ofFn fun i : Fin 4 => maskReset (decide (2 ≤ i.val))
  busy := false
  refused := false
  inval := 0
  hostAck := false
  roots := Vector.replicate 64 0
  ctxSegs := Vector.replicate 64 (Vector.replicate 8 0)
  owner := Vector.replicate 384 none
  tlb := Vector.replicate 8 []
  walks := []
  scope := Vector.replicate 4096 0
  pkg := 0
  exports := []
  tenants := Vector.replicate 8 0
  cellGrant := Vector.replicate 8 0
  window := Vector.replicate 8 (0, 0)
  steer := Vector.replicate 8 steerReset
  place := Vector.replicate 8 placeReset
  keys := Vector.replicate 8 none
  queues := Vector.replicate 64 []
  rotation := Vector.replicate 16 0
  spill := Vector.replicate 64 false
  vf := Vector.replicate 8 .reset
  handler := []
  links := Vector.replicate 35 ⟨false, false, false, 0⟩
  quadOut := Vector.replicate 96 false
  chipOut := Vector.replicate 8 false
  closing := Vector.replicate 8 false
  power := true
  clockMhz := Vector.replicate 17 nominalMhz
  clocks := Vector.replicate 17 (Vector.replicate 17 0)
  seq := 0
  images := []
  emul := Vector.replicate 8 []
  staged := []
  wear := Vector.replicate 488 ⟨0, 0, 0⟩
  provisional := false
  blob := none
  managed := []
  records := []
  response := []
  rpoison := false
  log := []
  saved := []
  suspended := []

/-- The device right after power-up (R429): no launch, no team, memory without contents, every register at its reset value. -/
def State.reset : State where
  agenda := []
  bundles := []
  cores := Vector.replicate 384 .reset
  quads := Vector.replicate 96 ⟨[], []⟩
  teams := []
  launches := []
  ops := []
  nextId := 0
  mem := []
  poison := []
  ecc := []
  tags := []
  hist := []
  writes := []
  reads := []
  rereads := []
  fences := []
  outside := []
  packed := []
  msc := []
  l2 := Vector.replicate 8 []
  hub := []
  cells := []
  chains := []
  faults := []
  board := .reset
  fresh := 0

/-- Reasons for which the machine has stopped. -/
inductive Fault where
  /-- R430: the junction passed 115 °C, power is removed and the device must be reset: no step but a reset takes place.
  Raised by every step on a device without power. Safe: nothing is claimed of such a device. -/
  | poweredOff
  deriving DecidableEq, Repr

/-- Reasons for which a step has no meaning. -/
inductive Refusal where
  /-- An instruction that has no meaning yet, by its mnemonic. Safe. -/
  | notModelled (mnemonic : String)
  deriving DecidableEq, Repr

end Sys2Proof.Machine
end

