-- ==== Sys2Proof/Machine/Ops.lean ====
section
/-! DEFINITION. The named operations over the state: registers, threads and groups, time, traps, and the issue of a word
(R87 to R129, R397 to R402). -/

namespace Sys2Proof.Machine

/-- Bit `i` of a word. -/
def hasBit (m : Word) (i : Nat) : Bool := m.getLsbD i

/-- A word with bit `i` set. -/
def oneBit (i : Nat) : Word := BitVec.ofNat 32 (2 ^ i)

/-- The lanes for which a test holds, as a word. -/
def laneMask (f : Lane → Bool) : Word :=
  (List.finRange 32).foldl (fun m l => if f l then m ||| oneBit l.val else m) 0

/-- The lanes of a mask, ascending. -/
def maskLanes (m : Word) : List Lane := (List.finRange 32).filter fun l : Lane => hasBit m l.val

/-- The word at a register number; numbers are taken modulo 128. -/
def regIx (n : Nat) : Fin 128 := ⟨n % 128, Nat.mod_lt _ (by decide)⟩

/-! ### What happens before (R219) -/

/-- A number added to a list of numbers. -/
def addId (l : List Nat) (x : Nat) : List Nat := if l.contains x then l else l ++ [x]

/-- Two lists of numbers together. -/
def addIds (l m : List Nat) : List Nat := m.foldl addId l

/-- What happens before either. -/
def View.join (a b : View) : View := ⟨addIds a.writes b.writes, addIds a.reads b.reads⟩

/-- What happens before any of some. -/
def View.joins (vs : List View) : View := vs.foldl View.join .none

/-- R218: what comes before an acquire or a join comes before what follows it. -/
def Order.hear (o : Order) (v : View) : Order := { o with view := o.view.join v }

/-! ### Cores, groups and threads -/

/-- The group in a slot. -/
def State.group? (s : State) (c : CoreId) (k : Slot) : Option Group := s.cores[c].slots[k]

/-- Changes a core. -/
def State.modCore (s : State) (c : CoreId) (f : Core → Core) : State := { s with cores := s.cores.set c (f s.cores[c]) }

/-- Sets a slot. -/
def State.setGroup (s : State) (c : CoreId) (k : Slot) (g : Option Group) : State :=
  s.modCore c fun x => { x with slots := x.slots.set k g }

/-- Changes the group in a slot, if there is one. -/
def State.modGroup (s : State) (c : CoreId) (k : Slot) (f : Group → Group) : State :=
  match s.group? c k with
  | some g => s.setGroup c k (some (f g))
  | none => s

/-- Changes every thread of a group. -/
def Group.mapThreads (g : Group) (f : Lane → Thread → Thread) : Group :=
  { g with threads := Vector.ofFn fun l => f l g.threads[l] }

/-- Changes one thread. -/
def Group.modThread (g : Group) (l : Lane) (f : Thread → Thread) : Group :=
  { g with threads := g.threads.set l (f g.threads[l]) }

/-- Some thread of the group satisfies a test. -/
def Group.anyThread (g : Group) (f : Lane → Thread → Bool) : Bool := (List.finRange 32).any fun l => f l g.threads[l]

/-- Every thread of the group satisfies a test. -/
def Group.allThreads (g : Group) (f : Lane → Thread → Bool) : Bool := (List.finRange 32).all fun l => f l g.threads[l]

/-- A thread has exited. -/
def Thread.gone (t : Thread) : Bool := t.run == .exited

/-- The team of a key. -/
def State.team? (s : State) (key : Nat) : Option Team := s.teams.find? fun t => t.key == key

/-- Changes the team of a key. -/
def State.modTeam (s : State) (key : Nat) (f : Team → Team) : State :=
  { s with teams := s.teams.map fun t => if t.key == key then f t else t }

/-- The launch of a number. -/
def State.launch? (s : State) (id : Nat) : Option Launch := s.launches.find? fun l => l.id == id

/-- The kernel of a group's launch. -/
def State.kernelOf (s : State) (g : Group) : Option Kernel := (s.launch? g.launch).map (·.kernel)

/-- Changes the launch of a number. -/
def State.modLaunch (s : State) (id : Nat) (f : Launch → Launch) : State :=
  { s with launches := s.launches.map fun l => if l.id == id then f l else l }

/-- The core on which a team of the rectangle runs. -/
def Team.core (t : Team) : CoreId := t.cores.getD t.rank 0

/-- The groups of a team with their slots, by group number. -/
def State.teamGroups (s : State) (t : Team) : List (Slot × Group) :=
  t.slots.zipIdx.filterMap fun k => match s.group? t.core k.1 with
    | some g => if g.team == t.key && g.gid == k.2 then some (k.1, g) else none
    | none => none

/-! ### Registers -/

/-- R113: the lane allotment k of the group as it stands. -/
def Group.lanes (g : Group) : Nat := if g.allot.granted then g.allot.k else 16

/-- R114: the ring size N. -/
def Group.ring (g : Group) : Nat := g.lanes - 64

/-- R114: a lane register name is within the allotment. -/
def Group.inAllot (g : Group) (n : Nat) : Bool :=
  decide (n < min g.lanes 64) || (decide (64 ≤ n) && decide (n - 64 < g.ring))

/-- R119: the storage row that a name reaches under a ring size and a turn. -/
def rowOf (ring turn n : Nat) : Fin 128 :=
  if n < 64 then regIx n
  else if ring = 0 then regIx n
  else regIx (64 + (n - 64 + ring - turn % ring) % ring)

/-- The lane register of a name. -/
def Thread.lane (t : Thread) (ring n : Nat) : Word := t.v[rowOf ring t.turn n]

/-- Writes the lane register of a name. -/
def Thread.setLane (t : Thread) (ring n : Nat) (x : Word) : Thread := { t with v := t.v.set (rowOf ring t.turn n) x }

/-- Writes the registers of a list of names, the value of each given by its position in the list. -/
def Thread.setBlock (t : Thread) (ring : Nat) (regs : List Nat) (f : Nat → Word) : Thread :=
  regs.zipIdx.foldl (fun t p => t.setLane ring p.1 (f p.2)) t

/-- R48, R111: a predicate; q0 reads true. -/
def Thread.pred (t : Thread) (p : Nat) : Bool := decide (p % 64 = 0) || t.q.getLsbD (p % 64)

/-- Writes a predicate; a write to q0 is ignored (R142, R143). -/
def Thread.setPred (t : Thread) (p : Nat) (x : Bool) : Thread :=
  if p % 64 = 0 then t
  else { t with q := if x then t.q ||| BitVec.ofNat 64 (2 ^ (p % 64)) else t.q &&& ~~~ BitVec.ofNat 64 (2 ^ (p % 64)) }

/-- A uniform register. -/
def Group.uni (g : Group) (n : Nat) : Word := g.s[regIx n]

/-- Writes a uniform register. -/
def Group.setUni (g : Group) (n : Nat) (x : Word) : Group := { g with s := g.s.set (regIx n) x }

/-- R55: the value of a lane or uniform source at an element of its block. -/
def Group.src (g : Group) (t : Thread) (a : LaneSrc) (off : Nat) : Word :=
  match a with
  | .v n => t.lane g.ring (n.val + off)
  | .s n => g.uni n.val

/-- R72: the value of B of a U word. -/
def Group.usrc (g : Group) : USrc → Word
  | .reg n => g.uni n.val
  | .imm x => x.signExtend 32

/-- R126: sets bits of %sticky. -/
def Group.flag (g : Group) (bits : Word) : Group := { g with sticky := g.sticky ||| bits }

/-- R126. -/
def cvxBit : Word := 1
/-- R126. -/
def boundsBit : Word := 2
/-- R126. -/
def qexitBit : Word := 4

/-! ### Tokens and operations in flight (R99 to R105) -/

/-- A register is a pending token. -/
def Group.pendingToken (g : Group) (n : Nat) : Bool := g.tokens.any fun t => t.reg == n && !t.done

/-- The number of pending tokens. -/
def Group.pendingCount (g : Group) : Nat := (g.tokens.filter fun t => !t.done).length

/-- R102: marks a register pending. -/
def Group.startToken (g : Group) (n : Nat) : Group :=
  { g with tokens := { reg := n, done := false } :: g.tokens.filter fun t => t.reg != n }

/-- R401: writes a uniform register, or the shadow of one that the handler's entry has set aside. -/
def Group.setNamed (g : Group) (n : Nat) (x : Word) : Group :=
  if n < 128 then g.setUni n x
  else { g with handler := g.handler.map fun d => { d with shadow := d.shadow.set (⟨n % 4, Nat.mod_lt _ (by decide)⟩ : Fin 4) x } }

/-- R102, R103: an operation completes its token; `bounds` and `did` are what the join sets and brings (R126, R225). -/
def Group.endToken (g : Group) (n : Nat) (status : Word) (bounds : Bool := false) (did : View := .none) : Group :=
  { g.setNamed n status with tokens := { reg := n, done := true, bounds := bounds, did := did } :: g.tokens.filter fun t => t.reg != n }

/-- R103: a status word. -/
def statusWord (kind detail : Nat) (fault poison cvx : Bool) : Word :=
  BitVec.ofNat 32 (detail % 2 ^ 16 * 2 ^ 16 + kind * 2 ^ 8 + fault.toNat * 8 + poison.toNat * 4 + cvx.toNat * 2 + 1)

/-- R225: what happens before the next access of any of some threads of a group. -/
def State.viewOf (s : State) (c : CoreId) (k : Slot) (lanes : Word) : View :=
  match s.group? c k with
  | some g => View.joins (((List.finRange 32).filter fun l : Lane => hasBit lanes l).map fun l : Lane => (g.threads[l]).ord.view)
  | none => .none

/-- Removes an operation, and with it what its loads might still read (R222). -/
def State.dropOp (s : State) (id : Nat) : State :=
  { s with ops := s.ops.filter fun o => o.id != id, rereads := s.rereads.filter fun r => r.op != id }

/-- Changes an operation. -/
def State.modOp (s : State) (id : Nat) (f : Op → Op) : State :=
  { s with ops := s.ops.map fun o => if o.id == id then f o else o }

/-- The operation of a number. -/
def State.op? (s : State) (id : Nat) : Option Op := s.ops.find? fun o => o.id == id

/-- An operation still concerns the group in a slot: one of its own, or one with elements of it. -/
def Op.concerns (o : Op) (c : CoreId) (k : Slot) : Bool :=
  o.core == c && (o.slot == k || match o.work with
    | .atomic es _ _ => es.any fun e => e.slot == k
    | .bred us _ _ => us.any fun es => es.any fun e => e.slot == k
    | .report who => who.any fun w => w.1 == k
    | _ => false)

/-- R120, R150: a register with `width` bits at `shift` replaced. -/
def LaneWrite.into (w : LaneWrite) (old : Word) : Word :=
  BitVec.ofNat 32 (old.toNat - fieldOf old.toNat w.shift w.width * 2 ^ w.shift + w.value % 2 ^ w.width * 2 ^ w.shift)

/-- R120: a result lands in its row; a thread that has exited discards it (R101). -/
def Thread.land (t : Thread) (w : LaneWrite) : Thread :=
  if t.gone then t else { t with v := t.v.set w.row (w.into t.v[w.row]) }

/-- R401: a result of a kernel word for a row that the handler's entry has set aside lands in its shadow. -/
def Thread.landShadow (t : Thread) (w : LaneWrite) : Thread :=
  if t.gone then t else if w.row = 0 then { t with sv0 := w.into t.sv0 } else { t with sv1 := w.into t.sv1 }

/-- R401: a register that the handler's entry sets aside belongs to kernel code while an operation belongs to the handler, or the other
way round. -/
def Op.apart (o : Op) (g : Group) : Bool := o.handler != g.handler.isSome

/-- R401: one result of an operation lands. A result of the handler's for v0 or v1 that comes after its return is lost (log 84). -/
def Group.landOne (g : Group) (o : Op) (w : LaneWrite) : Group :=
  if w.row.val < 2 && o.apart g then (if o.handler then g else g.modThread w.lane fun t => t.landShadow w)
  else g.modThread w.lane fun t => t.land w

/-- R132, R100: the parts of a result that no fixed-latency result ends in which lands later than now. -/
def Group.reaching (g : Group) (now : Nat) (w : LaneWrite) : List LaneWrite :=
  let later := g.landing.filter fun x => x.lane == w.lane && x.row == w.row && decide (now < x.time)
    && decide (x.shift < w.shift + w.width) && decide (w.shift < x.shift + x.width)
  if later.isEmpty then [w]
  else ((List.range w.width).filter fun i => !later.any fun x => decide (x.shift ≤ w.shift + i) && decide (w.shift + i < x.shift + x.width)).map
    fun i => { w with shift := w.shift + i, width := 1, value := w.value / 2 ^ i }

/-- R100, R132: results of a pip- or token-carried operation land. -/
def Group.land (g : Group) (o : Op) (now : Nat) (ws : List LaneWrite) : Group :=
  (ws.flatMap (g.reaching now)).foldl (fun g w => g.landOne o w) g

/-- R206, R401: a result of an operation for a uniform register lands. -/
def Group.landUni (g : Group) (o : Op) (n : Nat) (x : Word) : Group :=
  if 124 ≤ n ∧ o.apart g then (if o.handler then g else g.setNamed (n + 128) x) else g.setUni n x

/-- R109: the registers of the group that a word may change. -/
def Group.sameRegs (g h : Group) : Bool :=
  g.s == h.s && g.tiles == h.tiles && g.b == h.b && (List.finRange 32).all fun l =>
    (g.threads[l]).v == (h.threads[l]).v && (g.threads[l]).q == (h.threads[l]).q

/-- R109: something of the group's word at a code offset has changed a value, or the word was an issue that R109 names. -/
def Sched.noise (x : Sched) (o : Word) : Sched := { x with quiet := false, taken := 0, floor := none, noisy := some o, span := none }

/-- R108, R109: a word at a code offset has executed for a group. -/
def Sched.issued (x : Sched) (o : Word) (changed : Bool) : Sched :=
  let y := { x with starve := 0, starved := false, idle := 0, urg := min (x.urg + 1) (2 ^ 24 - 1) }
  if changed then y.noise o
  else { y with span := some (match x.span with
      | some p => (if o.toNat < p.1.toNat then o else p.1, if p.2.toNat < o.toNat then o else p.2)
      | none => (o, o)) }

/-- R109: the group in a slot changes by an operation of the word at a code offset. -/
def State.changeBy (s : State) (c : CoreId) (k : Slot) (fword : Word) (f : Nat → Group → Group) : State :=
  match s.group? c k with
  | none => s
  | some g =>
    let h := f (s.cores[c]).cycles g
    let s := s.setGroup c k (some h)
    if g.sameRegs h then s else s.modCore c fun x => { x with sched := x.sched.set k ((x.sched[k]).noise fword) }

/-- R100, R109, R132: the group of an operation changes as its results land. -/
def State.landFor (s : State) (o : Op) (f : Nat → Group → Group) : State := s.changeBy o.core o.slot o.fword f

/-- R102, R401: the operation completes its token in a group. That of a word of the handler whose register ERET has put back is gone
(log 84). -/
def Group.endTokenFor (g : Group) (o : Op) (token : Nat) (status : Word) (bounds : Bool := false) : Group :=
  if 124 ≤ token ∧ o.apart g then (if o.handler then g else g.endToken (token + 128) status bounds (o.view.join o.did))
  else g.endToken token status bounds (o.view.join o.did)

/-- R102, R109: the operation completes its token. -/
def State.endTokenOf (s : State) (o : Op) (token : Nat) (status : Word) (bounds : Bool := false) : State :=
  s.landFor o fun _ g => g.endTokenFor o token status bounds

/-! ### Halting and traps (R397 to R402) -/

/-- R397, R398, R409, R410: the group must halt and be delivered to the handler. -/
def Group.mustHalt (g : Group) : Bool :=
  g.handler.isNone && (g.preempt || g.expired || g.anyThread fun _ t => t.trap.isSome)

/-- R410: a pre-emption of the group is pending or delivered: its engines start nothing (R298, R314) and its team's streams stop
(R266). -/
def Group.engineHeld (g : Group) : Bool :=
  (g.anyThread fun _ t => !t.gone) && (g.preempt || match g.handler with | some d => d.cls == 0x17 | none => false)

/-- R410: the engines of the group in a slot are held. -/
def State.engineHeld (s : State) (c : CoreId) (k : Slot) : Bool := match s.group? c k with | some g => g.engineHeld | none => false

/-- R98: where a thread that leaves its bundle before its next word stands. -/
def Bundle.here (b : Bundle) : Nat := if b.pfx.isSome then b.idx - 1 else b.idx

/-- The code offset of instruction word `i` of the clause. -/
def Bundle.offset (b : Bundle) (i : Nat) : Word := b.pc + BitVec.ofNat 32 (4 * (i + 1))

/-- R50: the header of the next clause in sequence. -/
def Bundle.after (b : Bundle) : Word := b.offset b.words.length

/-- The word that is issuing. -/
def Bundle.current (b : Bundle) : Word := b.words.getD b.idx 0

/-- Adds an operation of the word that is issuing: a fork (R225). -/
def State.addOp (s : State) (b : Bundle) (k : Slot) (lanes : Word) (w : Work) : State :=
  { s with ops := s.ops ++ [⟨s.nextId, b.core, k, lanes, b.pc, b.offset b.here, b.handler, b.current, w, s.viewOf b.core k lanes, .none⟩]
           nextId := s.nextId + 1 }

/-- Adds an operation that follows from another one of the same word. -/
def State.addFrom (s : State) (o : Op) (k : Slot) (w : Work) : State :=
  { s with ops := s.ops ++ [{ o with id := s.nextId, slot := k, lanes := 0, work := w }], nextId := s.nextId + 1 }

/-- A thread leaves its bundle and stands at instruction word `i` of its clause, or at the next header past the last. -/
def Thread.standAt (t : Thread) (b : Bundle) (i : Nat) (r : Run) : Thread :=
  if i < b.words.length then { t with run := r, pc := b.pc, inside := some i }
  else { t with run := r, pc := b.after, inside := none }

/-- R195, R156: an offset of a team's area belongs to a thread. -/
def ownedBy (groups priv stack thread off : Nat) : Bool :=
  if off < 32 * groups * priv then
    off / (32 * priv) == thread / 32 && off % 128 / 4 == thread % 32
  else (off - 32 * groups * priv) / max stack 1 == thread

/-- R196: the private bytes and call stacks of exited threads are discarded, with what the L1 holds of them. -/
def State.dropOwn (s : State) (g : Group) (sel : Word) : State :=
  match s.kernelOf g, s.team? g.team with
  | some k, some t =>
    let mine := fun o => (maskLanes sel).any fun l => ownedBy k.groups k.priv k.stack (32 * g.gid + l.val) o
    (s.modTeam g.team fun t => { t with own := t.own.filter (fun c => !mine c.1), wrote := t.wrote.filter fun o => !mine o }).modCore t.core fun x =>
      { x with l1 := x.l1.filter fun b => match b.own with | some o => !(o.1 == t.key && mine o.2) | none => true }
  | _, _ => s

/-- R405: one team ends. Its threads have exited, its groups wait to retire, and what its groups still had to do in
pips, loads and atomics that no rule completes is discarded at their retirement (R299). -/
def State.endTeam (s : State) (key : Nat) : State :=
  match s.team? key with
  | none => s
  | some t =>
    let held := (s.teamGroups t).map (·.1)
    let s := (s.teamGroups t).foldl (fun s p => s.dropOwn p.2 0xFFFFFFFF) s
    let s := s.modTeam key fun t => { t with killed := true, out := [] }
    let s := (s.teamGroups t).foldl (fun s p => s.modGroup t.core p.1 fun g =>
      { g.mapThreads (fun _ x => { x with run := .exited, trap := none }) with
        st := .exiting, handler := none, preempt := false, expired := false, stepping := false }) s
    { s with bundles := s.bundles.map fun b => if b.core = t.core then
        { b with members := b.members.filter fun m => !held.contains m.slot } else b }

/-- R383: a launch ends as a whole: its remaining clusters are not dispatched and its teams end. -/
def State.endLaunch (s : State) (id cls : Nat) : State :=
  let away := (s.board.suspended.filter fun t : Team => t.launch == id).length
  let s := s.modLaunch id fun l => { l with killed := some (l.killed.getD cls), posts := [], retired := l.retired + away }
  let s := { s with board := { s.board with queues := s.board.queues.map fun q : List Nat => q.filter (· != id)
                                            spill := Vector.ofFn fun q : Fin 64 => s.board.spill[q] && (s.board.queues[q]).head? != some id
                                            suspended := s.board.suspended.filter fun t : Team => t.launch != id } }
  (s.teams.filter fun t : Team => t.launch == id).foldl (fun s (t : Team) => s.endTeam t.key) s

/-- R405, R402: a team ends after a trap of a class; in a deterministic launch the launch ends with it. -/
def State.killTeam (s : State) (key cls : Nat) : State :=
  match (s.team? key).bind fun t => s.launch? t.launch with
  | some l => if l.det then s.endLaunch l.id cls else s.endTeam key
  | none => s.endTeam key

/-- Firmware's log. -/
def State.logged (s : State) (e : LogEntry) : State := { s with board := { s.board with log := s.board.log ++ [e] } }

/-- R398, R402: a trap raised by the word now issuing for lanes of one group. `after` leaves the threads past the word
(R400). In handler mode it ends the team. -/
def State.raise (s : State) (b : Bundle) (k : Slot) (lanes : Lane → Bool) (cls : Nat) (detail : List Word)
    (after : Bool := false) : State :=
  match s.group? b.core k with
  | none => s
  | some g =>
    if (List.finRange 32).any lanes then
      if g.handler.isSome then (s.killTeam g.team cls).logged (.killed b.core k cls)
      else
        s.setGroup b.core k (some (g.mapThreads fun l t =>
          if lanes l && !t.gone then
            { (t.standAt b (if after then b.idx + 1 else b.here) .ready) with
              trap := some (t.trap.getD ⟨cls, b.offset b.here, detail⟩) }
          else t))
    else s

/-- R397: the threads of the group in a slot leave their open bundles before their next word. -/
def State.haltSlot (s : State) (c : CoreId) (k : Slot) : State :=
  let s := s.bundles.foldl (fun s b =>
    if b.core = c then
      (b.members.filter fun m => m.slot == k).foldl (fun s m =>
        s.modGroup c k fun g => g.mapThreads fun l t =>
          if hasBit (m.sel ||| m.skip) l && t.run == .member then t.standAt b b.here .ready else t) s
    else s) s
  { s with bundles := s.bundles.map fun b => if b.core = c then
      { b with members := b.members.filter fun m => m.slot != k } else b }

/-- Bundles that no thread is left in are closed (R95). -/
def State.purge (s : State) : State := { s with bundles := s.bundles.filter fun b => b.members.any fun m => m.sel ||| m.skip != 0 }

/-- R400: a thread stands again at the word of an operation of its, inside the clause, selected by the guard; in handler mode EPC and
ESTATE say so. -/
def Thread.backTo (t : Thread) (o : Op) (handler : Bool) : Thread :=
  if handler then { t with epc := o.fword, estate := (t.estate &&& 1#32) ||| 0xC#32 }
  else { t with run := .ready, pc := o.pc, inside := some ((o.fword - o.pc).toNat / 4 - 1), guard := true }

/-- R398, R400, R402: a trap that an operation raises for lanes of the group that issued it: for class 0x13 the thread stays where it
stands, for every other class it stands at the operation's word again. One of a word of the handler ends the team; so does one for a
group whose threads have all exited. The group halts (R397). -/
def State.raiseLater (s : State) (o : Op) (lanes : Lane → Bool) (cls : Nat) (detail : List Word) : State :=
  match s.group? o.core o.slot with
  | none => s
  | some g =>
    let hit := fun l => lanes l && !(g.threads[l]).gone
    if (List.finRange 32).any lanes && (o.handler || g.allThreads fun _ t => t.gone) then
      (s.killTeam g.team cls).logged (.killed o.core o.slot cls)
    else if (List.finRange 32).any hit then
      let g := g.mapThreads fun l t => if hit l && t.trap.isNone then
        { (if cls = 0x13 then t else t.backTo o g.handler.isSome) with trap := some ⟨cls, o.fword, detail⟩ } else t
      let s := s.setGroup o.core o.slot (some g)
      if g.mustHalt then (s.haltSlot o.core o.slot).purge else s
    else s

/-- Those of the lanes whose threads are still in an open bundle. -/
def State.liveOf (s : State) (c : CoreId) (k : Slot) (lanes : Word) : Word :=
  match s.group? c k with
  | some g => laneMask fun l => hasBit lanes l && (g.threads[l]).run == .member
  | none => 0

/-- The threads of a member that are still in the bundle. -/
def State.live (s : State) (c : CoreId) (m : Member) : Word := s.liveOf c m.slot m.sel

/-- A member with the threads that have left it taken out. -/
def State.trim (s : State) (c : CoreId) (m : Member) : Member :=
  { m with sel := s.live c m, skip := s.liveOf c m.slot m.skip }

/-! ### Code and clauses (R43 to R51) -/

/-- R51, R401: the code that a group fetches from: the image of its launch, or in handler mode the handler image. -/
def State.codeOf (s : State) (g : Group) : List Word :=
  if g.handler.isSome then s.board.handler
  else match s.launch? g.launch with
    | some l => l.code
    | none => []

/-- The word at a code offset, if the offset lies in the image. -/
def codeAt (code : List Word) (off : Word) : Option Word :=
  if off.toNat % 4 = 0 then code[off.toNat / 4]? else none

/-- R44: the instruction words of the clause at a header, if all of them lie in the image. -/
def clauseWords (code : List Word) (pc : Word) : Option (List Word) :=
  match codeAt code pc with
  | none => none
  | some h =>
    let n := fieldOf h.toNat 27 5 + 1
    let ws := (code.drop (pc.toNat / 4 + 1)).take n
    if ws.length = n then some ws else none

/-- R46: every pip that a header names in WAIT reads zero for the group. -/
def Group.waitMet (g : Group) (header : Word) : Bool := (List.finRange 12).all fun n : Fin 12 => !hasBit header (15 + n.val) || g.pip[n] == 0

/-- R173: where the bundle resumes that opens inside a clause, or the header of the clause: the thread stands there and no pip that the
header waits on holds it. -/
def State.standsReady (s : State) (g : Group) (t : Thread) : Bool :=
  t.run == .ready && (t.inside.isSome || match codeAt (s.codeOf g) t.pc with
    | some h => g.waitMet h
    | none => true)

/-- R172: the MOD value of a gathering word: its own major and that of the PREFIX before it. -/
def gatherMod (before : Option Word) (w : Word) : Option Nat :=
  if fieldOf w.toNat 25 7 = 0x35 ∨ fieldOf w.toNat 25 7 = 0x36 then
    some (match before with
      | some p => if fieldOf p.toNat 25 7 = 0x3F then fieldOf p.toNat 4 3 else 0
      | none => 0)
  else none

/-- R172, R173: the MOD values of the gathering words of a clause. -/
def gathersOf : Option Word → List Word → List Nat
  | _, [] => []
  | before, w :: rest => (gatherMod before w).toList ++ gathersOf (some w) rest

/-- R172: the gathering set that a MOD value chooses at the header. -/
def Group.gatherSet (g : Group) (mod : Nat) (l : Lane) : Bool :=
  !(g.threads[l]).gone && (mod < 4 || hasBit (g.cv[(⟨mod % 4, by omega⟩ : Fin 8)]).mask l)

/-- R172: the gathering set of a word of the clause that a lane's thread is inside, by the masks as they were at the header. -/
def Group.inSet (g : Group) (mod : Nat) (l : Lane) : Bool :=
  !(g.threads[l]).gone && (mod < 4 || hasBit ((g.threads[l]).sets[(⟨mod % 4, by omega⟩ : Fin 4)]) l)

/-- R173: two threads inside one clause belong to one set of a word of it: they took its header under the same mask. -/
def Thread.together (t u : Thread) (mod : Nat) : Bool := mod < 4 || t.sets[(⟨mod % 4, by omega⟩ : Fin 4)] == u.sets[(⟨mod % 4, by omega⟩ : Fin 4)]

/-- R173: the union of the gathering sets of the clause at a header; empty for a clause without a gathering word. -/
def State.gatherUnion (s : State) (g : Group) (pc : Word) (l : Lane) : Bool :=
  match clauseWords (s.codeOf g) pc with
  | some ws => (gathersOf none ws).any fun mod => g.gatherSet mod l
  | none => false

/-- The clause at a header holds a gathering word. -/
def State.isGather (s : State) (g : Group) (pc : Word) : Bool :=
  match clauseWords (s.codeOf g) pc with
  | some ws => !(gathersOf none ws).isEmpty
  | none => false

/-- R173: the gathering set of the clause at a header is ready there in full. -/
def State.gatherFull (s : State) (g : Group) (pc : Word) : Bool :=
  g.allThreads fun l t => !s.gatherUnion g pc l || (s.standsReady g t && t.inside.isNone && t.pc == pc)

/-- R173: the MOD value of the gathering word at which a thread that resumes at instruction word `i` of a clause resumes: the word, or
the one after a PREFIX. -/
def gatherAt (ws : List Word) (i : Nat) : Option Nat :=
  match ws[i]? with
  | none => none
  | some w => match gatherMod none w with
    | some m => some m
    | none => if fieldOf w.toNat 25 7 = 0x3F then (ws[i + 1]?).bind (gatherMod (some w)) else none

/-- R173: the lane's thread belongs to the set of a gathering word of the clause at `pc` and has still to come to that word or stands
at it: it is inside the clause and the guard selected it. -/
def Group.awaited (g : Group) (mod : Nat) (pc : Word) (l : Lane) : Bool :=
  let t := g.threads[l]
  g.inSet mod l && t.guard && t.pc == pc && (t.inside.isSome || t.run == .member)

/-- R173: where a thread stands at a gathering word inside its clause, all of the set that is inside the clause stands there. -/
def State.insideFull (s : State) (g : Group) (t : Thread) : Bool :=
  match t.inside, clauseWords (s.codeOf g) t.pc with
  | some i, some ws => match gatherAt ws i with
    | some mod => g.allThreads fun l x => !g.awaited mod t.pc l || !t.together x mod || (x.run == .ready && x.inside == some i)
    | none => true
  | _, _ => true

/-- R92: a thread of the group is ready. -/
def State.threadReady (s : State) (g : Group) (t : Thread) : Bool :=
  s.standsReady g t && (if t.inside.isSome then s.insideFull g t else !s.isGather g t.pc || s.gatherFull g t.pc)

/-- R92: a group that is not halted has a ready thread. -/
def State.groupReady (s : State) (g : Group) : Bool := !g.mustHalt && !g.stepping && g.anyThread fun _ t => s.threadReady g t

/-! ### Time (R93, R107, R128, R169, R409) -/

/-- R93, R107: the counts of a slot over `dt` cycles. `ready`: the group has a ready thread and is not halted. The cycles for which a
group has issued no word are those in which it has been ready throughout (log 68). A signing in POSTWAIT has no quorum count and is not
withdrawn (DESIGN CHOICE, log 85). -/
def Sched.elapse (x : Sched) (g : Group) (ready : Bool) (dt : Nat) : Sched :=
  { x with starve := if ready then x.starve + dt else 0
           starved := x.starved && ready
           idle := if x.held then x.idle + dt else 0
           quorum := Vector.ofFn fun i : Fin 8 =>
             if g.handler.isSome || g.mustHalt then x.quorum[i]
             else if (g.cv[i]).st == .open_ then x.quorum[i] + dt else 0 }

/-- R169: the number of a barrier among the 32 counts of a team. -/
def barIx (clu : Bool) (n : Fin 16) : Fin 32 := ⟨n.val + (if clu then 16 else 0), by split <;> omega⟩

/-- R406: the barrier at which a thread waits, whether it runs kernel code or its group is in handler mode, where
ESTATE [7:4] holds the wait and [11:8] the barrier. -/
def Thread.waitsAt (t : Thread) (handler : Bool) (clu : Bool) (n : Fin 16) : Bool :=
  if handler then
    !t.gone && fieldOf t.estate.toNat 4 4 == (if clu then 3 else 2) && fieldOf t.estate.toNat 8 4 == n.val
  else t.run == .bar clu n

/-- The threads of a team that wait at a barrier. -/
def State.arrived (s : State) (t : Team) (clu : Bool) (n : Fin 16) : Nat :=
  ((s.teamGroups t).map fun p => ((List.finRange 32).filter fun l =>
    (p.2.threads[l]).waitsAt p.2.handler.isSome clu n).length).sum

/-- R167: the non-exited threads of a team. -/
def State.expected (s : State) (t : Team) : Nat :=
  ((s.teamGroups t).map fun p => ((List.finRange 32).filter fun l => !(p.2.threads[l]).gone).length).sum

/-- R397: every non-exited group of the team is halted (in handler mode, or about to enter it). -/
def State.allHalted (s : State) (t : Team) : Bool :=
  (s.teamGroups t).all fun p => p.2.handler.isSome || p.2.mustHalt || p.2.allThreads fun _ x => x.gone

/-- R169, R409: the counts of a team over `dt` cycles of its core. -/
def State.teamElapse (s : State) (c : CoreId) (dt : Nat) (t : Team) : Team :=
  if t.core = c && !s.allHalted t then
    { t with
      wd := t.wd + dt
      bars := Vector.ofFn fun i : Fin 32 =>
        let n : Fin 16 := ⟨i.val % 16, Nat.mod_lt _ (by decide)⟩
        if s.arrived t (decide (16 ≤ i.val)) n = 0 then 0 else t.bars[i] + dt }
  else t

/-- `dt` cycles of a core pass. While the die has stopped issue only the cycle counter runs (R430). -/
def State.elapse (s : State) (c : CoreId) (dt : Nat) : State :=
  let s1 := s.modCore c fun x =>
    { x with
      cycles := x.cycles + dt
      sched := if x.stopped then x.sched else Vector.ofFn fun k : Fin 32 =>
        match x.slots[k] with
        | some g => (x.sched[k]).elapse g (s.groupReady g) dt
        | none => x.sched[k] }
  if s.cores[c].stopped then s1 else { s1 with teams := s.teams.map fun t => s.teamElapse c dt t }

end Sys2Proof.Machine
end

