-- ==== Sys2Proof/Machine/Memory.lean ====
section
/-! DEFINITION. Memory below the caches: cells, the region table and its hash, keys, poison, the memory-side caches and exact cells (R243
to R249, R352, R367 to R377, R424). -/

namespace Sys2Proof.Machine

/-! ### Canonical cell lists -/

/-- The byte at an address; an unlisted address reads as zero (log 2). -/
def getCell : List Host.Cell → Nat → Byte
  | [], _ => 0
  | (a, b) :: rest, x => if a = x then b else getCell rest x

/-- Writes a byte, keeping the addresses rising and no zero listed. -/
def setCell : List Host.Cell → Nat → Byte → List Host.Cell
  | [], x, v => if v = 0 then [] else [(x, v)]
  | (a, b) :: rest, x, v =>
    if x < a then (if v = 0 then (a, b) :: rest else (x, v) :: (a, b) :: rest)
    else if x = a then (if v = 0 then rest else (x, v) :: rest)
    else (a, b) :: setCell rest x v

/-- The canonical form: addresses strictly rising from above `lo`, no byte equal to what an unlisted address reads as. -/
def cellsFrom : Nat → List Host.Cell → Bool
  | _, [] => true
  | lo, (a, b) :: rest => decide (lo ≤ a) && b != 0 && cellsFrom (a + 1) rest

/-- The canonical form of a memory. -/
abbrev Memory.wf (m : List Host.Cell) : Bool := cellsFrom 0 m

/-- Writes a list of bytes from an address on. -/
def setCells (m : List Host.Cell) (a : Nat) (bs : List Byte) : List Host.Cell :=
  bs.zipIdx.foldl (fun m p => setCell m (a + p.2) p.1) m

/-- Removes the cells whose address satisfies a test. -/
def dropCells (m : List Host.Cell) (f : Nat → Bool) : List Host.Cell := m.filter fun c => !f c.1

/-! ### Regions and the hash (R367 to R370) -/

/-- Bytes of HBM (R352). -/
def hbmSize : Nat := 384 * 2 ^ 30
/-- R352. -/
def commonBase : Nat := 0x10000000000
/-- R243. -/
def commonSize : Nat := 2 ^ 27
/-- R352. -/
def peerBase : Nat := 2 ^ 50
/-- R352. -/
def hostBase : Nat := 2 ^ 51

/-- R352: a physical address that the map does not reserve. -/
def mapped (pa : Nat) : Bool :=
  decide (pa < hbmSize) || (decide (commonBase ≤ pa) && decide (pa < commonBase + commonSize))
  || (decide (peerBase ≤ pa) && decide (pa < 2 ^ 52))

/-- The parity of a number of 23 bits. -/
def parity23 (x : Nat) : Bool := (List.range 23).foldl (fun p i => p != x.testBit i) false

/-- R369: the home position of select bit `i`. -/
def homeOf (rowHome : Bool) (i : Nat) : Nat :=
  if rowHome then
    (if i < 3 then 15 + i else if i = 3 then 9 else if i < 9 then 10 + (i - 4) else if i < 11 then i - 9 else 2 + (i - 11))
  else
    (if i < 3 then 10 + i else if i = 3 then 0 else if i < 9 then 1 + (i - 4) else if i < 11 then 6 + (i - 9) else 8 + (i - 11))

/-- R369: the select bits that take part under WAYS. -/
def selectBits (ways : Nat) : List Nat := (List.range 13).filter fun i => decide (i < ways) || decide (3 ≤ i)

/-- R369: the storage byte of an HBM address under a region entry and the mask set it names. Storage bytes count stack,
pseudo-channel, bank group, bank, bank line and byte, each within the one before. -/
def storageOf (entry : Word) (mask : Vector Word 13) (pa : Nat) : Nat :=
  let e := entry.toNat
  let rowHome := e.testBit 20
  let ways := fieldOf e 16 2
  let l := fieldOf pa 7 23
  let sel (i : Fin 13) : Nat :=
    let m := (mask[i]).toNat
    let m := if rowHome ∧ i.val ≤ 8 then m / 2 ^ 9 * 2 ^ 9 else m
    (parity23 (l &&& m)).toNat
  let homes := (selectBits ways).map (homeOf rowHome)
  let q := ((List.range 23).filter fun i => !homes.contains i).zipIdx.foldl
    (fun q p => q + (l.testBit p.1).toNat * 2 ^ p.2) 0
  let way := if ways = 0 then 0 else if ways = 1 then sel 0 else if ways = 2 then sel 0 + 2 * sel 1
    else sel 0 + 2 * sel 1 + 4 * sel 2
  let stack := fieldOf e 13 3 + way
  let pch := 2 * (sel 4 + 2 * sel 5 + 4 * sel 6 + 8 * sel 7 + 16 * sel 8) + sel 3
  let bg := sel 9 + 2 * sel 10
  let bk := sel 11 + 2 * sel 12
  let line := fieldOf e 0 9 * 1024 + q
  ((((stack * 64 + pch) * 4 + bg) * 4 + bk) * 393216 + line) * 128 + pa % 128

/-- R368: the live entry of the region of an HBM address. -/
def State.regionOf (s : State) (pa : Nat) : Word :=
  s.board.regions[(⟨pa / 2 ^ 30 % 384, Nat.mod_lt _ (by decide)⟩ : Fin 384)]

/-- R355: the address is in HBM and its region entry is not valid. -/
def State.noRegion (s : State) (pa : Nat) : Bool := decide (pa < hbmSize) && !(s.regionOf pa).msb

/-- Where the byte of a physical address is stored: HBM by its storage byte, everything else by its address. -/
def State.locOf (s : State) (pa : Nat) : Nat :=
  if pa < hbmSize then
    let e := s.regionOf pa
    storageOf e s.board.hmask[(⟨fieldOf e.toNat 18 2 % 4, Nat.mod_lt _ (by decide)⟩ : Fin 4)] pa
  else pa

/-- R371: the region is affected by the switch. -/
def Board.affected (x : Board) (r : Fin 384) : Bool :=
  let set := fun w : Word => (⟨fieldOf w.toNat 18 2 % 4, Nat.mod_lt _ (by decide)⟩ : Fin 4)
  let i := set x.regions[r]
  let j := set x.shadow[r]
  x.regions[r] != x.shadow[r] || x.hmask[i] != x.hshadow[i] || x.hmask[j] != x.hshadow[j]

/-- R371: a physical address lies in an affected region. -/
def Board.affects (x : Board) (pa : Nat) : Bool :=
  decide (pa < hbmSize) && x.affected (⟨pa / 2 ^ 30 % 384, Nat.mod_lt _ (by decide)⟩ : Fin 384)

/-- R371: a switch with affected regions is in progress; requests to memory wait (log 80). -/
def State.switching (s : State) : Bool := s.board.busy && (List.finRange 384).any s.board.affected

/-! ### Keys, poison and bytes -/

/-- R376: the encryption under which an access by a page's key slot reads and writes: none outside HBM and for plain pages. -/
def State.tagFor (s : State) (pa : Nat) (key : Option (Fin 8)) : Option KeyTag :=
  match key with
  | some k => if pa < hbmSize then some ⟨(s.board.keys[k]).getD (Config.erasedKey k), pa / 128⟩ else none
  | none => none

/-- The encryption under which a stored line was written. -/
def State.storedTag (s : State) (loc : Nat) : Option KeyTag :=
  (s.tags.find? fun t => t.1 == loc / 128).map (·.2)

/-- The free value's form of a tag. -/
def KeyTag.pair (t : KeyTag) : BitVec 512 × Nat := (t.key, t.line)

/-- The 128 bytes of a stored line as written. -/
def State.lineAt (s : State) (loc : Nat) : List Byte := (List.range 128).map fun i => getCell s.mem (loc / 128 * 128 + i)

/-- R376: 16 bytes of a line, the `j`-th of it, as they are stored under an encryption. -/
def KeyTag.seal (t : Option KeyTag) (j : Nat) (bytes : List Byte) : List Byte :=
  match t with
  | some t => xtsEncrypt t.key (t.line / 2 * 256) (t.line % 2 * 8 + j) bytes
  | none => bytes

/-- R377: 16 stored bytes as an access under an encryption reads them. -/
def KeyTag.unseal (t : Option KeyTag) (j : Nat) (bytes : List Byte) : List Byte :=
  match t with
  | some t => xtsDecrypt t.key (t.line / 2 * 256) (t.line % 2 * 8 + j) bytes
  | none => bytes

/-- R377: byte `i` of a stored line, written under one encryption, as an access under another reads it. -/
def State.recrypted (s : State) (stored req : Option KeyTag) (loc i : Nat) : Byte :=
  let block := (List.range 16).map fun k => getCell s.mem (loc / 128 * 128 + i / 16 * 16 + k)
  (KeyTag.unseal req (i / 16) (KeyTag.seal stored (i / 16) block)).getD (i % 16) 0

/-- R374: the stored 1 KiB block of a physical address, by the storage byte of its first: the metadata stays with the storage (R372). -/
def State.blockLoc (s : State) (pa : Nat) : Nat := s.locOf (pa / 1024 * 1024)

/-- R374: the block is stored compressed. -/
def State.isPacked (s : State) (pa : Nat) : Bool := s.packed.any fun p => p.1 == s.blockLoc pa

/-- R377: the byte at a physical address, read under a key slot. What a compressed block decodes to under another key is a free
value. -/
def State.readPa (s : State) (key : Option (Fin 8)) (pa : Nat) : Byte :=
  let loc := s.locOf pa
  let stored := s.storedTag loc
  let req := s.tagFor pa key
  if stored = req then getCell s.mem loc
  else if s.isPacked pa then
    Config.recrypt (stored.map (·.pair)) (req.map (·.pair)) (s.lineAt loc) (loc % 128)
  else s.recrypted stored req loc (loc % 128)

/-- R424: the sector of a location is poisoned. -/
def State.poisonedLoc (s : State) (loc : Nat) : Bool := s.poison.any fun p => p.1 == loc / 32

/-- R424: a byte of a location is written. -/
def clearPoison (ps : List (Nat × Nat)) (loc : Nat) : List (Nat × Nat) :=
  ps.filterMap fun p =>
    if p.1 = loc / 32 then
      let m := p.2 ||| 2 ^ (loc % 32)
      if m = 2 ^ 32 - 1 then none else some (p.1, m)
    else some p

/-- R375, R424: marks the sector of a location, with an entry in the firmware's log. -/
def State.markPoison (s : State) (loc : Nat) : State :=
  { s with poison := (loc / 32, 0) :: s.poison.filter fun p => p.1 != loc / 32 }.logged (.poisoned (loc / 32 * 32))

/-- A line of a data unit is held under the request's encryption: what that encryption reads from it (R377) is what it holds from now on. -/
def State.rekeyLine (s : State) (key : Option (Fin 8)) (line : Nat) : State :=
  let loc := s.locOf (line * 128)
  let stored := s.storedTag loc
  let req := s.tagFor (line * 128) key
  if stored = req then s
  else
    let bs := (List.range 128).map fun i => s.readPa key (line * 128 + i)
    let rest := s.tags.filter fun t => t.1 != loc / 128
    { s with mem := setCells s.mem (loc / 128 * 128) bs
             tags := match req with | some t => (loc / 128, t) :: rest | none => rest }

/-- R376: the data unit of an address, 256 bytes, is merged under the request's key before a write. -/
def State.rekey (s : State) (key : Option (Fin 8)) (pa : Nat) : State :=
  if s.tags.isEmpty && (s.tagFor pa key).isNone then s
  else (s.rekeyLine key (pa / 256 * 2)).rekeyLine key (pa / 256 * 2 + 1)

/-- Writes a byte at a physical address under a key slot (R376, R424). -/
def State.writePa (s : State) (key : Option (Fin 8)) (pa : Nat) (b : Byte) : State :=
  let s := s.rekey key pa
  let loc := s.locOf pa
  { s with mem := setCell s.mem loc b, poison := clearPoison s.poison loc }

/-- R424: a byte at a physical address reads as poisoned. -/
def State.poisonedPa (s : State) (pa : Nat) : Bool := s.poisonedLoc (s.locOf pa)

/-- Little-endian number of `n` bytes at a physical address. -/
def State.readNat (s : State) (key : Option (Fin 8)) (pa n : Nat) : Nat :=
  leValue ((List.range n).map fun i => s.readPa key (pa + i))

/-- Writes bytes from a physical address on. -/
def State.writeBytes (s : State) (key : Option (Fin 8)) (pa : Nat) (bs : List Byte) : State :=
  bs.zipIdx.foldl (fun s p => s.writePa key (pa + p.2) p.1) s

/-! ### The memory-side caches (R373 to R375) -/

/-- R367: the stack, and so the memory-side die, that stores a line of HBM. -/
def State.dieOfLine (s : State) (line : Nat) : Nat := s.locOf (line * 128) / (64 * 16 * 393216 * 128)

/-- R374: the dirty lines of a 1 KiB block are written back. A whole block of a region with COMP may be stored compressed; otherwise,
and after a write-back of a part of one, it is stored raw. -/
def State.mscFlush (s : State) (block : Nat) : State :=
  let mine := fun m : MscLine => m.line / 8 == block
  match s.msc.find? fun m => mine m && m.dirty with
  | none => s
  | some d =>
    let whole := ((s.msc.filter fun m => mine m && m.key == d.key).map (·.line)).eraseDups.length == 8
    let bytes := (List.range 1024).map fun i => s.readPa d.key (block * 1024 + i)
    let len := Config.encodedLength bytes
    let loc := s.blockLoc (block * 1024)
    let rest := s.packed.filter fun p => p.1 != loc
    { s with
      msc := s.msc.map fun m => if mine m then { m with dirty := false } else m
      packed := if (s.regionOf (block * 1024)).getLsbD 21 && whole && decide (len ≤ 768) then (loc, (len + 255) / 256) :: rest else rest }

/-- R374: a line leaves its memory-side cache; if it is dirty its block is written back first. -/
def State.mscDrop (s : State) (line : Nat) : State :=
  let s := if s.msc.any fun m => m.line == line && m.dirty then s.mscFlush (line / 8) else s
  { s with msc := s.msc.filter fun m => m.line != line }

/-- R1: the lines of a memory-side cache of 32 MiB. -/
def mscLines : Nat := 262144

/-- R1: room for a line on its memory-side die: a line that a full cache holds leaves it (log 67). -/
def State.mscRoom (s : State) (line : Nat) : State :=
  if s.msc.length < mscLines then s
  else
    let held := (s.msc.map (·.line)).filter fun n => s.dieOfLine n == s.dieOfLine line
    if held.length < mscLines then s
    else { s.mscDrop (held.getD (Config.victim s.fresh % held.length) 0) with fresh := s.fresh + 1 }

/-- R373: the memory-side cache comes to hold a line under a key slot. -/
def State.mscFill (s : State) (key : Option (Fin 8)) (line : Nat) : State :=
  if s.msc.any fun m => m.line == line && m.key == key then s
  else let s := (s.mscDrop line).mscRoom line; { s with msc := s.msc ++ [⟨line, key, false⟩] }

/-- R373: the memory-side cache meets an access to a line; a miss under COMP fills the block. -/
def State.mscTouch (s : State) (key : Option (Fin 8)) (pa : Nat) (comp write : Bool) : State :=
  if hbmSize ≤ pa then s
  else
    let line := pa / 128
    let fill := if comp && !(s.msc.any fun m => m.line == line) then (List.range 8).map fun i => line / 8 * 8 + i else [line]
    let s := fill.foldl (State.mscFill · key) s
    if write then { s with msc := s.msc.map fun m => if m.line = line then { m with dirty := true } else m } else s

/-- The 1,024 bytes of a block as they are stored. -/
def State.blockBytes (s : State) (pa : Nat) : List Byte :=
  (List.range 1024).map fun i => getCell s.mem (s.locOf (pa / 1024 * 1024 + i))

/-- R375, R377: a compressed block decoded under another key than its own, its decoded length not what its header declares: the block is
poisoned and logged. -/
def State.unpack (s : State) (key : Option (Fin 8)) (pa : Nat) : State :=
  let block := pa / 1024 * 1024
  let stored := s.storedTag (s.locOf block)
  let req := s.tagFor block key
  if s.isPacked pa && stored != req && !Config.lengthMatches (stored.map (·.pair)) (req.map (·.pair)) (s.blockBytes pa) then
    (List.range 32).foldl (fun s i => s.markPoison (s.locOf (block + 32 * i))) (s.logged (.lengthMismatch block))
  else s

/-- R1: the chiplet of a core. -/
def chipOf (c : CoreId) : Fin 8 := ⟨c.val / 48, by omega⟩

/-- The number of a chiplet among the 17 dies (log 3). -/
def dieOf (d : Fin 8) : Fin 17 := ⟨d.val, by omega⟩

/-! ### Exact cells (R247 to R249) -/

/-- A cell that holds +0. -/
def ExactCell.zero : ExactCell := ⟨0, false, false, false⟩

/-- The cell at a physical address. -/
def State.cell (s : State) (pa : Nat) : ExactCell := ((s.cells.find? fun c => c.1 == pa).map (·.2)).getD .zero

/-- Sets a cell. -/
def State.setCellAt (s : State) (pa : Nat) (x : ExactCell) : State :=
  let rest := s.cells.filter fun c => c.1 != pa
  { s with cells := if x = .zero then rest else (pa, x) :: rest }

/-- x * 2^149 of a finite F32 value, an integer. -/
def cellUnits : Val → Int
  | .fin neg m e => let n : Int := ((shiftFloor m (e / 256 + 149)).1 : Nat); if neg then -n else n
  | _ => 0

/-- A 320-bit signed sum. -/
def wrap320 (x : Int) : Int :=
  let y := x % (2 ^ 320 : Nat)
  if y < (2 ^ 319 : Nat) then y else y - (2 ^ 320 : Nat)

/-- R248: an addend is applied. -/
def ExactCell.add (c : ExactCell) (v : Val) : ExactCell :=
  match v with
  | .nan => { c with nan := true }
  | .inf neg => if neg then { c with ninf := true } else { c with pinf := true }
  | v => { c with a := wrap320 (c.a + cellUnits v) }

/-- R249: what a read returns. -/
def ExactCell.read (c : ExactCell) : Word :=
  if c.nan ∨ (c.pinf ∧ c.ninf) then 0x7FC00000#32
  else if c.pinf then 0x7F800000#32
  else if c.ninf then 0xFF800000#32
  else if c.a = 0 then 0
  else BitVec.ofNat 32 (FloatFmt.f32.encodeMag (decide (c.a < 0)) (Mag.term c.a.natAbs (-149 * 256)) .rne 0).code

/-- R249: a write sets the cell to the written value. -/
def ExactCell.ofWord (x : Word) : ExactCell := ExactCell.zero.add (FloatFmt.f32.decode x.toNat)

end Sys2Proof.Machine
end

