-- ==== Sys2Proof/Machine/Caches.lean ====
section
/-! DEFINITION. The L2s, the hub cache and the Board's directory over them (R1, R199, R207, R208, R241, R242, R416, R422). The lines are kept
by number; what they hold is what memory holds (log 7). -/

namespace Sys2Proof.Machine

/-- Where an access enters the caches below the L1s: at a chiplet's L2, at the lowest retention or not (R199); at the hub cache; or at the
memory-side die, where no cache above holds the line (R242). -/
inductive Port where
  | chip (d : Fin 8) (low : Bool)
  | board
  | home
  deriving DecidableEq, Repr

/-- R207, R352: L2s and the hub cache hold lines of HBM and of the host's memory. -/
def cacheable (pa : Nat) : Bool := decide (pa < hbmSize) || decide (hostBase ≤ pa)

/-- R422: the tenant of a line: of HBM the owner of its region, of the host's memory the owner of the chiplet that asks. -/
def State.lineTenant (s : State) (p : Port) (pa : Nat) : Option (Fin 8) :=
  if pa < hbmSize then s.board.owner[(⟨pa / 2 ^ 30 % 384, Nat.mod_lt _ (by decide)⟩ : Fin 384)]
  else match p with
    | .chip d _ => (List.finRange 8).find? fun n : Fin 8 => (s.board.tenants[n]).getLsbD 63 && (s.board.tenants[n]).getLsbD (55 + d.val)
    | _ => none

/-- R422: the ways in which a line may be allocated; every one for a line of no tenant. -/
def State.waysFor (s : State) (p : Port) (pa : Nat) : Word :=
  match s.lineTenant p pa with
  | some n => (s.board.tenants[n]).extractLsb' 15 32
  | none => 0xFFFFFFFF

/-! ### The hub cache -/

/-- R422: the lines of a way of 16 MiB. -/
def wayLines : Nat := 131072

/-- A line leaves the hub cache; a dirty one of HBM goes to its memory-side cache. -/
def State.hubDrop (s : State) (line : Nat) : State :=
  match s.hub.find? fun h => h.line == line with
  | none => s
  | some h =>
    let s := { s with hub := s.hub.filter fun h => h.line != line }
    if h.dirty then s.mscTouch h.key (line * 128) false true else s

/-- R422: a way for a new line among those allowed: one with room, or that of a line of those ways, which is evicted (log 67). -/
def State.hubRoom (s : State) (ways : Word) : State × Option (Fin 32) :=
  match (List.finRange 32).find? fun w : Fin 32 => ways.getLsbD w.val && decide ((s.hub.filter fun h => h.way == w).length < wayLines) with
  | some w => (s, some w)
  | none =>
    let mine := s.hub.filter fun h => ways.getLsbD h.way.val
    match mine[Config.victim s.fresh % mine.length]? with
    | some h => ({ s.hubDrop h.line with fresh := s.fresh + 1 }, some h.way)
    | none => (s, none)

/-- The hub cache holds a line under a key slot. -/
def State.hubHolds (s : State) (key : Option (Fin 8)) (line : Nat) : Bool := s.hub.any fun h => h.line == line && h.key == key

/-- R373, R375: the hub cache meets an access to a line: a line that it does not hold is fetched. -/
def State.hubTouch (s : State) (p : Port) (key : Option (Fin 8)) (pa : Nat) (comp write : Bool) : State :=
  let line := pa / 128
  if s.hubHolds key line then
    if write then { s with hub := s.hub.map fun h => if h.line == line then { h with dirty := true } else h } else s
  else
    let s := s.hubDrop line
    let s := if pa < hbmSize then (s.unpack key pa).mscTouch key pa comp false else s
    match s.hubRoom (s.waysFor p pa) with
    | (s, some w) => { s with hub := s.hub ++ [⟨line, key, write, w⟩] }
    | (s, none) => if write then s.mscTouch key pa false true else s

/-! ### The L2s and the directory -/

/-- R1: the lines of an L2 of 64 MiB. -/
def l2Lines : Nat := 524288

/-- Changes the lines of an L2. -/
def State.modL2 (s : State) (d : Fin 8) (f : List L2Line → List L2Line) : State := { s with l2 := s.l2.set d (f s.l2[d]) }

/-- A chiplet's L2 holds a line under a key slot. -/
def State.l2Holds (s : State) (d : Fin 8) (key : Option (Fin 8)) (line : Nat) : Bool := (s.l2[d]).any fun x => x.line == line && x.key == key

/-- R209: a dirty line of an L2 goes to the hub cache and stays. -/
def State.l2Clean (s : State) (d : Fin 8) (line : Nat) : State :=
  match (s.l2[d]).find? fun x => x.line == line && x.dirty with
  | none => s
  | some x => (s.modL2 d fun ls => ls.map fun y => if y.line == line then { y with dirty := false } else y).hubTouch (.chip d false) x.key (line * 128) false true

/-- A line leaves an L2. -/
def State.l2Drop (s : State) (d : Fin 8) (line : Nat) : State :=
  (s.l2Clean d line).modL2 d fun ls => ls.filter fun x => x.line != line

/-- R199: room in an L2: a line at the lowest retention leaves it first (log 67). -/
def State.l2Room (s : State) (d : Fin 8) : State :=
  let ls := s.l2[d]
  if ls.length < l2Lines then s
  else
    let low := ls.filter (·.low)
    let from_ := if low.isEmpty then ls else low
    match from_[Config.victim s.fresh % from_.length]? with
    | some x => { s.l2Drop d x.line with fresh := s.fresh + 1 }
    | none => s

/-- R208, R241: the directory: a write leaves no other L2 with the line; a read leaves no other L2 with it dirty or alone. -/
def State.direct (s : State) (keep : Option (Fin 8)) (line : Nat) (write : Bool) : State :=
  (List.finRange 8).foldl (fun s d =>
    if keep = some d ∨ !((s.l2[d]).any fun x => x.line == line) then s
    else if write then s.l2Drop d line
    else (s.l2Clean d line).modL2 d fun ls => ls.map fun x => if x.line == line then { x with sole := false } else x) s

/-- An L2 meets an access to a line. -/
def State.l2Touch (s : State) (d : Fin 8) (low : Bool) (key : Option (Fin 8)) (pa : Nat) (comp write : Bool) : State :=
  let line := pa / 128
  let s := s.direct (some d) line write
  let alone := !((List.finRange 8).any fun e => e != d && (s.l2[e]).any fun x => x.line == line)
  if s.l2Holds d key line then
    s.modL2 d fun ls => ls.map fun x => if x.line == line then { x with dirty := x.dirty || write, sole := alone } else x
  else
    ((((s.l2Drop d line).l2Room d).hubTouch (.chip d low) key pa comp false)).modL2 d fun ls => ls ++ [⟨line, key, write, low, alone⟩]

/-- What an access to a line does in the caches below the L1s, for a record with COMP or without (R373). -/
def State.touch (s : State) (p : Port) (key : Option (Fin 8)) (pa : Nat) (comp write : Bool) : State :=
  if !cacheable pa then s
  else match p with
    | .chip d low => s.l2Touch d low key pa comp write
    | .board => (s.direct none (pa / 128) write).hubTouch .board key pa comp write
    | .home =>
      let s := (s.direct none (pa / 128) true).hubDrop (pa / 128)
      if pa < hbmSize then (s.unpack key pa).mscTouch key pa comp write else s

/-- What an access to some bytes does there, for agents without a record. -/
def State.touchBytes (s : State) (p : Port) (key : Option (Fin 8)) (pas : List Nat) (write : Bool) : State :=
  ((pas.map fun pa => pa / 128).eraseDups).foldl (fun s l => s.touch p key (l * 128) false write) s

end Sys2Proof.Machine
end

