-- ==== Sys2Proof/Machine/History.lean ====
section
/-! DEFINITION. Coherence orders, what a read may take, and who matches whom (R211 to R222, log 7). A write takes its place among the
writes of its block; a read of a byte takes one of the writes that nothing before it rules out, and which one is a free value. -/

namespace Sys2Proof.Machine

/-! ### Numbers of writes and reads, and clock vectors -/

/-- The join of two clock vectors. -/
def joinClocks (a b : Vector Nat 17) : Vector Nat 17 := Vector.ofFn fun i : Fin 17 => max a[i] b[i]

/-- The write of a number. -/
def State.info (s : State) (id : Nat) : Option WriteInfo := s.writes.find? fun w => w.id == id

/-- The writes that some reads took. -/
def State.tookBy (s : State) (reads : List Nat) : List Nat := (s.reads.filter fun r => reads.contains r.1).flatMap (·.2)

/-- R220: the writes that a read after a view may not take one before of: those that happen before, and those that reads before took. -/
def State.known (s : State) (v : View) : List Nat := v.writes ++ s.tookBy v.reads

/-! ### Scopes (R211 to R213) -/

/-- R213: a peer package has a valid entry with at most `n` hops. -/
def State.peerWithin (s : State) (package n : Nat) : Bool :=
  let e := s.board.scope[(⟨package % 4096, Nat.mod_lt _ (by decide)⟩ : Fin 4096)]
  package % 4096 != s.board.pkg && hasBit e 7 && e &&& 7#32 != 0 && decide ((e &&& 7#32).toNat ≤ n)

/-- R211, R213: a scope as the table stands. -/
def State.reach (s : State) (scope : Nat) : Reach :=
  ⟨scope, if 6 ≤ scope ∧ scope ≤ 12 then (List.range 4096).filter fun p => s.peerWithin p (scope - 5) else []⟩

/-- R211: an agent lies in the instance of a scope of another. -/
def Reach.covers (r : Reach) : Party → Party → Bool
  | .thread c l u t g n, .thread c' l' u' t' g' n' =>
    match r.scope with
    | 0 => c == c' && t == t' && g == g' && n == n'
    | 1 => t == t' && g == g'
    | 2 => t == t'
    | 3 => l == l' && u == u'
    | 4 => chipOf c == chipOf c'
    | _ => true
  | _, .host _ => r.scope == 13
  | _, .peer p _ => r.scope == 13 || r.peers.contains p
  | .host _, _ => r.scope == 13
  | .peer p _, _ => r.scope == 13 || decide (6 ≤ r.scope) && Config.peerPlaces p (r.scope - 5)
  | _, _ => decide (5 ≤ r.scope)

/-- R212: a release and an acquire, or two SC fences, are matched. -/
def matched (a : Party) (ra : Reach) (b : Party) (rb : Reach) : Bool := ra.covers a b && rb.covers b a

/-- The thread in a lane of a slot. -/
def State.partyOf (s : State) (c : CoreId) (k : Slot) (l : Lane) : Party :=
  match s.group? c k with
  | some g => .thread c g.launch (((s.team? g.team).map (·.cluster)).getD 0) g.team g.gid l
  | none => .device

/-! ### Places -/

/-- R214: the block of a byte and the byte's address in it. -/
def Target.spot : Target → Place × Nat
  | .phys pa key => (.phys (pa / 8) key, pa)
  | .own _ _ pa key => (.phys (pa / 8) key, pa)
  | .scratch c off => (.scratch c (off / 8), off)

/-- The byte that the last write of its coherence order has left. -/
def State.byteNow (s : State) (p : Place) (a : Nat) : Byte :=
  match p with
  | .phys _ key => s.readPa key a
  | .scratch c _ => getCell (s.cores[c]).scratch a

/-- The last write of a byte's coherence order reaches memory; a scratch word written to is in error no longer (R424). -/
def State.setByte (s : State) (p : Place) (a : Nat) (b : Byte) : State :=
  match p with
  | .phys _ key => s.writePa key a b
  | .scratch c _ =>
    let s := if s.ecc.isEmpty then s else { s with ecc := s.ecc.filter fun e => e != .scratch c (a / 4) }
    s.modCore c fun x => { x with scratch := setCell x.scratch a b }

/-- The writes of a block in coherence order. -/
def State.versions (s : State) (p : Place) : List Version := s.hist.filter fun v => v.place == p

/-- The write stands in the coherence order of a byte. -/
def Version.covers (v : Version) (a : Nat) : Bool := v.bytes.any fun x => x.1 == a

/-! ### What a read may take (R214, R220, R222) -/

/-- The number of writes of the block up to the last one to a byte that is known. -/
def floorOf (vs : List Version) (known : List Nat) (a : Nat) : Nat :=
  vs.zipIdx.foldl (fun n v => if v.1.bytes.any fun x => x.1 == a && known.contains x.2.2 then v.2 + 1 else n) 0

/-- R220: the number of writes of the block before the first one to a byte that an open read happens before. -/
def State.ceilOf (s : State) (vs : List Version) (read : Option Nat) (a : Nat) : Nat :=
  match read with
  | none => vs.length
  | some r => (vs.findIdx? fun v => v.bytes.any fun x => x.1 == a && match s.info x.2.2 with
      | some w => w.view.reads.contains r
      | none => false).getD vs.length

/-- The byte as it was after the first `n` writes of the block; `now` is what it is after all of them. -/
def oldAt (vs : List Version) (n a : Nat) (now : Byte) : Byte :=
  ((vs.drop n).findSome? fun v => (v.bytes.find? fun x => x.1 == a).map (·.2.1)).getD now

/-- The last of the first `n` writes of the block to a byte: its position and its number. -/
def sourceAt (vs : List Version) (n a : Nat) : Option (Nat × Nat) :=
  (vs.take n).zipIdx.foldl (fun r v => match v.1.bytes.find? fun x => x.1 == a with
    | some x => some (v.2, x.2.2)
    | none => r) none

/-- A free choice of a position from `lo` to `hi`. -/
def pickFrom (n a lo hi : Nat) : Nat := if hi ≤ lo then lo else lo + Config.readsFrom n a % (hi - lo + 1)

/-- R214: of the writes that bytes are taken from at these positions, two that differ cover every one of the bytes. What stood there at
first covers all. -/
def torn (vs : List Version) (at_ : List (Nat × Nat)) : Bool :=
  let from_ := at_.map fun x => (sourceAt vs x.2 x.1).map (·.1)
  let whole := fun (i : Option Nat) => match i.bind fun i => vs[i]? with
    | some v => at_.all fun x => v.covers x.1
    | none => true
  from_.any fun i => from_.any fun j => i != j && whole i && whole j

/-- R214, R220: the bytes that a read of some bytes of a block takes, each with the number of its write: `known` are the writes that it
may not take one before of, `open_` the read where it has been made before (R222). -/
def State.takeBlock (s : State) (known : List Nat) (open_ : Option Nat) (p : Place) (as : List Nat) : List (Byte × Option Nat) :=
  let vs := s.versions p
  let at_ := as.map fun a => (a, pickFrom s.fresh a (floorOf vs known a) (s.ceilOf vs open_ a))
  let one := (at_.map (·.2)).foldl max 0
  let at_ := if torn vs at_ then as.map fun a => (a, min (max one (floorOf vs known a)) (s.ceilOf vs open_ a)) else at_
  at_.map fun x => (oldAt vs x.2 x.1 (s.byteNow p x.1), (sourceAt vs x.2 x.1).map (·.2))

/-- The same of bytes of several blocks. -/
def State.take (s : State) (known : List Nat) (open_ : Option Nat) (ts : List Target) : List (Byte × Option Nat) :=
  let spots := ts.map Target.spot
  let table := ((spots.map (·.1)).eraseDups).flatMap fun p =>
    let as := ((spots.filter fun x => x.1 == p).map (·.2)).eraseDups
    (as.map fun a => (p, a)).zip (s.takeBlock known open_ p as)
  spots.map fun x => ((table.find? fun y => y.1 == x).map (·.2)).getD (0, none)

/-- R223: writes to some bytes that have become visible to every acquire load and atomic whose instance holds their writers. -/
def State.spreadTo (s : State) (me : Party) (r : Reach) (ts : List Target) : List Nat :=
  if s.hist.isEmpty then []
  else
    let ps := (ts.map fun t => t.spot.1).eraseDups
    ((s.hist.filter fun v => v.spread && ps.contains v.place).flatMap fun v => v.bytes.map (·.2.2)).filter fun id =>
      match s.info id with
      | some w => r.covers me w.party
      | none => false

/-! ### Where a write stands (R215, R220) -/

/-- What a byte's next write replaces from now on. -/
def patchOld (a : Nat) (b : Byte) : List Version → List Version
  | [] => []
  | v :: rest =>
    if v.covers a then { v with bytes := v.bytes.map fun x => if x.1 = a then (x.1, b, x.2.2) else x } :: rest else v :: patchOld a b rest

/-- R215: where a write of some bytes of a block may stand: after what is known, and before no atomic's write whose read it would part from. -/
def places (vs : List Version) (known : List Nat) (as : List Nat) : List Nat :=
  let lo := (as.map (floorOf vs known)).foldl max 0
  (List.range (vs.length + 1)).filter fun q => decide (lo ≤ q) && match vs[q]? with
    | some v => !(v.rmw && as.any v.covers)
    | none => true

/-- One of some positions, freely chosen where there are several. -/
def standAt (n a : Nat) (qs : List Nat) (last : Nat) : Nat :=
  match qs with
  | [q] => q
  | qs => qs.getD (Config.standsAt n a % qs.length) last

/-- R214, R215, R224: a write of bytes of a block takes its place in their coherence orders, at a given position or a freely chosen one. -/
def State.stand (s : State) (die : Option (Fin 17)) (rmw : Bool) (at_ : Option Nat) (known : List Nat) (p : Place)
    (bs : List (Nat × Byte × Nat)) : State :=
  let vs := s.versions p
  let as := bs.map (·.1)
  let q := at_.getD (standAt s.fresh (as.headD 0) (places vs known as) vs.length)
  let v : Version := { place := p, bytes := bs.map fun b => (b.1, oldAt vs q b.1 (s.byteNow p b.1), b.2.2), rmw := rmw, die := die
                       epoch := match die with | some e => (s.board.clocks[e])[e] | none => 0
                       clock := match die with | some e => s.board.clocks[e] | none => Vector.replicate 17 0
                       spread := false }
  let after := vs.drop q
  let s := bs.foldl (fun s b => if after.any fun w => w.covers b.1 then s else s.setByte p b.1 b.2.1) s
  { s with hist := (s.hist.filter fun w => w.place != p) ++ vs.take q ++ [v] ++ bs.foldl (fun ws b => patchOld b.1 b.2.1 ws) after
           fresh := s.fresh + 1 }

/-- R214: the bytes of a write, as writes to the aligned 8-byte blocks that it touches. -/
def State.standAll (s : State) (die : Option (Fin 17)) (rmw : Bool) (known : List Nat) (bs : List ((Place × Nat) × Byte × Nat)) : State :=
  ((bs.map fun b => b.1.1).eraseDups).foldl (fun s p =>
    s.stand die rmw none known p ((bs.filter fun b => b.1.1 == p).map fun b => (b.1.2, b.2.1, b.2.2))) s

/-- A new write: its number is that of the next thing. -/
def State.newWrite (s : State) (w : Party) (heads : List Head) (v : View) : State :=
  { s with writes := s.writes ++ [⟨s.nextId, w, heads, v⟩], nextId := s.nextId + 1 }

/-- A new read, which took these writes. Reads before it of the same bytes that were still open have taken effect (R220). -/
def State.newRead (s : State) (v : View) (ts : List Target) (took : List Nat) : State :=
  let spots := ts.map Target.spot
  { s with
    reads := s.reads ++ [(s.nextId, took.eraseDups)]
    rereads := if s.rereads.isEmpty then [] else s.rereads.filter fun r => !(v.reads.contains r.read && r.targets.any fun t => spots.contains t.spot)
    nextId := s.nextId + 1, fresh := s.fresh + 1 }

/-! ### What an agent's accesses carry (R217 to R221) -/

/-- An agent has read. -/
def Order.read (o : Order) (r : Nat) : Order :=
  let v : View := ⟨o.view.writes, addId o.view.reads r⟩
  { o with view := v, mine := addId o.mine r, loads := v }

/-- An agent's next write comes: its fences for stores alone have their effect (R217). -/
def Order.atWrite (o : Order) : Order := { o with view := o.view.join o.later }

/-- An agent has written. -/
def Order.wrote (o : Order) (w : Nat) : Order := { o with view := ⟨addId o.view.writes w, o.view.reads⟩ }

/-- What rules a next access out: R220, R221. -/
def Order.past (o : Order) : View := ⟨addIds o.view.writes o.sc, o.view.reads⟩

/-- R218: what an agent that acquires learns of the writes that it has read: the accesses that their matched releases cover. -/
def State.heard (s : State) (me : Party) (r : Reach) (took : List Nat) : View :=
  View.joins ((took.filterMap s.info).flatMap fun w => (w.heads.filter fun h => matched h.party h.reach me r).map (·.view))

/-- R224: the clock vector that the writes read have carried. -/
def State.carriedBy (s : State) (took : List Nat) : Vector Nat 17 :=
  (s.hist.filter fun v => v.bytes.any fun x => took.contains x.2.2).foldl (fun c v => joinClocks c v.clock)
    (Vector.replicate 17 0)

/-- R224: the writes whose tags are not later than a vector. -/
def State.upTo (s : State) (clock : Vector Nat 17) : List Nat :=
  (s.hist.filter fun v => match v.die with | some e => decide (v.epoch < clock[e]) | none => false).flatMap fun v => v.bytes.map (·.2.2)

/-- R224: an acquire at `pkg` or wider on a die completes once the die has applied the writes that the vector of the write read names. -/
def State.apply (s : State) (die : Option (Fin 17)) (r : Reach) (took : List Nat) : State × View :=
  match die with
  | none => (s, .none)
  | some e =>
    if r.scope < 5 then (s, .none)
    else
      let c := s.carriedBy took
      ({ s with board := { s.board with clocks := s.board.clocks.set e (joinClocks s.board.clocks[e] c) } }, ⟨s.upTo c, []⟩)

/-- R224: a release at `pkg` advances the die's own counter. -/
def State.clockRelease (s : State) (die : Option (Fin 17)) (scope : Nat) : State :=
  match die with
  | some e => if scope = 5 then
      { s with board := { s.board with clocks := s.board.clocks.set e ((s.board.clocks[e]).set e ((s.board.clocks[e])[e] + 1)) } }
    else s
  | none => s

end Sys2Proof.Machine
end

