-- ==== Sys2Proof/Machine/L1.lean ====
section
/-! DEFINITION. The L1s (R196, R199, R207, R208, R214, R223), and what loads and stores do through them. -/

namespace Sys2Proof.Machine

/-- R208: the core has an L1. -/
def Core.hasL1 (x : Core) : Bool := decide (x.part < 327680)

/-- The L1's copy of a byte. -/
def Core.l1Get (x : Core) (pa : Nat) : Option L1Byte := x.l1.find? fun b => b.pa == pa

/-- The L1 holds bytes of a line. -/
def Core.holdsLine (x : Core) (line : Nat) : Bool := x.l1.any fun b => b.pa / 128 == line

/-- Puts a byte into the L1, in the order of addresses. -/
def l1Put : List L1Byte → L1Byte → List L1Byte
  | [], n => [n]
  | b :: rest, n => if n.pa < b.pa then n :: b :: rest else if n.pa = b.pa then n :: rest else b :: l1Put rest n

/-- The die of a core. -/
def coreDie (c : CoreId) : Option (Fin 17) := some (dieOf (chipOf c))

/-- The port by which a core reaches memory. -/
def corePort (c : CoreId) (low : Bool := false) : Port := .chip (chipOf c) low

/-- What the writers of some bytes knew. -/
def State.knownTo (s : State) (ids : List Nat) : List Nat := (ids.filterMap s.info).flatMap fun w => s.known w.view

/-- R214, R223, R373: the dirty bytes that satisfy a test leave the L1, block by block, and stay in it as clean copies. -/
def State.writeBackIf (s : State) (c : CoreId) (f : L1Byte → Bool) : State :=
  let dirty := (s.cores[c]).l1.filter fun b => b.dirty && f b
  let s := (dirty.map fun b => (b.key, b.pa / 128)).eraseDups.foldl (fun s l =>
    s.touch (corePort c) l.1 (l.2 * 128) (dirty.any fun b => b.comp && b.pa / 128 == l.2) true) s
  let s := s.standAll (coreDie c) false (s.knownTo (dirty.filterMap (·.src)).eraseDups)
    (dirty.map fun b => ((.phys (b.pa / 8) b.key, b.pa), b.value, b.src.getD 0))
  s.modCore c fun x => { x with l1 := x.l1.map fun b => if f b then { b with dirty := false } else b }

/-- R223: writes back the dirty bytes at the addresses that satisfy a test. -/
def State.writeBack (s : State) (c : CoreId) (f : Nat → Bool) : State := s.writeBackIf c fun b => f b.pa

/-- Copies leave the L1 as they are. -/
def Core.dropCopies (x : Core) (f : L1Byte → Bool) : Core :=
  let l1 := x.l1.filter fun b => !f b
  { x with l1 := l1, low := x.low.filter fun n => l1.any fun b => b.pa / 128 == n }

/-- R209, R223: writes dirty bytes back and drops the copies that satisfy a test. -/
def State.dropL1 (s : State) (c : CoreId) (f : Nat → Bool) : State :=
  (s.writeBack c f).modCore c fun x => x.dropCopies fun b => f b.pa

/-- R208: the lines that the L1 may hold: 320 KiB less the scratch partition. -/
def Core.l1Lines (x : Core) : Nat := (327680 - x.part) / 128

/-- The lines of which the L1 holds bytes, ascending. -/
def Core.linesHeld (x : Core) : List Nat :=
  (x.l1.foldr (fun b ls => match ls with
    | l :: _ => if b.pa / 128 = l then ls else b.pa / 128 :: ls
    | [] => [b.pa / 128]) [])

/-- R199, R208, R223: room for a line in the L1, at the lowest retention or not: a line that a full L1 holds is evicted, one at the lowest
retention first (log 67). -/
def State.l1Room (s : State) (c : CoreId) (low : Bool) (line : Nat) : State :=
  let x := s.cores[c]
  if x.holdsLine line then s
  else
    let s := if x.linesHeld.length < x.l1Lines then s
      else
        let from_ := if x.low.isEmpty then x.linesHeld else x.low
        let out := from_.getD (Config.victim s.fresh % from_.length) 0
        { s.dropL1 c fun pa => pa / 128 == out with fresh := s.fresh + 1 }
    if low then s.modCore c fun x => { x with low := line :: x.low } else s

/-- R377: bytes of a line that the L1 holds under another key slot leave it. -/
def State.oneKey (s : State) (c : CoreId) (key : Option (Fin 8)) (line : Nat) : State :=
  if (s.cores[c]).l1.any fun b => b.pa / 128 == line && b.key != key then s.dropL1 c fun pa => pa / 128 == line else s

/-- R223: the line is filled beside the bytes already valid; bytes of poisoned sectors get no copy. -/
def State.fillL1 (s : State) (c : CoreId) (low : Bool) (key : Option (Fin 8)) (pa : Nat) : State :=
  let base := pa / 128 * 128
  let s := (s.oneKey c key (pa / 128)).l1Room c low (pa / 128)
  let new := (List.range 128).filterMap fun i =>
    let vs := s.versions (.phys ((base + i) / 8) key)
    if ((s.cores[c]).l1Get (base + i)).isSome || s.poisonedPa (base + i) then none
    else some ({ pa := base + i, key := key, value := s.readPa key (base + i), dirty := false, since := 0
                 src := (sourceAt vs vs.length (base + i)).map (·.2), own := none, comp := false } : L1Byte)
  s.modCore c fun x => { x with l1 := new.foldl l1Put x.l1 }

/-- R223: the cycle in which the line of an address became dirty, or the present one. -/
def Core.dirtySince (x : Core) (pa : Nat) : Nat := ((x.l1.find? fun b => b.pa / 128 == pa / 128 && b.dirty).map (·.since)).getD x.cycles

/-- R199, R208, R214: the write of a number stores some bytes for a core: into its L1 where `alloc` holds of the line, past the L1s else,
with what the L1 held of the blocks written back and dropped. Bytes of a poisoned sector are written through (R424). -/
def State.storeBytes (s : State) (c : CoreId) (alloc : Nat → Bool) (low comp : Bool) (id : Nat) (known : List Nat)
    (bs : List (Option (Fin 8) × Nat × Byte)) (own : Option (Nat × Nat) := none) : State :=
  let inL1 := fun b : Option (Fin 8) × Nat × Byte => alloc (b.2.1 / 128) && (s.cores[c]).hasL1 && !s.poisonedPa b.2.1
  let past := bs.filter fun b => !inL1 b
  let s1 := (bs.zipIdx.filter fun b => inL1 b.1).foldl (fun s b =>
      ((s.oneKey c b.1.1 (b.1.2.1 / 128)).l1Room c low (b.1.2.1 / 128)).modCore c fun x =>
        { x with l1 := l1Put x.l1 { pa := b.1.2.1, key := b.1.1, value := b.1.2.2, dirty := true, since := x.dirtySince b.1.2.1, src := some id
                                    own := own.map fun o => (o.1, o.2 + b.2), comp := comp } }) s
  if past.isEmpty then s1
  else
    let blocks := (past.map fun b => b.2.1 / 8).eraseDups
    let s1 := s1.dropL1 c fun pa => blocks.contains (pa / 8)
    let s1 := ((past.map fun b => (b.1, b.2.1 / 128)).eraseDups).foldl (fun s l => s.touch (corePort c low) l.1 (l.2 * 128) comp true) s1
    s1.standAll (coreDie c) false known (past.map fun b => ((.phys (b.2.1 / 8) b.1, b.2.1), b.2.2, id))

/-- R220, R222, R223: a copy may serve a read: it is no older than what the read knows, and the read does not happen before it. -/
def State.copyServes (s : State) (known : List Nat) (open_ : Option Nat) (b : L1Byte) : Bool :=
  let vs := s.versions (.phys (b.pa / 8) b.key)
  let lo := floorOf vs known b.pa
  match b.src with
  | none => lo == 0
  | some id => match vs.findIdx? fun v => v.bytes.any fun x => x.1 == b.pa && x.2.2 == id with
    | some i => decide (lo ≤ i + 1) && decide (i + 1 ≤ s.ceilOf vs open_ b.pa)
    | none => match open_, s.info id with
      | some r, some w => !w.view.reads.contains r
      | _, _ => true

/-- R223: the copy of a target's byte that the core's L1 gives a load. -/
def State.copyOf (s : State) (c : CoreId) (known : List Nat) (open_ : Option Nat) (t : Target) : Option (Byte × Option Nat) :=
  match t with
  | .phys pa key | .own _ _ pa key => ((s.cores[c]).l1Get pa).bind fun b =>
    if b.key = key && s.copyServes known open_ b then some (b.value, b.src) else none
  | .scratch _ _ => none

/-- R196: a private byte that its thread has not written since its dispatch. -/
def State.unwritten (s : State) : Target → Bool
  | .own k off _ _ => match s.team? k with
    | some t => !t.wrote.contains off
    | none => true
  | _ => false

/-- R196, R220, R223: the bytes that a load of a core takes, each with the number of its write; `cached`: the L1 may serve it. -/
def State.takeAs (s : State) (c : CoreId) (cached : Bool) (known : List Nat) (open_ : Option Nat) (ts : List Target) : List (Byte × Option Nat) :=
  let held := fun t : Target => if s.unwritten t then some ((0 : Byte), (none : Option Nat)) else if cached then s.copyOf c known open_ t else none
  let miss := ts.filter fun t => (held t).isNone
  let got := miss.zip (s.take known open_ miss)
  ts.map fun t => (held t).getD (((got.find? fun x => x.1 == t).map (·.2)).getD (0, none))

/-- R223: the L1 holds a line that has been dirty for so long that 65,536 cycles would have passed `margin` cycles from now. -/
def State.overdue (s : State) (c : CoreId) (margin : Nat) : Bool :=
  (s.cores[c]).l1.any fun b => b.dirty && decide (b.since + 65536 ≤ (s.cores[c]).cycles + margin)

/-- R371: a line of a region that a switch in progress affects: requests for it wait at the Board. -/
def State.lineHeld (s : State) (line : Nat) : Bool := s.board.busy && s.board.affects (line * 128)

/-- R223, R371: those lines are written back, but for such as wait at the Board. -/
def State.expireL1 (s : State) (c : CoreId) (margin : Nat) : State :=
  let x := s.cores[c]
  if s.overdue c margin then s.writeBackIf c fun b => decide (x.dirtySince b.pa + 65536 ≤ x.cycles + margin) && !s.lineHeld (b.pa / 128) else s

end Sys2Proof.Machine
end

