-- ==== Sys2Proof/Machine/Order.lean ====
section
/-! DEFINITION. The accesses of threads, engines and agents outside, and release, acquire and fences (R205, R211 to R228; log 7). -/

namespace Sys2Proof.Machine

/-! ### Threads -/

/-- Changes what orders the accesses of some threads of a group. -/
def State.modOrds (s : State) (c : CoreId) (k : Slot) (lanes : Word) (f : Lane → Order → Order) : State :=
  s.modGroup c k fun g => g.mapThreads fun l t => if hasBit lanes l then { t with ord := f l t.ord } else t

/-- What orders a thread's accesses. -/
def State.ordOf (s : State) (c : CoreId) (k : Slot) (l : Lane) : Order :=
  match s.group? c k with
  | some g => (g.threads[l]).ord
  | none => .none

/-- What rules the next access of any of some threads out (R220, R221). -/
def State.pastOf (s : State) (c : CoreId) (k : Slot) (lanes : Word) : View :=
  View.joins ((maskLanes lanes).map fun l => (s.ordOf c k l).past)

/-- R218, R224: some threads have acquired by reads that took some writes. -/
def State.hearFrom (s : State) (c : CoreId) (k : Slot) (lanes : Word) (r : Reach) (took : List Nat) : State :=
  let a := s.apply (coreDie c) r took
  a.1.modOrds c k lanes fun l o => o.hear ((s.heard (s.partyOf c k l) r took).join a.2)

/-- R205: elements of LDA of some threads at some bytes have taken effect, where the threads access those bytes again. -/
def State.settleLda (s : State) (c : CoreId) (k : Slot) (lanes : Word) (ts : List Target) : State :=
  if s.rereads.isEmpty then s
  else
    let spots := ts.map Target.spot
    { s with rereads := s.rereads.filter fun r => !(r.core = c && r.slot == k && (r.lanes &&& lanes != 0) && r.targets.any fun t => spots.contains t.spot) }

/-- The agent that accesses memory for some threads of a group: the lowest of them (R206). -/
def State.partyFor (s : State) (c : CoreId) (k : Slot) (lanes : Word) : Party := s.partyOf c k ((maskLanes lanes).headD 0)

/-- R205, R220, R223: one element of a load of some threads, after what was before its word (`past`): the bytes, and the number of the read.
`acq` is an acquire's scope; `cell` the writes of an exact cell's chain in place of memory's (R218). -/
def State.loadOf (s : State) (c : CoreId) (k : Slot) (lanes : Word) (past : View) (cached : Bool) (acq : Option Reach) (cell : Option (List Nat))
    (ts : List Target) : State × List Byte × Nat :=
  let seen := match acq with
    | some r => s.spreadTo (s.partyFor c k lanes) r ts
    | none => []
  let got := s.takeAs c cached (s.known past ++ seen) none ts
  let took := cell.getD ((got.filterMap (·.2)).eraseDups)
  let s1 := ((s.settleLda c k lanes ts).newRead past ts took).modOrds c k lanes fun _ o => o.read s.nextId
  (match acq with
    | some r => s1.hearFrom c k lanes r took
    | none => s1, got.map (·.1), s.nextId)

/-- R217, R218: the next word of some threads writes: their fences for stores alone have their effect. -/
def State.atWrite (s : State) (c : CoreId) (k : Slot) (lanes : Word) : State := s.modOrds c k lanes fun _ o => o.atWrite

/-- R218: the releases whose carrier a write of some threads is: that of its own word, and those of their fences. -/
def State.headsOf (s : State) (c : CoreId) (k : Slot) (lanes : Word) (rel : Option Reach) : List Head :=
  (maskLanes lanes).flatMap fun l =>
    let o := s.ordOf c k l
    (rel.toList.map fun r => ⟨s.partyOf c k l, r, o.view⟩) ++ o.fences

/-- A thread's write of a number has been made: it is one of those of the threads that share it. -/
def State.noteWrite (s : State) (c : CoreId) (k : Slot) (lanes : Word) (id : Nat) : State := s.modOrds c k lanes fun _ o => o.wrote id

/-! ### Targets -/

/-- The physical address of a target that has one in memory. -/
def Target.pa? : Target → Option (Nat × Option (Fin 8))
  | .phys pa key => some (pa, key)
  | .own _ _ pa key => some (pa, key)
  | .scratch _ _ => none

/-- Two targets are bytes of one 8-byte block (R214). -/
def Target.sameBlock (a b : Target) : Bool := a.spot.1 == b.spot.1

/-- An index below a bound. -/
def ixOf (n i : Nat) (h : 0 < n) : Fin n := ⟨i % n, Nat.mod_lt _ h⟩

/-- R421: a link carries traffic: it is up and has its keys. -/
def State.linkOpen (s : State) (n : Nat) : Bool :=
  let l := s.board.links[ixOf 35 n (by decide)]
  l.up && l.keyed

/-- R213, R420, R421: an access that no open link carries, or to a peer package that the scope table does not name as valid. The host's
memory that the link to the host does not reach is as a peer's (DESIGN CHOICE, log 93). -/
def State.peerLost (s : State) (pa : Nat) : Bool :=
  if hostBase ≤ pa then !s.linkOpen 0
  else decide (peerBase ≤ pa) && (!s.peerWithin ((pa - peerBase) / 2 ^ 38) 7 || !((List.range 18).any fun i => s.linkOpen (i + 1)))

/-- The bytes of a write of a number reach their targets, which lie in one kind of memory; `alloc`: the core's L1 may take the line. -/
def State.writeTargets (s : State) (c : CoreId) (alloc : Nat → Bool) (low comp : Bool) (id : Nat) (known : List Nat) (bs : List (Target × Byte)) : State :=
  match bs with
  | [] => s
  | (.phys pa _, _) :: _ =>
    if s.peerLost pa then s.logged (.dropped pa)
    else s.storeBytes c alloc low comp id known (bs.filterMap fun b => b.1.pa?.map fun p => (p.2, p.1, b.2))
  | (.own k off _ _, _) :: _ =>
    let s := s.modTeam k fun t => { t with wrote := addIds t.wrote (bs.filterMap fun b => match b.1 with | .own _ o _ _ => some o | _ => none) }
    s.storeBytes c alloc low comp id known (bs.filterMap fun b => b.1.pa?.map fun p => (p.2, p.1, b.2)) (some (k, off))
  | (.scratch _ _, _) :: _ => s.standAll (coreDie c) false known (bs.map fun b => (b.1.spot, b.2, id))

/-- How a store reaches memory: whether the core's L1 may take a line, at the lowest retention or not (R199), and its record's COMP. -/
structure Way where
  alloc : Nat → Bool
  low   : Bool
  comp  : Bool

/-- Past the L1s. -/
def Way.past (comp : Bool := false) : Way := ⟨fun _ => false, false, comp⟩

/-- R217, R218: a store of an element's bytes by some threads. `word` are the writes of its own word before it (R193). -/
def State.storeOf (s : State) (c : CoreId) (k : Slot) (lanes : Word) (past : View) (rel : Option Reach) (w : Way)
    (word : List Nat) (bs : List (Target × Byte)) : State × Nat :=
  let id := s.nextId
  let s1 := (s.settleLda c k lanes (bs.map (·.1))).newWrite (s.partyFor c k lanes) (s.headsOf c k lanes rel) past
  ((s1.writeTargets c w.alloc w.low w.comp id (s.known past ++ word) bs).noteWrite c k lanes id, id)

/-! ### Agents of the device (R225) -/

/-- A read by an agent of the device, past the L1s, after a view: the bytes and the number of the read. -/
def State.readAs (s : State) (v : View) (ts : List Target) : State × List Byte × Nat :=
  let got := s.take (s.known v) none ts
  (s.newRead v ts (got.filterMap (·.2)), got.map (·.1), s.nextId)

/-- A write by an agent of the device that stands at a core, past the L1s, after a view: its number. -/
def State.writeAs (s : State) (c : CoreId) (v : View) (bs : List (Target × Byte)) (comp : Bool := false) : State × Nat :=
  ((s.newWrite .device [] v).writeTargets c (fun _ => false) false comp s.nextId (s.known v) bs, s.nextId)

/-- R225: an operation reads. -/
def State.opRead (s : State) (o : Nat) (ts : List Target) : State × List Byte :=
  match s.op? o with
  | none => (s, ts.map fun _ => 0)
  | some x =>
    let r := s.readAs x.view ts
    (r.1.modOp o fun x => { x with did := ⟨x.did.writes, addId x.did.reads r.2.2⟩ }, r.2.1)

/-- R225: an operation writes; `ordered`: its writes are ordered among themselves. -/
def State.opWrite (s : State) (o : Nat) (c : CoreId) (bs : List (Target × Byte)) (comp : Bool := false) (ordered : Bool := false) : State :=
  match s.op? o with
  | none => s
  | some x =>
    let r := s.writeAs c (if ordered then ⟨addIds x.view.writes x.did.writes, x.view.reads⟩ else x.view) bs comp
    r.1.modOp o fun x => { x with did := ⟨addId x.did.writes r.2, x.did.reads⟩ }

/-- What some blocks hold is what every later read of them sees. -/
def State.settlePlaces (s : State) (f : Place → Bool) : State :=
  if s.hist.isEmpty && s.rereads.isEmpty then s
  else { s with hist := s.hist.filter fun v => !f v.place, rereads := s.rereads.filter fun r => !r.targets.any fun t => f t.spot.1 }

/-- A write by an agent whose order nothing asks about (firmware, a companion word): every later read sees it. -/
def State.plainWrite (s : State) (key : Option (Fin 8)) (pa : Nat) (bs : List Byte) : State :=
  let ps := ((List.range bs.length).map fun i => Place.phys ((pa + i) / 8) key).eraseDups
  (s.settlePlaces ps.contains).writeBytes key pa bs

/-- R117, R253, R412: some bytes of a core's partition, whole blocks, take new contents before any access of those that use them. -/
def State.resetScratch (s : State) (c : CoreId) (from_ n : Nat) (cells : List Host.Cell) : State :=
  let inside := fun a => decide (from_ ≤ a) && decide (a < from_ + n)
  let s := s.settlePlaces fun p => match p with
    | .scratch d block => d == c && inside (8 * block)
    | .phys _ _ => false
  { s with ecc := s.ecc.filter fun e => match e with | .scratch d w => !(d == c && inside (4 * w)) | _ => true }.modCore c fun x =>
    { x with scratch := cells.foldl (fun (m : List Host.Cell) (y : Host.Cell) => setCell m (from_ + y.1) y.2) (dropCells x.scratch inside) }

/-- R215, R236: some threads read and write the bytes of an aligned location at once, past the L1s; `f` gives the new value, if one is
written, `reads` says that the word has a read side. The write goes on with the chain of the one that it reads (R218). `last`: it stands last. -/
def State.rmw (s : State) (c : CoreId) (k : Slot) (lanes : Word) (past : View) (heads : List Head) (r : Reach) (reads acq last : Bool)
    (ts : List Target) (f : Nat → Option Nat) : State × Nat :=
  match ts with
  | [] => (s, 0)
  | t :: _ =>
    let s := s.settleLda c k lanes ts
    let p := t.spot.1
    let vs := s.versions p
    let as := ts.map fun t => t.spot.2
    let q := if last then vs.length else standAt s.fresh (as.headD 0) (places vs (s.known past ++ s.spreadTo (s.partyFor c k lanes) r ts) as) vs.length
    let bytes := ts.map fun t => if s.unwritten t then 0 else oldAt vs q t.spot.2 (s.byteNow p t.spot.2)
    let took := (as.filterMap fun a => (sourceAt vs q a).map (·.2)).eraseDups
    let rid := s.nextId
    let s1 := if reads then (s.newRead past ts took).modOrds c k lanes fun _ o => o.read rid else s
    let s1 := if reads && acq then s1.hearFrom c k lanes r took else s1
    match f (leValue bytes) with
    | none => (s1, leValue bytes)
    | some x =>
      let id := s1.nextId
      let view : View := if reads then ⟨past.writes, addId past.reads rid⟩ else past
      let s2 := s1.newWrite (s1.partyFor c k lanes) (heads ++ (took.filterMap s1.info).flatMap (·.heads)) view
      let s2 := match t with
        | .own key _ _ _ => s2.modTeam key fun t => { t with wrote := addIds t.wrote (ts.filterMap fun x : Target => match x with | .own _ o _ _ => some o | _ => none) }
        | _ => s2
      ((s2.stand (coreDie c) true (some q) [] p ((as.zip (leBytes ts.length x)).map fun b : Nat × Byte => (b.1, b.2, id))).noteWrite c k lanes id, leValue bytes)

/-! ### Release, acquire and fences (R216 to R224) -/

/-- R216, R223, R224: a release by threads of a core at a scope: at `clu` or wider the L1's dirty lines are written back. -/
def State.release (s : State) (c : CoreId) (scope : Nat) : State :=
  if 3 ≤ scope then (s.writeBack c fun _ => true).clockRelease (coreDie c) scope else s

/-- R223: an acquire at `clu` or wider replaces the L1's copies. -/
def State.acquire (s : State) (c : CoreId) (scope : Nat) : State := if 3 ≤ scope then s.dropL1 c fun _ => true else s

/-- R217, R218: a release fence of some threads, over all accesses or (`ld`) over loads. -/
def State.releaseFence (s : State) (c : CoreId) (k : Slot) (lanes : Word) (ld : Bool) (r : Reach) : State :=
  (s.release c r.scope).modOrds c k lanes fun l o => { o with fences := o.fences ++ [⟨s.partyOf c k l, r, if ld then o.loads else o.view⟩] }

/-- R217, R218: an acquire fence of some threads, for all accesses or (`st`) for stores. Loads before it that are still open take no write
any more that it would have heard of (R222). -/
def State.acquireFence (s : State) (c : CoreId) (k : Slot) (lanes : Word) (st : Bool) (r : Reach) : State :=
  let s := s.acquire c r.scope
  let s := { s with rereads := s.rereads.map fun x =>
    if x.core = c && x.slot == k && (x.lanes &&& lanes != 0) then { x with by_ := x.by_ ++ (maskLanes lanes).map fun l => (s.partyOf c k l, r) } else x }
  (maskLanes lanes).foldl (fun s l =>
    let took := s.tookBy (s.ordOf c k l).mine
    let a := s.apply (coreDie c) r took
    let v := (s.heard (s.partyOf c k l) r took).join a.2
    a.1.modOrds c k (oneBit l.val) fun _ o => if st then { o with later := o.later.join v } else o.hear v) s

/-- R222: elements of loads that a test names have taken effect for good. -/
def State.settleLoads (s : State) (f : Reread → Bool) : State :=
  if s.rereads.isEmpty then s else { s with rereads := s.rereads.filter fun r => !f r }

/-- R221: an SC fence of some threads: the writes that matched fences before it make visible; its own, for those after it. -/
def State.scPoint (s : State) (c : CoreId) (k : Slot) (lanes : Word) (r : Reach) : State :=
  let s := s.settleLoads fun x => x.core = c && x.slot == k && (x.lanes &&& lanes != 0)
  (maskLanes lanes).foldl (fun s l =>
    let me := s.partyOf c k l
    let o := s.ordOf c k l
    let sc := (s.fences.filter fun f => matched f.party f.reach me r).foldl (fun ws f => addIds ws f.view.writes) o.sc
    { s.modOrds c k (oneBit l.val) fun _ o => { o with sc := sc } with
      fences := s.fences ++ [⟨me, r, ⟨addIds o.view.writes (s.tookBy o.mine), []⟩⟩] }) s

/-- R217, R221: an SC fence of kind `fence`. -/
def State.scFence (s : State) (c : CoreId) (k : Slot) (lanes : Word) (r : Reach) : State :=
  ((s.releaseFence c k lanes false r).acquireFence c k lanes false r).scPoint c k lanes r

/-- R225, R226: a join: the accesses of an operation come before what follows in the threads; at `clu` or wider an acquire of the core. -/
def State.joinAt (s : State) (c : CoreId) (k : Slot) (lanes : Word) (scope : Nat) (v : View) : State :=
  (s.acquire c scope).modOrds c k lanes fun _ o => o.hear v

/-- R225: a release by the threads of a bundle, ahead of a fork or of an arrival. -/
def State.releaseBy (s : State) (b : Bundle) (scope : Nat) : State := s.release b.core scope

/-! ### Agents outside (R227, R228, R420) -/

/-- What orders the accesses of an agent outside. -/
def State.outsideOf (s : State) (p : Party) : Order := ((s.outside.find? fun x => x.1 == p).map (·.2)).getD .none

/-- Changes it. -/
def State.modOutside (s : State) (p : Party) (f : Order → Order) : State :=
  { s with outside := (p, f (s.outsideOf p)) :: s.outside.filter fun x => x.1 != p }

/-- R227: an agent outside reads bytes of memory, and acquires at a scope. -/
def State.outsideRead (s : State) (p : Party) (acq : Option Reach) (ts : List Target) : State × List Byte :=
  let o := s.outsideOf p
  let seen := match acq with | some r => s.spreadTo p r ts | none => []
  let got := s.take (s.known o.past ++ seen) none ts
  let took := (got.filterMap (·.2)).eraseDups
  let s1 := (s.newRead o.past ts took).modOutside p fun o => o.read s.nextId
  (match acq with
    | some r => s1.modOutside p fun o => o.hear (s.heard p r took)
    | none => s1, got.map (·.1))

/-- R227: an agent outside writes bytes of memory, and releases at a scope. -/
def State.outsideWrite (s : State) (p : Party) (rel : Option Reach) (bs : List (Target × Byte)) : State :=
  let o := (s.outsideOf p).atWrite
  let heads := (rel.toList.map fun r => (⟨p, r, o.view⟩ : Head)) ++ o.fences
  let s1 := ((s.modOutside p Order.atWrite).newWrite p heads o.past).standAll none false (s.known o.past) (bs.map fun b => (b.1.spot, b.2, s.nextId))
  s1.modOutside p fun o => o.wrote s.nextId

/-- R227, R236: an agent outside reads and writes an aligned location at once; `f` gives the new value, if one is written. -/
def State.outsideAtomic (s : State) (p : Party) (acq rel : Option Reach) (ts : List Target) (f : Nat → Option Nat) : State × List Byte :=
  let o := (s.outsideOf p).atWrite
  let seen := match acq with | some r => s.spreadTo p r ts | none => []
  match ts with
  | [] => (s, [])
  | t :: _ =>
    let pl := t.spot.1
    let vs := s.versions pl
    let as := ts.map fun t => t.spot.2
    let q := standAt s.fresh (as.headD 0) (places vs (s.known o.past ++ seen) as) vs.length
    let bytes := as.map fun a => oldAt vs q a (s.byteNow pl a)
    let took := (as.filterMap fun a => (sourceAt vs q a).map (·.2)).eraseDups
    let s1 := (s.newRead o.past ts took).modOutside p fun o => (o.atWrite).read s.nextId
    let s1 := match acq with
      | some r => s1.modOutside p fun o => o.hear (s.heard p r took)
      | none => s1
    match f (leValue bytes) with
    | none => (s1, bytes)
    | some x =>
      let o := s1.outsideOf p
      let heads := (rel.toList.map fun r => (⟨p, r, o.view⟩ : Head)) ++ o.fences ++ (took.filterMap s1.info).flatMap (·.heads)
      let id := s1.nextId
      let s2 := (s1.newWrite p heads o.past).stand none true (some q) [] pl ((as.zip (leBytes ts.length x)).map fun b : Nat × Byte => (b.1, b.2, id))
      (s2.modOutside p fun o => o.wrote id, bytes)

/-- R221, R227: a fence of an agent outside at `sys`: acquire, release, both, or SC (1 to 4). -/
def State.outsideFence (s : State) (p : Party) (order : Nat) (r : Reach) : State :=
  let o := s.outsideOf p
  let s := if order = 1 then s else s.modOutside p fun o => { o with fences := o.fences ++ [⟨p, r, o.view⟩] }
  let s := if order = 2 then s else s.modOutside p fun o => o.hear (s.heard p r (s.tookBy o.mine))
  if order = 4 then
    let sc := (s.fences.filter fun f => matched f.party f.reach p r).foldl (fun ws f => addIds ws f.view.writes) o.sc
    { s.modOutside p fun o => { o with sc := sc } with fences := s.fences ++ [⟨p, r, ⟨addIds (s.outsideOf p).view.writes (s.tookBy o.mine), []⟩⟩] }
  else s

end Sys2Proof.Machine
end

