-- ==== Sys2Proof/Machine/Settle.lean ====
section
/-! DEFINITION. What happens to waiting threads without a word: RCV release, barrier completion and the end of a group (R91,
R162, R165 to R171, R397). Releases and completions follow every step (`State.tidy`). -/

namespace Sys2Proof.Machine

/-- ESTATE's wait code (R406). -/
def estateWait (e : Word) : Nat := fieldOf e.toNat 4 4

/-- R165: a thread of a group is held. -/
def State.held (s : State) (g : Group) (t : Thread) : Bool :=
  t.gone ||
  if g.handler.isSome then estateWait t.estate == 1 || estateWait t.estate == 2 || estateWait t.estate == 3 || estateWait t.estate == 4
  else match t.run with
    | .rcv => true
    | .bar _ _ => true
    | .ready => t.inside.isNone && !g.mustHalt && s.isGather g t.pc && !s.gatherFull g t.pc
    | _ => false

/-- The code offset of the word at which a thread waits. -/
def Thread.waitWord (t : Thread) (handler : Bool) : Word :=
  if handler then t.epc
  else match t.inside with
    | some i => t.pc + BitVec.ofNat 32 (4 * (i + 1))
    | none => t.pc

/-- The header and the word's index of a code offset inside a clause, found from the image's first clause on. -/
def locate (code : List Word) : Nat → Nat → Nat → Option (Nat × Nat)
  | 0, _, _ => none
  | fuel + 1, h, t =>
    match code[h]? with
    | none => none
    | some w =>
      let n := fieldOf w.toNat 27 5 + 1
      if t ≤ h then none
      else if t ≤ h + n then some (h, t - h - 1)
      else locate code fuel (h + n + 1) t

/-- The code that a group runs outside handler mode. -/
def State.kernelCode (s : State) (g : Group) : List Word := s.codeOf { g with handler := none }

/-- R397, R406: the word at which a thread of a group in handler mode waits, by ESTATE's code of the wait. -/
def State.keptWait (s : State) (g : Group) (code : Nat) (t : Thread) : Option Word :=
  if g.handler.isSome && !t.gone && estateWait t.estate == code then codeAt (s.kernelCode g) t.epc else none

/-- R397: such a thread is released and stands after its word. -/
def State.keptPast (s : State) (g : Group) (t : Thread) : Thread :=
  let code := s.kernelCode g
  let last := match locate code code.length 0 (t.epc.toNat / 4), codeAt code t.epc with
    | some (h, i), some _ => match code[h]? with
      | some w => decide (fieldOf w.toNat 27 5 ≤ i)
      | none => true
    | _, _ => true
  { t with epc := t.epc + 4, estate := t.estate &&& ~~~ (if last then 0xFC#32 else 0xF0#32) }

/-- R98: a thread released from a word inside its clause stands after it. -/
def State.stepPast (s : State) (g : Group) (t : Thread) : Thread :=
  match t.inside, clauseWords (s.codeOf g) t.pc with
  | some i, some ws =>
    if i + 1 < ws.length then { t with run := .ready, inside := some (i + 1) }
    else { t with run := .ready, pc := t.pc + BitVec.ofNat 32 (4 * (ws.length + 1)), inside := none }
  | _, _ => { t with run := .ready }

/-- The thread waits at an RCV. -/
def Thread.atRcv (t : Thread) (handler : Bool) : Bool := !t.gone && (if handler then estateWait t.estate == 1 else t.run == .rcv)

/-- R165, R167, R397: a thread is released from the last word of its clause and stands at the next header. -/
def Thread.release (t : Thread) (handler : Bool) : Thread :=
  let next := t.waitWord handler + 4
  if handler then { t with epc := next, estate := t.estate &&& ~~~ (0x0FF4#32) }
  else { t with run := .ready, pc := next, inside := none }

/-- R165: the release of a group's RCV, if it takes place. -/
def State.settleRcv (s : State) (c : CoreId) (k : Slot) : State :=
  match s.group? c k with
  | none => s
  | some g =>
    let h := g.handler.isSome
    let at_ := (List.finRange 32).filter fun l : Lane => (g.threads[l]).atRcv h
    if at_.isEmpty then s
    else if g.allThreads fun _ t => s.held g t then
      let low := (at_.map fun l => ((g.threads[l]).waitWord h).toNat).foldl min (2 ^ 32)
      s.setGroup c k (some (g.mapThreads fun _ t =>
        if t.atRcv h && (t.waitWord h).toNat == low then t.release h else t))
    else s

/-- R165: the releases of a group's RCVs, one after another while one takes place. -/
def State.settleRcvs (s : State) (c : CoreId) (k : Slot) : Nat → State
  | 0 => s
  | n + 1 => (s.settleRcv c k).settleRcvs c k n

/-- The teams of a team's cluster. -/
def State.clusterOf (s : State) (t : Team) : List Team := s.teams.filter fun u => u.launch == t.launch && u.cluster == t.cluster

/-- R167: a barrier's parties: the team, or the teams of its cluster. -/
def State.parties (s : State) (t : Team) (clu : Bool) : List Team := if clu then s.clusterOf t else [t]

/-- R171: a party is being pre-empted, or a team of its cluster is away: no barrier of it completes until all are back. -/
def State.away (s : State) (ts : List Team) (clu : Bool) : Bool :=
  ts.any fun t => !t.out.isEmpty || clu && s.board.suspended.any fun u => u.launch == t.launch && u.cluster == t.cluster

/-- R219: what happens before a barrier's completion: the accesses of the threads that wait at it. -/
def State.barView (s : State) (ts : List Team) (clu : Bool) (n : Fin 16) : View :=
  View.joins (ts.flatMap fun t => (s.teamGroups t).flatMap fun p =>
    ((List.finRange 32).filter fun l : Lane => (p.2.threads[l]).waitsAt p.2.handler.isSome clu n).map fun l : Lane => (p.2.threads[l]).ord.view)

/-- R167, R168, R108, R409: a barrier completes. What follows in the threads that leave it comes after what was before in all of them
(R219); those of a cluster barrier acquire at scope `clu`. -/
def State.completeBar (s : State) (ts : List Team) (clu : Bool) (n : Fin 16) : State :=
  let v := s.barView ts clu n
  let s := if clu then ts.foldl (fun s t => s.acquire t.core 3) s else s
  let s := ts.foldl (fun s t => (s.teamGroups t).foldl (fun s p =>
    (s.modGroup t.core p.1 fun g => g.mapThreads fun _ x =>
      if x.waitsAt g.handler.isSome clu n then { x.release g.handler.isSome with ord := x.ord.hear v } else x).modCore t.core fun x =>
        { x with sched := x.sched.set p.1 { x.sched[p.1] with urg := 0 } }) s) s
  { s with teams := s.teams.map fun u =>
      if ts.any fun t => t.key == u.key then { u with wd := 0, wdHit := false, bars := u.bars.set (barIx clu n) 0 } else u }

/-- R167: a barrier of a team or of its cluster completes when every expected arrival has come. -/
def State.settleBar (s : State) (key : Nat) (clu : Bool) (n : Fin 16) : State :=
  match s.team? key with
  | none => s
  | some t =>
    let ts := s.parties t clu
    let got := (ts.map fun u => s.arrived u clu n).sum
    if got ≠ 0 ∧ got = (ts.map s.expected).sum ∧ !s.away ts clu then s.completeBar ts clu n else s

/-- R165, R167: the releases and completions that are due for a team and its cluster. -/
def State.settle (s : State) (key : Nat) : State :=
  match s.team? key with
  | none => s
  | some t =>
    let s := (s.parties t true).foldl (fun s u => (s.teamGroups u).foldl (fun s p => s.settleRcvs u.core p.1 32) s) s
    let waits := (s.parties t true).any fun u => (s.teamGroups u).any fun p => p.2.anyThread fun _ x =>
      match x.run with
      | .bar _ _ => true
      | _ => p.2.handler.isSome && (estateWait x.estate == 2 || estateWait x.estate == 3)
    if waits then
      (List.finRange 16).foldl (fun s n => (s.settleBar key false n).settleBar key true n) s
    else s

/-- R91, R162: a group whose last thread has exited is EXITING. -/
def State.endGroup (s : State) (c : CoreId) (k : Slot) : State :=
  match s.group? c k with
  | some g => if g.st != .exiting && g.allThreads fun _ t => t.gone then s.setGroup c k (some { g with st := .exiting }) else s
  | none => s

/-- R285: every thread of the mask has signed or exited. -/
def Group.signingFull (g : Group) (c : Cv) : Bool := g.allThreads fun l t => !hasBit c.mask l || hasBit c.signed l || t.gone

/-- R285: a signing that the last member completes by exiting waits for a reservation entry. -/
def State.settleCvs (s : State) (c : CoreId) (k : Slot) : State :=
  s.modGroup c k fun g => { g with cv := g.cv.map fun x => if x.st == .open_ && g.signingFull x then { x with st := .postwait } else x }

end Sys2Proof.Machine
end

