-- ==== Sys2Proof/Machine/Issue.lean ====
section
/-! DEFINITION. The issue of a word by an open bundle (R52, R53, R94 to R105): static checks, stalls, token joins and misuse,
the word's effect, and what follows every word. -/

namespace Sys2Proof.Machine

/-- R53: the class of the word's own static checks, if one fails; class 0x01 comes first. -/
def WordInfo.ownClass (i : WordInfo) : Option Nat :=
  if i.bad = some 0x01 then some 0x01
  else if i.blocks.all Block.fits then i.bad else some 0x02

/-- The base of the fourth operand under a PREFIX has a legal block (R70, R56). -/
def WordInfo.fourthFits (i : WordInfo) (p : Pfx) : Bool :=
  match i.blocks with
  | d :: _ => Block.fits { d with base := p.fourth }
  | [] => true

/-- R53, R67: the class that the word, or the PREFIX before it, fails statically: whether it lies in the PREFIX. -/
def WordInfo.static (i : WordInfo) (p : Option Pfx) : Option (Bool × Nat) :=
  match (match p with
      | some p => i.rule.check p (i.fourthFits p)
      | none => none) with
  | some c => some (true, c)
  | none =>
    if i.rule.needed && p.isNone then some (false, 0x01)
    else match i.ownClass with
      | some c => some (false, c)
      | none => match i.tileRows with
        | some (row, n) => if 64 < row + (if (p.getD {}).mod = 0 then (n + 1) / 2 else n) then some (false, 0x02) else none
        | none => none

/-- The uniform registers that an operation of the group will still write (R206); in handler mode not those that its entry has set aside
(R401). -/
def State.loading (s : State) (c : CoreId) (k : Slot) (g : Group) : List Nat :=
  (s.ops.filter fun o => o.core = c && o.slot == k).flatMap fun o => match o.work with
    | .uld ws _ _ => (ws.map (·.1.val)).filter fun n => !(decide (124 ≤ n) && o.apart g)
    | _ => []

/-- R240: lane `l` of the group waits for an old value in one of these registers; in handler mode not in one that its entry has set aside
(R401). -/
def State.awaits (s : State) (c : CoreId) (k : Slot) (g : Group) (l : Lane) (regs : List Nat) : Bool :=
  s.ops.any fun o => o.core = c && match o.work with
    | .atomic es _ _ => es.any fun e => e.slot == k && e.lane == l &&
        e.dst.any fun r => !(decide (r.val < 2) && o.apart g) && regs.any fun n => rowOf g.ring (g.threads[l]).turn n == r
    | _ => false

/-- R205: lane `l` has an element that has issued and has not been performed. An element of LDA that the engine's save holds does not
keep the thread from memory (log 27). -/
def State.owes (s : State) (c : CoreId) (k : Slot) (l : Lane) : Bool :=
  s.ops.any fun o => o.core = c && match o.work with
    | .atomic es _ _ => es.any fun e => e.slot == k && e.lane == l
    | .bred us _ _ => us.any fun es => es.any fun e => e.slot == k && e.lane == l
    | .lda _ _ ws _ _ _ => o.slot == k && !s.engineHeld c k && ws.any fun w => w.lane == l
    | _ => false

/-- R68: the lanes of a member in which the word takes effect. -/
def Group.active (g : Group) (m : Member) (p : Pfx) (l : Lane) : Bool :=
  hasBit m.sel l && ((g.threads[l]).pred p.mask != p.sense)

/-- R70: the registers of the fourth operand. -/
def WordInfo.fourthRegs (i : WordInfo) (p : Option Pfx) : List Nat :=
  match i.rule.fourth, p, i.blocks with
    | true, some p, d :: _ => Block.regs { d with base := p.fourth }
    | _, _, _ => []

/-- The registers that the word names, the fourth operand's among them (R70, R114). -/
def WordInfo.names (i : WordInfo) (p : Option Pfx) : List Nat := i.blocks.flatMap Block.regs ++ i.fourthRegs p

/-- The lane registers that the word reads. -/
def WordInfo.laneReads (i : WordInfo) (p : Option Pfx) : List Nat :=
  match i.exact with
  | some x => x.1
  | none => (if i.writesBlock then i.blocks.drop 1 else i.blocks).flatMap Block.regs ++ i.fourthRegs p

/-- The lane registers that the word writes; a form without return writes none (R235). -/
def WordInfo.laneWrites (i : WordInfo) (p : Option Pfx) : List Nat :=
  if i.rule.noret && (p.getD {}).mod == 1 then []
  else match i.exact with
  | some x => x.2
  | none => if i.writesBlock then (i.blocks.take 1).flatMap Block.regs else []

/-- R74: the word is privileged, and the group runs without privilege. -/
def WordInfo.denied (i : WordInfo) (g : Group) : Bool := i.priv && g.handler.isNone

/-- R47: the pip that a pip-tracked word attaches to. -/
def Bundle.attach (b : Bundle) : Fin 12 :=
  let p := if b.first then b.seta else if b.setb = 15 then b.seta else b.setb
  ⟨p % 12, Nat.mod_lt _ (by decide)⟩

/-- R102, R105: the word waits for a pending token of a group. A word that writes a pending token raises its trap and does not wait for
that one. -/
def Group.tokenStall (g : Group) (i : WordInfo) : Bool :=
  (i.reads.any fun n => g.pendingToken n && !(i.writes ++ i.token.toList).contains n)
  || (match i.token with | some r => decide (16 ≤ g.pendingCount) && !g.pendingToken r | none => false)

/-- R96, R99: the word waits for its pip to fall below 63 for a group. -/
def Group.pipStall (g : Group) (b : Bundle) (i : WordInfo) : Bool := i.pip && decide (63 ≤ g.pip[b.attach])

/-- R96, R206, R240: what else holds the word back for one group of the bundle: a group that is not ACTIVE (R93), a register that a load
or an atomic will still write, accesses that come before it. -/
def State.otherStall (s : State) (b : Bundle) (i : WordInfo) (m : Member) (g : Group) : Bool :=
  let busy := s.loading b.core m.slot g
  g.st != .active
  || (i.reads ++ i.writes ++ i.peeks).any busy.contains
  || (List.finRange 32).any (fun l => hasBit m.sel l &&
      (s.awaits b.core m.slot g l (i.names b.pfx) || (i.memory && s.owes b.core m.slot l)))

/-- R96: the word must wait for one group of the bundle. -/
def State.memberStalls (s : State) (b : Bundle) (i : WordInfo) (m : Member) : Bool :=
  match s.group? b.core m.slot with
  | none => false
  | some g => g.tokenStall i || g.pipStall b i || s.otherStall b i m g

/-- R223: more cycles than any word occupies its pipe for. -/
def wordSpan : Nat := 1024

/-- The word must wait (R96, R430); an L1 line that has been dirty for nearly 65,536 cycles is written back first (R223). -/
def State.stalls (s : State) (b : Bundle) (i : WordInfo) : Bool :=
  (s.cores[b.core]).stopped
  || s.overdue b.core wordSpan
  || (i.memory && s.switching)
  || b.members.any (s.memberStalls b i)
  || (match i.xslot with
      | some x => s.ops.any fun o => o.core = b.core && match o.work with | .xpld y _ _ _ => y.val == x | _ => false
      | none => false)

/-- The groups of a bundle with the threads that are still in it, in ascending slot order (R90, R97). -/
def State.members (s : State) (b : Bundle) : List Member :=
  (b.members.map (s.trim b.core)).filter fun m => m.sel != 0

/-- Folds over the groups of the bundle; each sees the state that the one before left. -/
def State.eachMember (s : State) (b : Bundle) (f : Member → State → State) : State :=
  b.members.foldl (fun s m => let n := s.trim b.core m; if n.sel = 0 then s else f n s) s

/-- R104: the trap that the status word of a completed operation raises at its join: none for LAUNCH (R382). -/
def joinTrap (status : Word) : Option Nat :=
  let x := status.toNat
  if fieldOf x 8 8 = 4 then none
  else if fieldOf x 3 1 = 1 then some (fieldOf x 16 8)
  else if fieldOf x 2 1 = 1 then some 0x08
  else none

/-- R104, R126, R307: the group joins the completed tokens among these registers. -/
def Group.join (g : Group) (regs : List Nat) : Group :=
  let hit := g.tokens.filter fun t => t.done && regs.contains t.reg
  let cvx := hit.any fun t => hasBit (g.uni t.reg) 1
  let oob := hit.any fun t => t.bounds || fieldOf (g.uni t.reg).toNat 8 8 == 1 && !hasBit (g.uni t.reg) 3 && hasBit (g.uni t.reg) 17
  let g := if cvx then g.flag cvxBit else g
  { (if oob then g.flag boundsBit else g) with tokens := g.tokens.filter fun t => !(t.done && regs.contains t.reg) }

/-- The first status word among the registers that raises a trap at its join. -/
def Group.joinFault (g : Group) (regs : List Nat) : Option (Nat × Word) :=
  (regs.filter fun n => g.tokens.any fun t => t.done && t.reg == n).findSome? fun n =>
    (joinTrap (g.uni n)).map fun c => (c, g.uni n)

/-- Some completed token among the registers brings CVX. -/
def Group.joinCvx (g : Group) (regs : List Nat) : Bool :=
  g.tokens.any fun t => t.done && regs.contains t.reg && hasBit (g.uni t.reg) 1

/-- R34: the conversion-exception trap is enabled. -/
def State.cvxOn (s : State) (c : CoreId) : Bool := hasBit (s.cores[c]).tctl 0

/-- R226: a join of a matrix-vector call or a drain is an acquire; it replaces the core's L1 copies (R223). -/
def Group.joinAcquires (g : Group) (regs : List Nat) : Bool :=
  g.tokens.any fun t => t.done && regs.contains t.reg && decide (fieldOf (g.uni t.reg).toNat 8 8 ≤ 2)

/-- R104, R225: what the tokens among these registers that a group joins bring. -/
def Group.joinView (g : Group) (regs : List Nat) : View :=
  View.joins ((g.tokens.filter fun t => t.done && regs.contains t.reg).map (·.did))

/-- R104, R126, R226, R307: threads of a group join the completed tokens among these registers. -/
def State.joinFor (s : State) (b : Bundle) (m : Member) (g : Group) (regs : List Nat) : State :=
  (s.joinAt b.core m.slot m.sel (if g.joinAcquires regs then 3 else 0) (g.joinView regs)).modGroup b.core m.slot fun g => g.join regs

/-- R68, R104, R105: a write to a pending token register raises class 0x18 in the active lanes, a join may raise its trap there. A word
that no active lane of the group executes joins nothing; nor does one that `joins` leaves out. -/
def State.tokenChecks (s : State) (b : Bundle) (i : WordInfo) (joins : Bundle → Member → State → Bool) : State :=
  s.eachMember b fun m s =>
    match s.group? b.core m.slot with
    | none => s
    | some g =>
      let act := g.active m (b.pfx.getD {})
      if i.denied g || !(List.finRange 32).any act then s
      else match (i.writes ++ if i.tokenLast then [] else i.token.toList).find? g.pendingToken with
      | some r => s.raise b m.slot act 0x18 [BitVec.ofNat 32 r]
      | none =>
        if joins b m s then match g.joinFault i.reads with
          | some (cls, st) => (s.joinFor b m g i.reads).raise b m.slot act cls [st]
          | none => s.joinFor b m g i.reads
        else s

/-- R173: where a thread of a word's set has still to come to it, the threads of that set wait at the word. -/
def State.regather (s : State) (b : Bundle) (mod : Nat) : State :=
  s.eachMember b fun m s =>
    s.modGroup b.core m.slot fun g =>
      g.mapThreads fun l t =>
        if hasBit m.sel l && g.anyThread fun k x => g.awaited mod b.pc k && t.together x mod && !hasBit m.sel k then t.standAt b b.here .ready
        else t

/-- R424: the predicates that a word reads in an active lane, its prefix mask's among them. -/
def predReads (w : Nat) (p : Pfx) : List Nat :=
  let func := fieldOf w 0 7
  (p.mask :: match fieldOf w 25 7 with
    | 0x1B => if func = 9 then [] else if func < 5 then [fieldOf w 7 6, fieldOf w 19 6] else [fieldOf w 7 6]
    | 0x35 => if func < 4 then [fieldOf w 7 6] else []
    | 0x3C => [fieldOf w 19 6]
    | 0x3D => if fieldOf w 22 3 = 7 then [fieldOf w 16 6] else []
    | _ => []).filter fun q => q != 0

/-- R424: the buffer records that a word of a group reads. -/
def Group.recReads (g : Group) (w : Nat) : List Nat :=
  let major := fieldOf w 25 7
  let desc := (g.uni (fieldOf w 11 7)).toNat
  if 0x2C ≤ major ∧ major ≤ 0x33 then [fieldOf w 10 5]
  else match major with
    | 0x34 => if 8 ≤ fieldOf w 0 7 ∧ fieldOf w 0 7 < 12 then [fieldOf w 7 5] else []
    | 0x39 => if fieldOf w 0 7 = 5 ∨ fieldOf w 0 7 = 7 then [fieldOf w 11 4] else []
    | 0x4D | 0x4E | 0x5D | 0x5F => [fieldOf w 0 5]
    | 0x52 => if fieldOf w 7 4 = 1 then [fieldOf w 11 5] else []
    | 0x53 => [fieldOf w 18 5]
    | 0x5B => [fieldOf desc 0 5, fieldOf desc 10 5] ++ if desc.testBit 15 then [] else [fieldOf desc 5 5]
    | 0x5C => if fieldOf w 7 4 = 0 then [fieldOf w 0 5] else []
    | 0x64 => if fieldOf w 7 4 = 4 ∨ fieldOf w 7 4 = 5 then [fieldOf w 0 5] else []
    | _ => []

/-- R424: the buffer record that a word replaces whole. -/
def recWrites (w : Nat) : List Nat := if fieldOf w 25 7 = 0x52 ∧ fieldOf w 7 4 = 0 then [fieldOf w 18 5] else []

/-- R424, R68: the active lanes of a member in which the word reads a poisoned register. -/
def State.eccLanes (s : State) (b : Bundle) (i : WordInfo) (m : Member) : Word :=
  match s.group? b.core m.slot with
  | none => 0
  | some g =>
    let w := b.current.toNat
    let p := b.pfx.getD {}
    let uni := ((i.reads ++ i.peeks).any fun n => s.ecc.contains (.uni b.core m.slot (regIx n)))
      || (g.recReads w).any fun n => s.ecc.any fun e => match e with
        | .rec_ c k r => c == b.core && k == m.slot && r.val == n
        | _ => false
    let pred := fun l : Lane => s.ecc.any fun e => match e with
      | .pred c k x q => c == b.core && k == m.slot && x == l && (predReads w p).contains q.val
      | _ => false
    if i.denied g then 0
    else laneMask fun l => hasBit m.sel l && pred l || g.active m p l && (uni ||
      (i.laneReads b.pfx).any fun n => s.ecc.contains (.lane b.core m.slot l (rowOf g.ring (g.threads[l]).turn n)))

/-- R424: threads whose word reads a poisoned register raise class 0x08. -/
def State.eccChecks (s : State) (b : Bundle) (i : WordInfo) : State :=
  if s.ecc.isEmpty then s
  else s.eachMember b fun m s => let w := s.eccLanes b i m; s.raise b m.slot (fun l => hasBit w l) 0x08 [0, 0, 0]

/-- The lanes of a member, as it was before the word, whose threads have left the bundle by executing it. A thread that waits at an MMA
word has not executed it (R285). -/
def State.moved (s : State) (b : Bundle) (m : Member) : Word :=
  match s.group? b.core m.slot with
  | some g => laneMask fun l => hasBit m.sel l && (match (g.threads[l]).run with
      | .member => false
      | .exited => false
      | .parked _ _ => false
      | .mma _ => false
      | _ => (g.threads[l]).trap.isNone)
  | none => 0

/-- The lanes of a member, as it was before the word, whose threads have executed it: they raised no trap at it but class 0x13, which
follows the word (R34). -/
def State.executed (s : State) (b : Bundle) (m : Member) : Word :=
  s.live b.core m ||| s.moved b m ||| match s.group? b.core m.slot with
    | some g => laneMask fun l => hasBit m.sel l && (match (g.threads[l]).trap with | some t => t.cls == 0x13 | none => false)
    | none => 0

/-- R424: a register that the word writes is poisoned no longer; under ZERO an inactive lane writes too (R68). -/
def State.eccClear (s before : State) (b : Bundle) (i : WordInfo) : State :=
  if s.ecc.isEmpty then s
  else
    let p := b.pfx.getD {}
    (before.members b).foldl (fun s m => match before.group? b.core m.slot with
      | none => s
      | some g =>
        let done := if i.denied g then 0 else s.executed b m
        { s with ecc := s.ecc.filter fun e => match e with
          | .uni c k r => !(c == b.core && k == m.slot && done != 0 && i.writes.contains r.val)
          | .lane c k l row => !(c == b.core && k == m.slot && hasBit done l && (g.active m p l || p.zero)
              && (i.laneWrites b.pfx).any fun n => rowOf g.ring (g.threads[l]).turn n == row)
          | .pred c k l q => !(c == b.core && k == m.slot && hasBit done l && (g.active m p l || p.zero) && i.predDst == some q)
          | .rec_ c k r => !(c == b.core && k == m.slot && done != 0 && (recWrites b.current.toNat).contains r.val)
          | _ => true }) s

/-- R104: a completed token that a word which executed has overwritten is an ordinary register. -/
def State.overwritten (s before : State) (b : Bundle) (i : WordInfo) : State :=
  if i.writes.isEmpty then s
  else (before.members b).foldl (fun s m => match before.group? b.core m.slot with
    | some g => if i.denied g || !(g.tokens.any fun t => t.done && i.writes.contains t.reg && !i.peeks.contains t.reg) || s.executed b m == 0 then s
        else s.modGroup b.core m.slot fun g => { g with tokens := g.tokens.filter fun t => !(t.done && i.writes.contains t.reg && !i.peeks.contains t.reg) }
    | none => s) s

/-- Cycles of the pipe that the word occupies (R95). -/
def WordInfo.cost (i : WordInfo) (groups : Nat) : Nat := if i.uniform then i.cycles * groups else i.cycles

/-- R132, R175, R178, R293, R349: result latency of the fixed-latency words that write lane registers, by major; 0 where the spec gives
none (log 69). -/
def latencyOf (major : Nat) : Nat :=
  if major = 0x02 ∨ major = 0x03 ∨ major = 0x10 ∨ major = 0x11 then 4
  else if major = 0x12 ∨ major = 0x13 ∨ major = 0x2B then 12
  else if major < 0x1C then 2
  else if major = 0x22 then 8
  else if major = 0x28 ∨ major = 0x35 ∨ major = 0x39 then 6
  else if major < 0x2B ∨ major = 0x36 then 4
  else 0

/-- R150, R151: where in its register a fixed-latency word of a major writes, under a MOD: a narrowing CVT writes one element. -/
def resultWindow (w mod : Nat) : Nat × Nat :=
  let func := fieldOf w 0 7
  if fieldOf w 25 7 ≠ 0x2A then (0, 32)
  else if [0x00, 0x01, 0x0C, 0x0D, 0x14, 0x15].contains func then (16 * mod, 16)
  else if [0x04, 0x05, 0x0E, 0x0F, 0x16, 0x17, 0x1E].contains func then (8 * mod, 8)
  else (0, 32)

/-- R132: the word's results of one group land when its latency has passed. -/
def State.noteLanding (s before : State) (b : Bundle) (i : WordInfo) (m : Member) : State :=
  let lat := latencyOf (fieldOf b.current.toNat 25 7)
  if lat = 0 || i.pip || i.token.isSome || (i.laneWrites b.pfx).isEmpty then s
  else match before.group? b.core m.slot with
    | none => s
    | some g =>
      let p := b.pfx.getD {}
      let now := (before.cores[b.core]).cycles
      let win := resultWindow b.current.toNat p.mod
      let done := s.executed b m
      let new := ((maskLanes done).filter fun l : Lane => g.active m p l || p.zero).flatMap fun l => (i.laneWrites b.pfx).map fun n =>
        let row := rowOf g.ring (g.threads[l]).turn n
        if g.active m p l then (⟨l, row, win.1, win.2, now + i.cycles - 1 + lat⟩ : Landing) else ⟨l, row, 0, 32, now + i.cycles - 1 + lat⟩
      s.modGroup b.core m.slot fun g => { g with landing := (g.landing.filter fun x => decide (now < x.time)) ++ new }

/-- R49, R95: the threads still in the bundle after its last word stand at the next clause. -/
def State.endClause (s : State) (b : Bundle) : State :=
  (b.members.map (s.trim b.core)).foldl (fun s m => s.modGroup b.core m.slot fun g => g.mapThreads fun l t =>
    if hasBit (m.sel ||| m.skip) l then { t with run := .ready, pc := b.after, inside := none } else t) s

/-- What follows every word of the bundle that stands first: bookkeeping, the next word or the end of the clause, halts and
time. `before` is the state before the word. Releases from RCV and barriers follow every step (`State.tidy`). -/
def State.finish (s before : State) (b : Bundle) (i : WordInfo) : State :=
  let groups := before.members b
  let s := s.modCore b.core fun x => { x with
    sched := Vector.ofFn fun k : Fin 32 =>
    if groups.any (fun m => m.slot == k) then
      let changed := i.effect || (match before.group? b.core k, s.group? b.core k with
        | some g, some h => !g.sameRegs h
        | _, _ => true)
      (x.sched[k]).issued (b.offset b.here) changed
    else x.sched[k] }
  let s := groups.foldl (fun s m => s.noteLanding before b i m) s
  let b' := { b with idx := b.idx + 1, pfx := none, first := b.first && !i.pip, members := (b.members.map (s.trim b.core)).filter fun m => m.sel ||| m.skip != 0 }
  let last := decide (b.words.length ≤ b.idx + 1)
  let s := if last then s.endClause b else s
  let s := if b.handler then s else groups.foldl (fun s m => s.modGroup b.core m.slot fun g => g.mapThreads fun l t =>
    if hasBit m.sel l then { t with noBp := false } else t) s
  let s := { s with bundles := (if last then [] else [b']) ++ s.bundles.tail }
  let s := groups.foldl (fun s m => match s.group? b.core m.slot with
    | some g => if g.mustHalt then s.haltSlot b.core m.slot else s
    | none => s) s
  let s := groups.foldl (fun s m => (s.endGroup b.core m.slot).settleCvs b.core m.slot) s
  (s.purge).elapse b.core (i.cost groups.length)

/-- R402: the group of a member is in handler mode. -/
def State.handling (s : State) (b : Bundle) (m : Member) : Bool :=
  match s.group? b.core m.slot with | some g => g.handler.isSome | none => false

/-- A trap that follows the word, for lanes of a member as it was before it: threads still in the bundle stand past the word, those that
the word moved stand where it left them. -/
def State.raiseAfter (s : State) (b : Bundle) (m : Member) (lanes : Word) (cls : Nat) (detail : List Word) : State :=
  let inside := s.live b.core m &&& lanes
  let moved := s.moved b m &&& lanes
  let s := s.raise b m.slot (fun l => hasBit (if (s.handling b m) then inside ||| moved else inside) l) cls detail (after := true)
  s.modGroup b.core m.slot fun g => g.mapThreads fun l t =>
    if hasBit moved l && t.trap.isNone && !t.gone then { t with trap := some ⟨cls, b.offset b.here, detail⟩ } else t

/-- R414: the bundle of a single step closes after its word, and its thread raises class 0x12 where it stands then, parked or not. -/
def State.stepped (s before : State) (b : Bundle) : State :=
  if b.step then (before.members b).foldl (fun s m =>
    let detail := [BitVec.ofNat 32 (((List.finRange 32).find? fun l : Lane => hasBit m.sel l.val).getD (0 : Lane)).val]
    (s.raiseAfter b m m.sel 0x12 detail).modGroup b.core m.slot fun g => g.mapThreads fun l t =>
      if hasBit m.sel l && !t.gone && t.trap.isNone then { t with trap := some ⟨0x12, b.offset b.here, detail⟩ } else t) s
  else s

/-- R34, R68: the active threads that executed a word at which CVX was joined raise class 0x13 after it. -/
def State.joinedCvx (s before : State) (b : Bundle) (i : WordInfo) : State :=
  if s.cvxOn b.core then (before.members b).foldl (fun s m =>
    match before.group? b.core m.slot with
    | some g => if g.joinCvx i.reads && !i.denied g then
        s.raiseAfter b m (laneMask fun l => g.active m (b.pfx.getD {}) l) 0x13 [] else s
    | none => s) s
  else s

/-- R413: the breakpoint that the group's next word in the bundle meets. Handler code meets none (log 18). -/
def State.breakAt (s : State) (b : Bundle) (g : Group) : Option Nat :=
  let x := s.cores[b.core]
  if g.handler.isSome || b.pfx.isSome then none
  else if hasBit x.bpctx 6 || fieldOf x.bpctx.toNat 0 6 == g.ctx.val then
    ((List.finRange 4).find? fun n : Fin 4 => (x.bp[n]).msb && fieldOf (x.bp[n]).toNat 2 24 == fieldOf (b.offset b.idx).toNat 2 24).map (·.val)
  else none

/-- R413, R400: the lanes of a member that stop at a breakpoint. -/
def State.breaks (s : State) (b : Bundle) (m : Member) : Option (Nat × Word) :=
  match s.group? b.core m.slot with
  | none => none
  | some g => match s.breakAt b g with
    | none => none
    | some n =>
      let w := laneMask fun l => hasBit m.sel l && !(g.threads[l]).noBp
      if w = 0 then none else some (n, w)

/-- R413: the threads that meet a breakpoint raise class 0x11, and their groups halt. -/
def State.stopAtBreaks (s : State) (b : Bundle) : State :=
  ((s.members b).foldl (fun s m => match s.breaks b m with
    | some (n, w) => (s.raise b m.slot (fun l => hasBit w l) 0x11 [BitVec.ofNat 32 n]).haltSlot b.core m.slot
    | none => s) s).purge

/-- A word that waits for nothing of its own. -/
def alwaysReady (_ : Bundle) (_ : Pfx) (s : State) : State × Bool := (s, true)

/-- A word issues: the first open bundle is the one whose word it is. With no bundle there is no thread to act for; a word
that cannot issue lets a cycle pass (R96). `ready` is a wait of the word's own, with what the word does while it waits; `eff`
is the word's effect on the bundle's threads; `joins` says for which groups the word executes where threads of the others wait at it. -/
def issueWhen (i : WordInfo) (ready : Bundle → Pfx → State → State × Bool) (eff : Bundle → Pfx → State → State)
    (s : State) (joins : Bundle → Member → State → Bool := fun _ _ _ => true) : Host.Outcome State Fault Refusal :=
  match s.bundles with
  | [] => .next s
  | b :: _ =>
    if (s.members b).any fun m => (s.breaks b m).isSome then .next (s.stopAtBreaks b)
    else match i.static b.pfx with
    | some (inPfx, cls) =>
      let at_ := if inPfx then b.here else b.idx
      .next ((s.eachMember b fun m s => s.raise b m.slot (fun l => hasBit m.sel l) cls
        [b.words.getD at_ 0, BitVec.ofNat 32 (at_ + 1)]).finish s b i)
    | none =>
      if s.stalls b i then .next ((s.expireL1 b.core wordSpan).elapse b.core 1)
      else
        let p := b.pfx.getD {}
        let (s0, go) := ready b p s
        if go then
          let s1 := if i.gather then s0.regather b p.mod else s0
          let s2 := (s1.tokenChecks b i joins).eccChecks b i
          .next ((((((eff b p s2).eccClear s2 b i).overwritten s1 b i).joinedCvx s1 b i).stepped s0 b).finish s1 b i)
        else .next (s0.elapse b.core 1)

/-- A word that has no wait of its own. -/
def issue (i : WordInfo) (eff : Bundle → Pfx → State → State) (s : State) : Host.Outcome State Fault Refusal :=
  issueWhen i alwaysReady eff s

/-- R66: a PREFIX word keeps its fields for the next word. -/
def issuePfx (p : Pfx) (s : State) : Host.Outcome State Fault Refusal :=
  match s.bundles with
  | [] => .next s
  | b :: rest =>
    if (s.members b).any fun m => (s.breaks b m).isSome then .next (s.stopAtBreaks b)
    else if s.stalls b {} then .next ((s.expireL1 b.core wordSpan).elapse b.core 1)
    else if b.pfx.isSome ∨ b.words.length ≤ b.idx + 1 then
      .next ((s.eachMember b fun m s => s.raise b m.slot (fun l => hasBit m.sel l) 0x01
        [b.current, BitVec.ofNat 32 (b.idx + 1)]).finish s b {})
    else
      let s1 := (s.members b).foldl (fun s m => s.modCore b.core fun x =>
        { x with sched := x.sched.set m.slot ((x.sched[m.slot]).issued (b.offset b.here) false) }) s
      .next ({ s1 with bundles := { b with idx := b.idx + 1, pfx := some p } :: rest }.elapse b.core 1)

/-- R53, R58, R76: a word that no instruction has raises class 0x01 for the threads of its bundle. -/
def issueIllegal (s : State) : Host.Outcome State Fault Refusal :=
  match s.bundles with
  | [] => .next s
  | b :: _ => .next ((s.eachMember b fun m s => s.raise b m.slot (fun l => hasBit m.sel l) 0x01
      [b.current, BitVec.ofNat 32 (b.idx + 1)]).finish s b {})

/-! ### Lane words -/

/-- R68: an inactive lane under ZERO. -/
def Thread.zeroDst (t : Thread) (g : Group) (i : WordInfo) : Thread :=
  let t := if i.writesBlock then match i.blocks with
    | d :: _ => t.setBlock g.ring (d.regs.filter g.inAllot) fun _ => 0
    | [] => t else t
  match i.predDst with
  | some q => t.setPred q.val false
  | none => t

/-- R34: CVX set by lanes of a word that has completed: the flag, and class 0x13 where it is enabled. -/
def State.laneCvx (s : State) (b : Bundle) (m : Member) (lanes : Lane → Bool) : State :=
  if (List.finRange 32).any lanes then
    let s := s.modGroup b.core m.slot fun g => g.flag cvxBit
    if s.cvxOn b.core then s.raise b m.slot lanes 0x13 [] (after := true) else s
  else s

/-- R114, R68: a block beyond the allotment: the active lanes raise class 0x02, and under ZERO the others write zero to what of the
destination there is. -/
def State.refuseBlock (s : State) (b : Bundle) (p : Pfx) (i : WordInfo) (m : Member) (act : Lane → Bool) : State :=
  (s.modGroup b.core m.slot fun g => g.mapThreads fun l t =>
    if hasBit m.sel l && !act l && p.zero then t.zeroDst g i else t).raise b m.slot act 0x02 [b.current, BitVec.ofNat 32 (b.idx + 1)]

/-- R55 to R57, R68, R114: a fixed-latency word that acts lane by lane: `f` gives the lane's new thread and whether it sets
CVX, from the group and the thread as they stood. -/
def State.lanesFor (s : State) (b : Bundle) (p : Pfx) (i : WordInfo)
    (f : Group → Lane → Thread → Thread × Bool) (m : Member) : State :=
  match s.group? b.core m.slot with
  | none => s
  | some g =>
    let act := g.active m p
    if (i.names b.pfx).all g.inAllot then
      let s := s.setGroup b.core m.slot (some (g.mapThreads fun l t =>
        if act l then (f g l t).1
        else if hasBit m.sel l && p.zero then t.zeroDst g i else t))
      s.laneCvx b m fun l => act l && (f g l g.threads[l]).2
    else s.refuseBlock b p i m act

/-- A fixed-latency lane word. -/
def laneWord (i : WordInfo) (f : Bundle → Pfx → Group → Lane → Thread → Thread × Bool) (s : State) :
    Host.Outcome State Fault Refusal :=
  issue i (fun b p s => s.eachMember b fun m s => s.lanesFor b p i (f b p) m) s

/-- A word of the group pipe: `f` acts once for each group, in ascending slot order (R97). -/
def uniWord (i : WordInfo) (f : Bundle → Member → Group → State → State) (s : State) :
    Host.Outcome State Fault Refusal :=
  issue i (fun b _ s => s.eachMember b fun m s => match s.group? b.core m.slot with
    | some g => f b m g s
    | none => s) s

/-- A U word that writes uniform registers from the group's own state. -/
def uniWrite (i : WordInfo) (f : Group → Group) (s : State) : Host.Outcome State Fault Refusal :=
  uniWord i (fun b m g s => s.setGroup b.core m.slot (some (f g))) s

/-- R99, R100: a pip-tracked word attaches its operation for one group: the results will land later. -/
def State.attachPip (s : State) (b : Bundle) (m : Member) (ws : List LaneWrite) (cvx : Word) (bad : List (Lane × Nat) := [])
    (oob : Bool := false) : State :=
  (s.modGroup b.core m.slot fun g => { g with pip := g.pip.set b.attach (g.pip[b.attach] + 1) }).addOp
    b m.slot m.sel (.pip b.attach ws cvx bad oob)

/-- R102: an asynchronous word of a group marks its token register pending, and its operation starts. Where the word's active lanes have
all raised class 0x18 the register stays as it is, and what the inactive lanes write lands at once (R68, R105). -/
def State.startOp (s : State) (b : Bundle) (m : Member) (token : Nat) (zero : List LaneWrite) (w : Work) : State :=
  match s.group? b.core m.slot with
  | none => s
  | some g =>
    if g.pendingToken token then s.setGroup b.core m.slot (some (zero.foldl (fun g x => g.modThread x.lane fun t => t.land x) g))
    else (s.setGroup b.core m.slot (some (g.startToken token))).addOp b m.slot m.sel w

/-- R68: what the inactive lanes of a word that lands later write under ZERO. -/
def Group.zeroWrites (g : Group) (m : Member) (p : Pfx) (i : WordInfo) : List LaneWrite :=
  if p.zero then (List.finRange 32).flatMap fun l : Lane =>
    if hasBit m.sel l && !g.active m p l then
      match i.blocks with
      | d :: _ => (d.regs.filter g.inAllot).map fun n => ⟨l, rowOf g.ring (g.threads[l]).turn n, 0, 32, 0⟩
      | [] => []
    else []
  else []

/-- R149: a pip-tracked lane word that reads its sources at issue: `f` gives the results of a lane and whether it sets
CVX. -/
def State.pipFor (s : State) (b : Bundle) (p : Pfx) (i : WordInfo)
    (f : Group → Lane → Thread → List LaneWrite × Bool) (m : Member) : State :=
  match s.group? b.core m.slot with
  | none => s
  | some g =>
    let act := g.active m p
    let zero := g.zeroWrites m p i
    if (i.names b.pfx).all g.inAllot then
      let ws := (List.finRange 32).flatMap fun l => if act l then (f g l g.threads[l]).1 else []
      s.attachPip b m (zero ++ ws) (laneMask fun l => act l && (f g l g.threads[l]).2)
    else
      -- R9: a word that traps in every thread changes no pip
      let s := if (List.finRange 32).any act && zero.isEmpty then s else s.attachPip b m zero 0
      s.raise b m.slot act 0x02 [b.current, BitVec.ofNat 32 (b.idx + 1)]

/-- A pip-tracked lane word. -/
def pipWord (i : WordInfo) (f : Bundle → Pfx → Group → Lane → Thread → List LaneWrite × Bool) (s : State) :
    Host.Outcome State Fault Refusal :=
  issue i (fun b p s => s.eachMember b fun m s => s.pipFor b p i (f b p) m) s

end Sys2Proof.Machine
end

