-- ==== Sys2Proof/Machine/Flags.lean ====
section
/-! DEFINITION. Conditions and saturation: the tests of the compare majors (R142) and the clamps that a modifier selects
(R135, R144). The only status flag of the lane words is CVX (R34, R133); where a word sets it its value says so. -/

namespace Sys2Proof.Machine

/-- R142: the condition of ICMP, ICMPI and UCMP with a code. -/
def intCond (code : Nat) (a b : Word) : Bool :=
  match code with
  | 0 => a == b
  | 1 => a != b
  | 2 => a.slt b
  | 3 => !a.slt b
  | 4 => a.ult b
  | 5 => !a.ult b
  | 6 => a.sle b
  | _ => !a.sle b

/-- The order of two exact values, none when they are unordered; a zero has no sign here (R142). -/
def Val.sign : Val → Int
  | .fin neg _ _ => if neg then -1 else 1
  | .inf neg => if neg then -2 else 2
  | _ => 0

/-- a < b for exact dyadic values that are not NaN. -/
def Val.lt (a b : Val) : Bool :=
  match a, b with
  | .fin na ma ea, .fin nb mb eb =>
    let e := min ea eb
    let x : Int := (ma * 2 ^ ((ea - e) / 256).toNat : Nat)
    let y : Int := (mb * 2 ^ ((eb - e) / 256).toNat : Nat)
    decide ((if na then -x else x) < (if nb then -y else y))
  | _, _ => decide (a.sign < b.sign)

/-- R142: the condition of FCMP with a code, on F32 values. -/
def floatCond (code : Nat) (x y : Word) : Bool :=
  let a := FloatFmt.f32.decode x.toNat
  let b := FloatFmt.f32.decode y.toNat
  let uno := a == .nan || b == .nan
  let lt := a.lt b
  let gt := b.lt a
  match code with
  | 0 => !uno && !lt && !gt
  | 1 => uno || lt || gt
  | 2 => !uno && lt
  | 3 => !uno && !lt
  | 4 => !uno
  | 5 => uno
  | 6 => !uno && !gt
  | _ => !uno && gt

/-- R135: an exact integer narrowed as MOD directs: wrapped, SatZ32 or SatN32. -/
def narrow (mod : Nat) (x : Int) : Word :=
  match mod with
  | 1 => BitVec.ofInt 32 (satZ 32 x)
  | 2 => BitVec.ofInt 32 (satN 32 x)
  | _ => BitVec.ofInt 32 x

/-- R135: an operand as Z32 under MOD 0 and 1, as N32 under MOD 2. -/
def intOf (mod : Nat) (x : Word) : Int := if mod = 2 then (x.toNat : Int) else x.toInt

/-- R144: the clamp of F32 results to [+0, 1]: NaN, −0 and negatives give +0. -/
def clampUnit (x : Word) : Word :=
  match FloatFmt.f32.decode x.toNat with
  | .nan => 0
  | .inf neg => if neg then 0 else 0x3F800000#32
  | .zero _ => 0
  | .fin neg _ _ => if neg then 0 else if 0x3F800000 < x.toNat then 0x3F800000#32 else x

end Sys2Proof.Machine
end

