-- ==== Sys2Proof/Machine/Operands.lean ====
section
/-! DEFINITION. The operand forms of the block words (R55 to R57, R70): what the word reads at one position of its block, and
the words that write one register at each position. -/

namespace Sys2Proof.Machine

/-- What a block word sees at one position of one lane: A, B, the fourth operand, the old destination, and the prefix
fields that the arithmetic reads. -/
structure ElemIn where
  a    : Word
  b    : Word
  c    : Word
  old  : Word
  mod  : Nat
  mode : RMode
  seed : BitVec 64
  pos  : Nat
  lane : Nat

/-- R31, R134: the SrHash value of element `e` of `n` in the register at this position. -/
def ElemIn.u (x : ElemIn) (n e : Nat) : Nat := srValue x.mode x.seed (32 * (n * x.pos + e) + x.lane)

/-- The register offset of a position within a block of an extent. -/
def posOff (e : Ext) (pos : Nat) : Nat := 8 * (pos / (extShape e).2) + pos % (extShape e).2

/-- R30: the rounding mode of a prefix; a code without a mode never reaches an effect (R131). -/
def Pfx.mode (p : Pfx) : RMode := (RMode.ofCode p.rnd).getD .rne

/-- The operands at a position (R55 to R57, R70). -/
def LaneOp.elem (op : LaneOp) (fourth : Option Pfx) (p : Pfx) (g : Group) (l : Lane) (t : Thread) (pos : Nat) : ElemIn :=
  let off := posOff op.e pos
  { a := g.src t op.a off
    b := match op.b with
      | .lane n => t.lane g.ring (n.val + off)
      | .imm x => x
      | .none => 0
    c := t.lane g.ring ((match fourth with | some q => q.fourth | none => op.d.val) + off)
    old := t.lane g.ring (op.d.val + off)
    mod := p.mod
    mode := p.mode
    seed := g.seed
    pos := pos
    lane := l.val }

/-- A fixed-latency word that writes one register at each position. -/
def aluWord (op : LaneOp) (rule : PfxRule) (perPos : Nat) (f : ElemIn → Word × Bool) (s : State) :
    Host.Outcome State Fault Refusal :=
  laneWord (laneInfo op rule perPos)
    (fun b p g l t =>
      let regs := (Block.of op.e op.d).regs
      (t.setBlock g.ring regs fun pos => (f (op.elem b.pfx p g l t pos)).1,
       (List.range regs.length).any fun pos => (f (op.elem b.pfx p g l t pos)).2)) s

/-- A fixed-latency word that sets no flag. -/
def pureWord (op : LaneOp) (rule : PfxRule) (perPos : Nat) (f : ElemIn → Word) (s : State) :
    Host.Outcome State Fault Refusal :=
  aluWord op rule perPos (fun x => (f x, false)) s

/-- A pip-tracked word that writes `width` bits at `shift x` of one register at each position (R149, R150). -/
def sfuWord (op : LaneOp) (rule : PfxRule) (width : Nat) (f : ElemIn → Nat × Coded) (s : State) :
    Host.Outcome State Fault Refusal :=
  pipWord (laneInfo op rule 4 true)
    (fun b p g l t =>
      let regs := (Block.of op.e op.d).regs
      let outs := regs.zipIdx.map fun r => (r.1, f (op.elem b.pfx p g l t r.2))
      (outs.map fun o => ⟨l, rowOf g.ring t.turn o.1, o.2.1, width, o.2.2.code⟩, outs.any fun o => o.2.2.cvx)) s

/-- R59: the sign-extended 7-bit immediate. -/
def imm7 (m : BitVec 7) : Word := m.signExtend 32

/-- The operands `vD, vA, vB`. -/
def opAB (e : Ext) (d : Fin 128) (a : LaneSrc) (b : Fin 128) : LaneOp := ⟨e, d, a, .lane b⟩
/-- The operands `vD, vA, imm`. -/
def opAI (e : Ext) (d : Fin 128) (a : LaneSrc) (x : Word) : LaneOp := ⟨e, d, a, .imm x⟩
/-- The operands `vD, vA`. -/
def opA (e : Ext) (d : Fin 128) (a : LaneSrc) : LaneOp := ⟨e, d, a, .none⟩

end Sys2Proof.Machine
end

