-- ==== Sys2Proof/Machine/FloatLane.lean ====
section
/-! DEFINITION. F32, packed F16/BF16 and logarithmic lane words, and the special functions (R144 to R149). -/

namespace Sys2Proof.Machine

/-- IEEE 754 addition before its rounding: an exact zero sum is −0 only when both terms are, or under RDN. -/
def ieeeAdd (mode : RMode) (x y : Val) : Exact :=
  match x, y with
  | .zero a, .zero b => .zero (if a = b then a else mode == .rdn)
  | _, _ => match ((Acc.ofVal x).addVal y).exact with
    | .zero _ => .zero (mode == .rdn)
    | r => r

/-- A product before its rounding. -/
def Val.exact : Val → Exact
  | .nan => .nan
  | .inf n => .inf n
  | .zero n => .zero n
  | .fin n m e => .mag n (.term m e)

/-- IEEE 754 division of dyadic values before its rounding. -/
def ieeeDiv (x y : Val) : Exact :=
  match x, y with
  | .nan, _ => .nan
  | _, .nan => .nan
  | .inf _, .inf _ => .nan
  | .zero _, .zero _ => .nan
  | .inf a, .zero b => .inf (a != b)
  | .inf a, .fin b _ _ => .inf (a != b)
  | .zero a, .inf b => .zero (a != b)
  | .zero a, .fin b _ _ => .zero (a != b)
  | .fin a _ _, .inf b => .zero (a != b)
  | .fin a _ _, .zero b => .inf (a != b)
  | .fin a m e, .fin b m' e' => .mag (a != b) ((Mag.ratio m m').shifted ((e - e') / 256))

/-- The exact value of an F32 register. -/
def f32Val (x : Word) : Val := FloatFmt.f32.decode x.toNat

/-- R144: the value rounded once to F32, and clamped under MOD 1. -/
def f32Result (x : ElemIn) (r : Exact) : Word :=
  let y : Word := BitVec.ofNat 32 (r.round .f32 x.mode (x.u 1 0)).code
  if x.mod = 1 then clampUnit y else y

/-- R144: FADD. -/
def execFadd (e : Ext) (d : Fin 128) (a : LaneSrc) (b : Fin 128) (s : State) : Host.Outcome State Fault Refusal :=
  pureWord (opAB e d a b) ruleRnd1 1 (fun x => f32Result x (ieeeAdd x.mode (f32Val x.a) (f32Val x.b))) s
/-- R144: FSUB. -/
def execFsub (e : Ext) (d : Fin 128) (a : LaneSrc) (b : Fin 128) (s : State) : Host.Outcome State Fault Refusal :=
  pureWord (opAB e d a b) ruleRnd1 1 (fun x => f32Result x (ieeeAdd x.mode (f32Val x.a) (f32Val x.b).neg)) s
/-- R144: FMUL. -/
def execFmul (e : Ext) (d : Fin 128) (a : LaneSrc) (b : Fin 128) (s : State) : Host.Outcome State Fault Refusal :=
  pureWord (opAB e d a b) ruleRnd1 1 (fun x => f32Result x ((f32Val x.a).mul (f32Val x.b)).exact) s
/-- R144: FFMA. -/
def execFfma (e : Ext) (d : Fin 128) (a : LaneSrc) (b : Fin 128) (s : State) : Host.Outcome State Fault Refusal :=
  pureWord (opAB e d a b) ruleRnd1F 1
    (fun x => f32Result x (ieeeAdd x.mode ((f32Val x.a).mul (f32Val x.b)) (f32Val x.c))) s
/-- R144: FDIV. -/
def execFdiv (e : Ext) (d : Fin 128) (a : LaneSrc) (b : Fin 128) (s : State) : Host.Outcome State Fault Refusal :=
  pureWord (opAB e d a b) ruleRnd1 4 (fun x => f32Result x (ieeeDiv (f32Val x.a) (f32Val x.b))) s

/-- R145: a is below b, with −0 below +0; for values that are not NaN. -/
def f32Below (a b : Word) : Bool :=
  let x := f32Val a
  let y := f32Val b
  x.lt y || (!y.lt x && a.msb && !b.msb)

/-- R145: FMIN. -/
def fminWord (a b : Word) : Word :=
  if f32Val a == .nan then (if f32Val b == .nan then 0x7FC00000#32 else b)
  else if f32Val b == .nan then a
  else if f32Below b a then b else a
/-- R145: FMAX. -/
def fmaxWord (a b : Word) : Word :=
  if f32Val a == .nan then (if f32Val b == .nan then 0x7FC00000#32 else b)
  else if f32Val b == .nan then a
  else if f32Below a b then b else a

/-- R145: FMIN. -/
def execFmin (e : Ext) (d : Fin 128) (a : LaneSrc) (b : Fin 128) (s : State) : Host.Outcome State Fault Refusal :=
  pureWord (opAB e d a b) rulePlain 1 (fun x => fminWord x.a x.b) s
/-- R145: FMAX. -/
def execFmax (e : Ext) (d : Fin 128) (a : LaneSrc) (b : Fin 128) (s : State) : Host.Outcome State Fault Refusal :=
  pureWord (opAB e d a b) rulePlain 1 (fun x => fmaxWord x.a x.b) s

/-- R12: the packed elements of a register put back together. -/
def packWord (w : Nat) (codes : List Nat) : Word := BitVec.ofNat 32 (packCodes w codes)

/-- R146: both halves of a packed word, each rounded once. -/
def packed2 (f : FloatFmt) (x : ElemIn) (r : Val → Val → Val → Exact) : Word :=
  packWord 16 ((List.range 2).map fun e =>
    let v (y : Word) := f.decode (fieldOf y.toNat (16 * e) 16)
    ((r (v x.a) (v x.b) (v x.c)).round f x.mode (x.u 2 e)).code)

/-- R146: the format of HADD2 and HMUL2. -/
def halfFmt (mod : Nat) : FloatFmt := if mod = 1 then .bf16 else .f16

/-- R146: HADD2. -/
def execHadd2 (e : Ext) (d : Fin 128) (a : LaneSrc) (b : Fin 128) (s : State) : Host.Outcome State Fault Refusal :=
  pureWord (opAB e d a b) ruleRnd1 1 (fun x => packed2 (halfFmt x.mod) x fun p q _ => ieeeAdd x.mode p q) s
/-- R146: HMUL2. -/
def execHmul2 (e : Ext) (d : Fin 128) (a : LaneSrc) (b : Fin 128) (s : State) : Host.Outcome State Fault Refusal :=
  pureWord (opAB e d a b) ruleRnd1 1 (fun x => packed2 (halfFmt x.mod) x fun p q _ => (p.mul q).exact) s
/-- R146: HFMA2. -/
def execHfma2 (e : Ext) (d : Fin 128) (a : LaneSrc) (b : Fin 128) (s : State) : Host.Outcome State Fault Refusal :=
  pureWord (opAB e d a b) ruleRndF 1 (fun x => packed2 .f16 x fun p q r => ieeeAdd x.mode (p.mul q) r) s
/-- R146: BFMA2. -/
def execBfma2 (e : Ext) (d : Fin 128) (a : LaneSrc) (b : Fin 128) (s : State) : Host.Outcome State Fault Refusal :=
  pureWord (opAB e d a b) ruleRndF 1 (fun x => packed2 .bf16 x fun p q r => ieeeAdd x.mode (p.mul q) r) s

/-- R147: the packed elements of a logarithmic word. -/
def logElems (x : ElemIn) (f : LogFmt → Nat → Nat → Coded) : Word × Bool :=
  let fmt : LogFmt := if x.mod = 1 then .l8 else .l16
  let outs := (List.range (32 / fmt.bits)).map fun e =>
    f fmt (fieldOf x.a.toNat (fmt.bits * e) fmt.bits) (fieldOf x.b.toNat (fmt.bits * e) fmt.bits)
  (packWord fmt.bits (outs.map (·.code)), outs.any (·.cvx))

/-- R147: LADD. -/
def execLadd (e : Ext) (d : Fin 128) (a : LaneSrc) (b : Fin 128) (s : State) : Host.Outcome State Fault Refusal :=
  aluWord (opAB e d a b) ruleRnd1 2 (fun x => logElems x LogFmt.add) s
/-- R147: LMUL. -/
def execLmul (e : Ext) (d : Fin 128) (a : LaneSrc) (b : Fin 128) (s : State) : Host.Outcome State Fault Refusal :=
  aluWord (opAB e d a b) ruleRnd1 1 (fun x => logElems x LogFmt.mul) s

/-- R148: a special function of one F32 operand. -/
def funWord (e : Ext) (d : Fin 128) (a : LaneSrc) (f : Val → Exact) (s : State) : Host.Outcome State Fault Refusal :=
  sfuWord (opA e d a) ruleRnd 32 (fun x => (0, (f (f32Val x.a)).round .f32 x.mode (x.u 1 0))) s

/-- R148: FUN.RCP. -/
def execFunRcp (e : Ext) (d : Fin 128) (a : LaneSrc) (s : State) : Host.Outcome State Fault Refusal :=
  funWord e d a funRcp s
/-- R148: FUN.RSQRT. -/
def execFunRsqrt (e : Ext) (d : Fin 128) (a : LaneSrc) (s : State) : Host.Outcome State Fault Refusal :=
  funWord e d a funRsqrt s
/-- R148: FUN.SQRT. -/
def execFunSqrt (e : Ext) (d : Fin 128) (a : LaneSrc) (s : State) : Host.Outcome State Fault Refusal :=
  funWord e d a funSqrt s
/-- R148: FUN.EXP2. -/
def execFunExp2 (e : Ext) (d : Fin 128) (a : LaneSrc) (s : State) : Host.Outcome State Fault Refusal :=
  funWord e d a funExp2 s
/-- R148: FUN.LOG2. -/
def execFunLog2 (e : Ext) (d : Fin 128) (a : LaneSrc) (s : State) : Host.Outcome State Fault Refusal :=
  funWord e d a funLog2 s
/-- R148: FUN.SINPI. -/
def execFunSinpi (e : Ext) (d : Fin 128) (a : LaneSrc) (s : State) : Host.Outcome State Fault Refusal :=
  funWord e d a funSinpi s
/-- R148: FUN.COSPI. -/
def execFunCospi (e : Ext) (d : Fin 128) (a : LaneSrc) (s : State) : Host.Outcome State Fault Refusal :=
  funWord e d a funCospi s
/-- R148: FUN.TANH. -/
def execFunTanh (e : Ext) (d : Fin 128) (a : LaneSrc) (s : State) : Host.Outcome State Fault Refusal :=
  funWord e d a funTanh s
/-- R148: FUN.LOGISTIC. -/
def execFunLogistic (e : Ext) (d : Fin 128) (a : LaneSrc) (s : State) : Host.Outcome State Fault Refusal :=
  funWord e d a funLogistic s

end Sys2Proof.Machine
end

