-- ==== Sys2Proof/Machine/Translate.lean ====
section
/-! DEFINITION. Translation: page tables, companion words, the record-translation caches and the fault queue (R352 to R366,
R422). -/

namespace Sys2Proof.Machine

/-- R357: who translates: a core, or a Board agent acting for a chiplet. -/
inductive Agent where
  | core (c : CoreId)
  | board (chip : Fin 8)
  deriving DecidableEq, Repr

/-- The chiplet that an agent acts for. -/
def Agent.chip : Agent → Fin 8
  | .core c => chipOf c
  | .board d => d

/-- R355: how the translation of an address ends. -/
inductive Walk where
  | ok (pa : Nat) (key : Option (Fin 8))
  | page
  | failure
  deriving DecidableEq, Repr

/-- What a walk finds: a leaf, or an outcome without one. -/
inductive Leaf where
  | leaf (e : TlbEntry)
  | page
  | failure
  deriving DecidableEq, Repr

/-- The tenant that a context belongs to (R422). -/
def State.tenantOf (s : State) (ctx : Fin 64) : Option (Fin 8) :=
  (List.finRange 8).find? fun n : Fin 8 => (s.board.tenants[n]).getLsbD 63 && (s.board.tenants[n]).getLsbD (64 + ctx.val)

/-- R355: the address is in a reserved range, or in HBM without a valid region. -/
def State.unreachable (s : State) (pa : Nat) : Bool := !mapped pa || s.noRegion pa

/-- R422: the tenant of a context may name the key slot. -/
def State.keyAllowed (s : State) (ctx : Fin 64) (k : Fin 8) : Bool :=
  match s.tenantOf ctx with
  | some n => (s.board.tenants[n]).getLsbD (47 + k.val)
  | none => false

/-- R353: the levels of the table: lowest virtual bit indexed, and the number of bits. -/
def walkLevels : List (Nat × Nat) := [(43, 14), (30, 13), (21, 9), (16, 5)]

/-- The bytes from a physical address on, in plain storage. -/
def plainBytes (pa n : Nat) : List Target := (List.range n).map fun i => .phys (pa + i) none

/-- R355: what an acquire load at `pkg` by a walk takes. -/
def State.walkTake (s : State) (pa n : Nat) : List (Byte × Option Nat) :=
  s.take (s.spreadTo .device (s.reach 5) (plainBytes pa n)) none (plainBytes pa n)

/-- R358: the table entry at a physical address as a walk reads it: the walk caches may hold a non-leaf entry. -/
def State.entryAt (s : State) (ctx : Fin 64) (pa : Nat) : Nat :=
  match s.board.walks.find? fun w => w.1 == ctx && w.2.1 == pa with
  | some w => w.2.2
  | none => leValue ((s.walkTake pa 8).map (·.1))

/-- R353 to R356: the walk from a table down. -/
def State.walkGo (s : State) (ctx : Fin 64) (va : Nat) : Nat → List (Nat × Nat) → Leaf
  | _, [] => .failure
  | table, (lo, len) :: rest =>
    let i := fieldOf va lo len
    if s.unreachable (table + 8 * i) then .failure
    else
      let e := s.entryAt ctx (table + 8 * i)
      let leaf := e.testBit 1
      let addr := fieldOf e 7 45 * 128
      if !e.testBit 0 then .page
      else if fieldOf e 60 4 ≠ 0 ∨ fieldOf e 52 4 ≠ 0 ∨ fieldOf e 3 4 ≠ 0 then .failure
      else if leaf then
        let comp := table + 8 * 2 ^ len + 4 * i
        let k : Fin 8 := ⟨fieldOf e 56 3, Nat.mod_lt _ (by decide)⟩
        if len = 14 ∨ addr % 2 ^ lo ≠ 0 then .failure
        else if !mapped addr || !mapped (addr + 2 ^ lo - 1) then .failure
        else if e.testBit 59 && !s.keyAllowed ctx k then .failure
        else .leaf ⟨ctx, va / 2 ^ lo * 2 ^ lo, lo, addr, comp, if e.testBit 59 then some k else none, e.testBit 2,
          (s.readNat none comp 4).testBit 9, .none⟩
      else s.walkGo ctx va addr rest

/-- R356, R357: the companion word of the leaf entry that a walk reaches: the entries of level 3, and those above it but for level 0
that LEAF marks. -/
def State.leafComp (s : State) (ctx : Fin 64) (va : Nat) : Nat → List (Nat × Nat) → Option Nat
  | _, [] => none
  | table, (lo, len) :: rest =>
    let i := fieldOf va lo len
    if s.unreachable (table + 8 * i) then none
    else
      let e := s.entryAt ctx (table + 8 * i)
      let addr := fieldOf e 7 45 * 128
      if len = 5 ∨ (e.testBit 1 ∧ len ≠ 14) then some (table + 8 * 2 ^ len + 4 * i)
      else if !e.testBit 0 || e.testBit 1 then none
      else if fieldOf e 60 4 ≠ 0 ∨ fieldOf e 52 4 ≠ 0 ∨ fieldOf e 3 4 ≠ 0 then none
      else s.leafComp ctx va addr rest

/-- R358: the valid non-leaf entries that a walk reads, by physical address. -/
def State.walkPath (s : State) (ctx : Fin 64) (va : Nat) : Nat → List (Nat × Nat) → List (Fin 64 × Nat × Nat)
  | _, [] => []
  | table, (lo, len) :: rest =>
    let pa := table + 8 * fieldOf va lo len
    if s.unreachable pa then []
    else
      let e := s.entryAt ctx pa
      if !e.testBit 0 || e.testBit 1 || fieldOf e 60 4 != 0 || fieldOf e 52 4 != 0 || fieldOf e 3 4 != 0 then []
      else (ctx, pa, e) :: s.walkPath ctx va (fieldOf e 7 45 * 128) rest

/-- R358: the entries that a walk reads from memory, by physical address. -/
def State.walkReads (s : State) (ctx : Fin 64) (va : Nat) : Nat → List (Nat × Nat) → List Nat
  | _, [] => []
  | table, (lo, len) :: rest =>
    let pa := table + 8 * fieldOf va lo len
    if s.unreachable pa then []
    else
      let e := s.entryAt ctx pa
      (if s.board.walks.any fun w => w.1 == ctx && w.2.1 == pa then [] else [pa])
      ++ if !e.testBit 0 || e.testBit 1 || fieldOf e 60 4 != 0 || fieldOf e 52 4 != 0 || fieldOf e 3 4 != 0 then []
        else s.walkReads ctx va (fieldOf e 7 45 * 128) rest

/-- R218, R355: what the acquire loads of a walk hear of. -/
def State.walkHeard (s : State) (ctx : Fin 64) (va : Nat) : View :=
  if s.writes.isEmpty then .none
  else s.heard .device (s.reach 5)
    ((s.walkReads ctx va s.board.roots[ctx] walkLevels).flatMap fun pa => (s.walkTake pa 8).filterMap (·.2)).eraseDups

/-- R357: an atomic OR into a companion word at the far atomic unit. -/
def State.orCompanion (s : State) (comp bits : Nat) : State :=
  (s.touch .home none comp false true).plainWrite none comp (leBytes 4 (s.readNat none comp 4 ||| bits))

/-- R357, R358, R373: the start of a walk: the entries on its way are read through the Board's caches, which the walk caches then hold where
they are no leaves, and the leaf's companion word has the bit of its agent, before the leaf is read. -/
def State.walkFrom (s : State) (ctx : Fin 64) (va bit : Nat) : State :=
  let root := s.board.roots[ctx]
  let path := s.walkPath ctx va root walkLevels
  let s := s.touchBytes .board none (s.walkReads ctx va root walkLevels) false
  let s := { s with board := { s.board with walks := s.board.walks ++ path.filter fun w => !s.board.walks.contains w } }
  match s.leafComp ctx va root walkLevels with
  | some comp => s.orCompanion comp (2 ^ bit)
  | none => s

/-- The translations that an agent's cache holds (R358). -/
def State.tlbOf (s : State) : Agent → List TlbEntry
  | .core c => (s.cores[c]).tlb
  | .board d => s.board.tlb[d]

/-- Sets an agent's cache. -/
def State.setTlb (s : State) (a : Agent) (t : List TlbEntry) : State :=
  match a with
  | .core c => s.modCore c fun x => { x with tlb := t }
  | .board d => { s with board := { s.board with tlb := s.board.tlb.set d t } }

/-- The entry maps an address of a context. -/
def TlbEntry.maps (e : TlbEntry) (ctx : Fin 64) (va : Nat) : Bool := e.ctx == ctx && va / 2 ^ e.size * 2 ^ e.size == e.va

/-- R361: uses an entry: the D bit before the first write (R357), and the region check (R355). -/
def State.useEntry (s : State) (a : Agent) (e : TlbEntry) (va : Nat) (write : Bool) : State × Walk :=
  let first := write && !e.d
  let s := if first then s.orCompanion e.comp (2 ^ 9) else s
  let e := if first then { e with d := true } else e
  let s := s.setTlb a (e :: (s.tlbOf a).filter fun x => !x.maps e.ctx e.va)
  let pa := e.pa + va % 2 ^ e.size
  if s.unreachable pa then (s, .failure) else (s, .ok pa e.key)

/-- R355 to R358: an agent translates an address of a context. A cached entry without W does not serve a write (log 17). -/
def State.translate (s : State) (a : Agent) (ctx : Fin 64) (va : Nat) (write : Bool) : State × Walk :=
  match (s.tlbOf a).find? fun e => e.maps ctx va && (e.w || !write) with
  | some e => s.useEntry a e va write
  | none =>
    let s := s.walkFrom ctx va a.chip.val
    match s.walkGo ctx va s.board.roots[ctx] walkLevels with
    | .page => (s, .page)
    | .failure => (s, .failure)
    | .leaf e => if write && !e.w then (s, .page) else s.useEntry a { e with heard := s.walkHeard ctx va } va write

/-- R355: what has happened before an access by an agent's cached translation of an address, beside what its own agent knows. -/
def State.heardAt (s : State) (a : Agent) (ctx : Fin 64) (va : Nat) : View :=
  (((s.tlbOf a).find? fun e => e.maps ctx va).map (·.heard)).getD .none

/-- R363: adds a fault entry; its number is the one that `nextId` held. -/
def State.addFault (s : State) (ctx : Fin 64) (c : CoreId) (k : Slot) (lanes : Word) (va kind : Nat) : State :=
  { s with faults := s.faults ++ [⟨s.nextId, ctx, c, k, lanes, va / 128 * 128, kind, 0⟩], nextId := s.nextId + 1 }

/-- R363: the entries that the context's queue of 256 shows to firmware; the others wait. -/
def State.faultQueue (s : State) (ctx : Fin 64) : List FaultEntry := (s.faults.filter fun f => f.ctx == ctx).take 256

end Sys2Proof.Machine
end

