-- ==== Sys2Proof/Machine/Address.lean ====
section
/-! DEFINITION. Buffer records, element addresses and the ordered checks that every memory word makes (R181 to R196, R247,
R250 to R252). -/

namespace Sys2Proof.Machine

/-! ### Records and segments -/

/-- R184: the fields of a buffer record. -/
structure Rec where
  tag     : Nat
  trapoob : Bool
  ply     : Bool
  ro      : Bool
  comp    : Bool
  rowhome : Bool
  faramo  : Bool
  swz     : Nat
  stride  : Nat
  extent  : Nat
  size    : Nat
  seg     : Nat
  base    : Nat
  deriving DecidableEq, Repr

/-- R184: reads a record. -/
def Rec.of (b : BitVec 128) : Rec :=
  let x := b.toNat
  { tag := fieldOf x 122 6, trapoob := x.testBit 121, ply := x.testBit 120, ro := x.testBit 119, comp := x.testBit 118
    rowhome := x.testBit 117, faramo := x.testBit 116, swz := fieldOf x 112 4, stride := fieldOf x 96 16
    extent := fieldOf x 64 32, size := fieldOf x 61 3, seg := fieldOf x 57 4, base := fieldOf x 0 57 }

/-- R184: writes a record. -/
def Rec.bits (r : Rec) : BitVec 128 :=
  BitVec.ofNat 128 (r.base % 2 ^ 57 + r.seg % 16 * 2 ^ 57 + r.size % 8 * 2 ^ 61 + r.extent % 2 ^ 32 * 2 ^ 64
    + r.stride % 2 ^ 16 * 2 ^ 96 + r.swz % 16 * 2 ^ 112 + r.faramo.toNat * 2 ^ 116 + r.rowhome.toNat * 2 ^ 117
    + r.comp.toNat * 2 ^ 118 + r.ro.toNat * 2 ^ 119 + r.ply.toNat * 2 ^ 120 + r.trapoob.toNat * 2 ^ 121
    + r.tag % 64 * 2 ^ 122)

/-- The element size in bytes. -/
def Rec.elem (r : Rec) : Nat := 2 ^ r.size

/-- R188: the effective stride. -/
def Rec.step (r : Rec) : Nat := if r.stride = 0 then r.elem else r.stride

/-- R182: the limit of a segment. -/
def segLimit (x : BitVec 128) : Nat := fieldOf x.toNat 64 57
/-- R182. -/
def segReadOnly (x : BitVec 128) : Bool := x.getLsbD 57
/-- R182. -/
def segBase (x : BitVec 128) : Nat := fieldOf x.toNat 0 57

/-- R182: a segment register. -/
def segOf (base limit : Nat) (ro : Bool) : BitVec 128 :=
  BitVec.ofNat 128 (base % 2 ^ 57 + ro.toNat * 2 ^ 57 + limit % 2 ^ 57 * 2 ^ 64)

/-- R189: the offset under a swizzle code. -/
def swizzle (code a : Nat) : Nat :=
  match code with
  | 1 => a ^^^ (fieldOf a 7 2 * 16)
  | 2 => a ^^^ (fieldOf a 7 3 * 16)
  | 3 => a ^^^ (fieldOf a 10 3 * 16)
  | 4 => a ^^^ (fieldOf a 7 5 * 4)
  | 5 => a ^^^ (fieldOf a 9 5 * 4)
  | _ => a

/-- R188: the offset of element `n`. -/
def Rec.offset (r : Rec) (n : Nat) : Nat := swizzle r.swz (r.base + n * r.step)

/-- R185: the record's own fields are legal for a word (`plyWord`: a ply instruction). -/
def Rec.legal (r : Rec) (plyWord : Bool) : Bool :=
  (Tag.ofCode r.tag).isSome && decide (r.seg < 8) && decide (r.size < 6) && decide (r.swz < 6) && (!r.ply || plyWord)

/-- R207: the segment's lines are held by L1s. -/
def segCached (seg : Nat) : Bool := seg == 0 || seg == 1 || seg == 4 || seg == 6

/-- R247: the exact cells granted to a context's tenant. -/
def State.cellCount (s : State) (ctx : Fin 64) : Nat :=
  match s.tenantOf ctx with
  | some n => s.board.cellGrant[n]
  | none => 0

/-! ### What a word asks for -/

/-- What a memory word asks of its record. The three tests see the record; `det` also sees whether the location is an exact
cell (R251), `fits` is the last case of R185. -/
structure Access where
  record  : BitVec 128
  /-- KIND of R363: 0 read, 1 write, 2 atomic. -/
  kind    : Nat
  /-- Access size and alignment of an element. -/
  size    : Nat
  align   : Nat
  /-- The block positions p of the elements (R188). -/
  poss    : List Nat
  fits    : Bool
  /-- R229, R207: segments that the word may use. -/
  segs    : List Nat
  /-- R250: the word may touch an exact cell. -/
  cellOk  : Bool
  /-- R251: the word violates determinism wherever it acts, and on what is no exact cell. -/
  detWord : Bool := false
  det     : Bool := false
  /-- R229: a segment that the word may not use is refused to each thread that executes it, whether it has an element in bounds or not. -/
  barAll  : Bool := false
  plyWord : Bool := false
  /-- R270: the access as a whole is misaligned, wherever its elements lie; the virtual address that the trap names. -/
  crooked : Option Nat := none
  /-- R191: an element out of bounds sets BOUNDS. -/
  notes   : Bool := true

/-- An element in bounds, with the address of each of its bytes. -/
structure Elem where
  pos  : Nat
  n    : Nat
  off  : Nat
  cell : Bool
  deriving DecidableEq, Repr

/-- How a thread passed the checks. -/
inductive Verdict where
  | trap (cls : Nat) (detail : List Word)
  | park (lines : List Nat)
  /-- The elements in bounds, with the target of each byte; and the positions out of bounds. -/
  | pass (elems : List (Elem × List Target)) (oob : List Nat)

/-- R399: detail words of class 0x06, 0x07 and 0x08. -/
def vaDetail (cause va : Nat) : List Word :=
  [BitVec.ofNat 32 cause, BitVec.ofNat 32 (va / 128 * 128), BitVec.ofNat 32 (va / 2 ^ 32)]

/-- R188, R195: the virtual address of a byte at an offset of a segment, for a thread of a team with private size p. -/
def segVa (seg : Nat) (base p thread o : Nat) : Nat :=
  if seg = 1 then (base + thread / 32 * 32 * p + o / 4 * 128 + thread % 32 * 4 + o % 4) % 2 ^ 57
  else (base + o) % 2 ^ 57

/-- The segment that a record names. -/
def Group.segment (g : Group) (r : Rec) : BitVec 128 := g.seg[(⟨r.seg % 8, Nat.mod_lt _ (by decide)⟩ : Fin 8)]

/-- The virtual address of byte `i` of an element of a thread of the group; `lane` is its home lane. -/
def Group.byteVa (g : Group) (r : Rec) (lane : Nat) (off i : Nat) : Nat :=
  segVa r.seg (segBase (g.segment r)) (segLimit (g.segment r)) (32 * g.gid + lane) (off + i)

/-- R190 steps 1 to 5 for one thread whose index is `x`: the trap it raises, or its elements. -/
def Group.check (g : Group) (a : Access) (cells : Nat) (lane : Nat) (x : Int) : (Nat × List Word) ⊕ (List Elem × List Nat) :=
  let r := Rec.of a.record
  let ns := a.poss.map fun p : Nat => (p, x + (p : Int))
  let isIn := fun q : Nat × Int => decide ((0 : Int) ≤ q.2) && decide (q.2 < (r.extent : Int))
  let inb := ns.filter isIn
  let oob := ns.filter fun q => !isIn q
  let elems : List Elem := inb.map fun q =>
    let off := r.offset q.2.toNat
    ⟨q.1, q.2.toNat, off, r.seg == 3 && decide (off < 4 * cells)⟩
  let sg := g.segment r
  -- R399: the virtual address of an element; scratch has none (R252), and one beyond seg1's limit has none (R188)
  let va := fun (e : Elem) => if r.seg = 2 ∨ (r.seg = 1 ∧ segLimit sg < e.off + a.size) then 0 else g.byteVa r lane e.off 0
  let first := match elems with
    | e :: _ => if e.pos = a.poss.headD 0 then va e else 0
    | [] => 0
  if !r.legal a.plyWord || !a.fits || (!a.cellOk && elems.any (·.cell)) then .inl (0x02, [])
  else if a.kind ≠ 0 ∧ r.ro then .inl (0x06, vaDetail 0 first)
  else match (if r.trapoob then oob else []) with
  | q :: _ => .inl (0x04, [0, BitVec.ofInt 32 q.2])
  | [] =>
    -- step 4: a read-only segment and one that the word may not use fail every element in bounds, so the first; a thread without one
    -- is not trapped by RDONLY (DESIGN CHOICE, log 83)
    let closed := a.kind ≠ 0 ∧ segReadOnly sg ∨ !a.segs.contains r.seg
    match elems.find? fun e => decide (closed ∨ segLimit sg < e.off + a.size) with
    | some e => .inl (0x06, vaDetail 0 (va e))
    | none =>
      if a.barAll ∧ !a.segs.contains r.seg then .inl (0x06, vaDetail 0 0)
      else if g.det && (a.detWord || elems.any fun e => !e.cell && a.det) then .inl (0x0E, [])
      else match a.crooked, elems.find? fun e => e.off % a.align != 0 with
        | some v, _ => .inl (0x07, vaDetail 0 v)
        | none, some e => .inl (0x07, vaDetail 0 (va e))
        | none, none => .inr (elems, oob.map (·.1))

/-- The lines of a thread's elements, lowest element first. -/
def Group.linesOf (g : Group) (a : Access) (lane : Nat) (es : List Elem) : List Nat :=
  let r := Rec.of a.record
  if r.seg = 2 then []
  else (es.flatMap fun e => (List.range a.size).map fun i => g.byteVa r lane e.off i / 128).eraseDups

/-- R192: each distinct line of a context is translated once. -/
def State.translateLines (s : State) (ag : Agent) (ctx : Fin 64) (write : Bool) (lines : List Nat) :
    State × List (Nat × Walk) :=
  lines.foldl (fun acc l => let r := acc.1.translate ag ctx (l * 128) write; (r.1, acc.2 ++ [(l, r.2)])) (s, [])

/-- R252: where a seg2 offset of a team lies. -/
def State.scratchTarget (s : State) (t : Team) (off : Nat) : Target :=
  let p := (s.cores[t.core]).part
  .scratch (t.cores.getD (if p = 0 then 0 else off / p) t.core) (if p = 0 then off else off % p)

/-- R420: a request to the physical address is refused: it names this package itself as a peer, or a peer that can be reached and has no
export for it or does not translate it. What a peer's own tables hold is a free value, which may change from bundle to bundle (log 81). -/
def State.peerRefuses (s : State) (pa : Nat) : Bool :=
  decide (peerBase ≤ pa) && decide (pa < hostBase) && ((pa - peerBase) / 2 ^ 38 == s.board.pkg
    || (!s.peerLost pa && !Config.peerServes s.nextId ((pa - peerBase) / 2 ^ 38) ((pa - peerBase) % 2 ^ 38)))

/-- What the translated line of a byte gives. -/
def lookupLine (walks : List (Nat × Walk)) (va : Nat) : Walk :=
  ((walks.find? fun w => w.1 == va / 128).map (·.2)).getD .failure

/-- The target of byte `i` of an element. -/
def State.byteTarget (s : State) (g : Group) (t : Team) (a : Access) (walks : List (Nat × Walk)) (lane off i : Nat) : Target :=
  let r := Rec.of a.record
  if r.seg = 2 then s.scratchTarget t (off + i)
  else
    let va := g.byteVa r lane off i
    match lookupLine walks va with
    | .ok pa key => if r.seg = 1 then .own t.key (va - segBase (g.segment r)) (pa + va % 128) key else .phys (pa + va % 128) key
    | _ => .phys 0 none

/-- R192, R355: the thread's outcome once its lines have been translated. -/
def State.settleThread (s : State) (g : Group) (t : Team) (a : Access) (walks : List (Nat × Walk)) (lane : Nat)
    (es : List Elem) (oob : List Nat) : Verdict :=
  let lines := g.linesOf a lane es
  let bad := lines.find? fun l => match lookupLine walks (l * 128) with
    | .failure => true
    | .ok pa _ => s.peerRefuses pa
    | .page => false
  match bad with
  | some l => .trap 0x06 (vaDetail 5 (l * 128))
  | none =>
    match lines.filter fun l => lookupLine walks (l * 128) == .page with
    | [] => .pass (es.map fun e => (e, (List.range a.size).map fun i => s.byteTarget g t a walks lane e.off i)) oob
    | ls => .park ls

/-- R363, R364: threads park: one entry for each distinct faulting line of the group; each thread waits for the entries of
its own lines. -/
def State.park (s : State) (b : Bundle) (m : Member) (ctx : Fin 64) (kind : Nat) (parks : List (Lane × List Nat)) : State :=
  let lines := (parks.flatMap (·.2)).eraseDups
  let first := s.nextId
  let s := lines.foldl (fun s l =>
    s.addFault ctx b.core m.slot (laneMask fun x => parks.any fun q => q.1 == x && q.2.contains l) (l * 128) kind) s
  s.modGroup b.core m.slot fun g => g.mapThreads fun l t =>
    match parks.find? fun q => q.1 == l with
    | some q => t.standAt b b.here (.parked ((lines.zipIdx.filter fun x => q.2.contains x.1).map fun x => first + x.2) false)
    | none => t

/-- The detail words of a trap at the word that is issuing. -/
def Bundle.detail (b : Bundle) (rec_ : Nat) (cls : Nat) (d : List Word) : List Word :=
  if cls = 0x02 then [b.current, BitVec.ofNat 32 (b.idx + 1)]
  else if cls = 0x0E then [b.current]
  else if cls = 0x04 then BitVec.ofNat 32 rec_ :: d.drop 1
  else d

/-- R126, R191: BOUNDS, once for the word. -/
def State.noteBounds (s : State) (b : Bundle) (m : Member) (any : Bool) : State :=
  if any then s.modGroup b.core m.slot fun g => g.flag boundsBit else s

/-- A thread that passed: its elements with their targets, and the positions out of bounds. -/
structure Passed where
  lane  : Lane
  elems : List (Elem × List Target)
  oob   : List Nat

/-- R355: a thread's access comes after the walks that translated it. -/
def State.hearWalk (s : State) (b : Bundle) (m : Member) (l : Lane) (at_ : List (Fin 64 × Nat)) : State :=
  let v := View.joins (at_.map fun x => s.heardAt (.core b.core) x.1 x.2)
  if v = .none then s else s.modOrds b.core m.slot (oneBit l.val) fun _ o => o.hear v

/-- R190 to R192 for the threads of one group: traps and parking happen, and the threads that pass are returned. `each` gives
the access and the index of a lane. -/
def State.place (s : State) (b : Bundle) (m : Member) (record : Nat) (a : Access) (act : Lane → Bool) (index : Lane → Int) :
    State × List Passed :=
  match s.group? b.core m.slot with
  | none => (s, [])
  | some g =>
    match s.team? g.team with
    | none => (s, [])
    | some t =>
      let cells := s.cellCount g.ctx
      let firsts := ((List.finRange 32).filter act).map fun l : Lane => (l, g.check a cells l.val (index l))
      let lines := (firsts.flatMap fun f => match f.2 with
        | .inr r => g.linesOf a f.1.val r.1
        | .inl _ => []).eraseDups
      let r := s.translateLines (.core b.core) g.ctx (a.kind != 0) lines
      let verdicts := firsts.map fun f => (f.1, match f.2 with
        | .inl e => Verdict.trap e.1 e.2
        | .inr q => r.1.settleThread g t a r.2 f.1.val q.1 q.2)
      let s := r.1
      let traps := verdicts.filterMap fun v => match v.2 with | .trap c d => some (v.1, c, d) | _ => none
      let parks := verdicts.filterMap fun v => match v.2 with | .park ls => some (v.1, ls) | _ => none
      let passed := verdicts.filterMap fun v => match v.2 with | .pass es oob => some (⟨v.1, es, oob⟩ : Passed) | _ => none
      let s := traps.foldl (fun s q => s.raise b m.slot (fun l => l == q.1) q.2.1 (b.detail record q.2.1 q.2.2)) s
      let s := if parks.isEmpty then s else s.park b m g.ctx a.kind parks
      let s := passed.foldl (fun s q => s.hearWalk b m q.lane ((g.linesOf a q.lane.val (q.elems.map (·.1))).map fun l => (g.ctx, l * 128))) s
      (s.noteBounds b m (a.notes && passed.any fun p => !p.oob.isEmpty), passed)

/-- The same for a word that makes one access for the group (R206): every thread of the group in the bundle shares the
outcome, and the passed access is that of lane 0. -/
def State.placeGroup (s : State) (b : Bundle) (m : Member) (record : Nat) (a : Access) (x : Int) :
    State × Option Passed :=
  match s.group? b.core m.slot with
  | none => (s, none)
  | some g =>
    match s.team? g.team with
    | none => (s, none)
    | some t =>
      match g.check a (s.cellCount g.ctx) 0 x with
      | .inl e => (s.raise b m.slot (fun l => hasBit m.sel l) e.1 (b.detail record e.1 e.2), none)
      | .inr q =>
        let r := s.translateLines (.core b.core) g.ctx (a.kind != 0) (g.linesOf a 0 q.1)
        match r.1.settleThread g t a r.2 0 q.1 q.2 with
        | .trap c d => (r.1.raise b m.slot (fun l => hasBit m.sel l) c (b.detail record c d), none)
        | .park ls => (r.1.park b m g.ctx a.kind (((List.finRange 32).filter fun l : Lane => hasBit m.sel l).map fun l => (l, ls)), none)
        | .pass es oob =>
          let s := (maskLanes m.sel).foldl (fun s l => s.hearWalk b m l ((g.linesOf a 0 (es.map (·.1))).map fun l => (g.ctx, l * 128))) r.1
          (s.noteBounds b m (a.notes && !oob.isEmpty), some ⟨0, es, oob⟩)

/-! ### Reading and writing targets -/

/-- R204, R420, R424: the byte of a target is poisoned. A private byte that its thread has not written reads as zero whatever memory
holds (R196). -/
def State.poisonedTarget (s : State) : Target → Bool
  | .phys pa _ => s.peerLost pa || s.poisonedPa pa
  | .scratch d off => s.ecc.contains (.scratch d (off / 4))
  | .own k off pa key => !s.unwritten (.own k off pa key) && s.poisonedPa pa

/-- What the caches below the L1s see of a word's lines (R373). -/
def State.touchAll (s : State) (p : Port) (comp write : Bool) (ts : List Target) : State :=
  ((ts.filterMap Target.pa?).map fun t => (t.1 / 128 * 128, t.2)).eraseDups.foldl (fun s t => s.touch p t.2 t.1 comp write) s

/-- The lines of some targets that the core's L1 does not hold in full for a load. -/
def State.missing (s : State) (c : CoreId) (cached : Bool) (ts : List Target) : List Target :=
  ts.filter fun t => match t.pa? with
    | some p => !(cached && match (s.cores[c]).l1Get p.1 with | some b => b.key == p.2 | none => false)
    | none => false

/-- R249: the chain of an exact cell's writes, where an element is one. -/
def State.chainOf (s : State) (e : Elem) (ts : List Target) : Option (List Nat) :=
  match e.cell, ts with
  | true, .phys pa _ :: _ => some (((s.chains.find? fun c => c.1 == pa).map (·.2)).getD [])
  | _, _ => none

/-- R190 step 7, R205, R249: some threads load an element; an exact cell gives its value, once rounded. -/
def State.loadElem (s : State) (c : CoreId) (k : Slot) (lanes : Word) (past : View) (cached : Bool) (acq : Option Reach) (e : Elem)
    (ts : List Target) : State × Nat × Nat :=
  let r := s.loadOf c k lanes past cached acq (s.chainOf e ts) ts
  (r.1, (match e.cell, ts with
    | true, .phys pa _ :: _ => (s.cell pa).read.toNat
    | _, _ => leValue r.2.1), r.2.2)

/-- R249: a write to an exact cell sets it: its chain begins anew. -/
def State.beginChain (s : State) (pa id : Nat) : State := { s with chains := (pa, [id]) :: s.chains.filter fun c => c.1 != pa }

/-- R218: an atomic's write to an exact cell goes on with its chain. -/
def State.extendChain (s : State) (pa id : Nat) : State :=
  { s with chains := (pa, (((s.chains.find? fun c => c.1 == pa).map (·.2)).getD []) ++ [id]) :: s.chains.filter fun c => c.1 != pa }

/-- R193, R205, R249: some threads store the low bytes of a value to an element; a write to an exact cell sets the cell. -/
def State.storeElem (s : State) (c : CoreId) (k : Slot) (lanes : Word) (past : View) (rel : Option Reach) (w : Way)
    (word : List Nat) (e : Elem) (ts : List Target) (x : Nat) : State × Nat :=
  match e.cell, ts with
  | true, .phys pa _ :: _ =>
    let id := s.nextId
    let s1 := s.newWrite (s.partyFor c k lanes) (s.headsOf c k lanes rel) past
    (((s1.setCellAt pa (.ofWord (BitVec.ofNat 32 x))).beginChain pa id).noteWrite c k lanes id, id)
  | _, _ => s.storeOf c k lanes past rel w word (ts.zip (leBytes ts.length x))

/-- Fills the core's L1 with the lines of a load. -/
def State.fillAll (s : State) (c : CoreId) (low : Bool) (ts : List Target) : State :=
  if (s.cores[c]).hasL1 then
    ((ts.filterMap Target.pa?).map fun p => (p.1 / 128 * 128, p.2)).eraseDups.foldl (fun s p => s.fillL1 c low p.2 p.1) s
  else s

end Sys2Proof.Machine
end

