-- ==== Sys2Proof/Machine/MemoryWords.lean ====
section
/-! DEFINITION. LD, ST, LDA, MEMC, ULD, UST and the words that write segments and records (R183 to R187, R197 to R210). -/

namespace Sys2Proof.Machine

/-- R207: the segments that an ordinary word may use. -/
def plainSegs : List Nat := [0, 1, 2, 3, 4, 6, 7]

/-- R207, R206: those of a word that makes one access for its group. -/
def groupSegs : List Nat := [0, 2, 3, 4, 6, 7]

/-- R202: the format of a typed access, if the tag allows one. -/
def typedFmt (tag : Nat) : Option Scalar :=
  match Tag.ofCode tag with
  | some .f32 | some .f16 | some .bf16 | some .e4m3 | some .e5m2 | some .z8 | some .n8 | some .z16 | some .n16
  | some .z32 | some .n32 => (Tag.ofCode tag).bind Tag.scalar
  | _ => none

/-- R198: the access size of a width code. -/
def widthBytes (e : Ext) (w : Nat) (r : Rec) : Nat :=
  if w ≤ 1 then 1 else if w ≤ 3 then 2 else if w = 4 then 4 else if w = 5 then r.elem else 4 * (extShape e).2

/-- R198, R202: the width fits the record. -/
def widthFits (e : Ext) (w : Nat) (r : Rec) : Bool :=
  if w = 5 then match typedFmt r.tag with
    | some f => f.bits == 8 * r.elem
    | none => false
  else decide (widthBytes e w r ≤ r.elem)

/-- R188, R198: the access of an LD or ST. -/
def laneAccess (e : Ext) (w kind : Nat) (record : BitVec 128) : Access :=
  let r := Rec.of record
  { record := record, kind := kind, size := widthBytes e w r
    align := if w = 6 then 4 else widthBytes e w r
    poss := if w = 6 then List.range (extShape e).1 else List.range ((extShape e).1 * (extShape e).2)
    fits := widthFits e w r, segs := plainSegs
    cellOk := w == 4 || (w == 5 && Tag.ofCode r.tag == some .f32) }

/-- R198, R202: the register value that a loaded element gives. -/
def loadValue (w tag x : Nat) : Nat :=
  if w = 1 then (IntFmt.mk 32 true).write (signedOf 8 x)
  else if w = 3 then (IntFmt.mk 32 true).write (signedOf 16 x)
  else if w = 5 then match typedFmt tag with
    | some (.float f) => if f = .f32 then x else (FloatFmt.f32.encode (f.decode x) .rne 0).code
    | some (.int f) => (IntFmt.mk 32 true).write (f.read x)
    | _ => x
  else x

/-- R202: the code that a typed store writes. -/
def storeValue (w tag : Nat) (x : Word) : Coded :=
  if w = 5 then match typedFmt tag with
    | some (.float f) => if f = .f32 then ⟨x.toNat, false⟩ else f.encode (FloatFmt.f32.decode x.toNat) .rne 0
    | some (.int f) => if f.bits = 32 then ⟨x.toNat, false⟩ else f.clamp x.toInt
    | _ => ⟨x.toNat, false⟩
  else ⟨x.toNat, false⟩

/-- R216, R221, R223: what the ordering of a word of some threads does before its reads. -/
def State.beforeRead (s : State) (b : Bundle) (k : Slot) (lanes : Word) (order : Nat) (r : Reach) : State :=
  if order = 4 then s.scFence b.core k lanes r
  else if order = 1 ∨ order = 3 then s.acquire b.core r.scope
  else s

/-- R216, R217, R223: what comes before the writes of a word of some threads. -/
def State.beforeWrite (s : State) (b : Bundle) (k : Slot) (lanes : Word) (order : Nat) (r : Reach) : State :=
  (if order = 2 ∨ order = 3 ∨ order = 4 then s.release b.core r.scope else s).atWrite b.core k lanes

/-- R216, R221: what an ordering does after the writes. -/
def State.afterWrite (s : State) (c : CoreId) (k : Slot) (lanes : Word) (order : Nat) (r : Reach) : State :=
  if order = 4 then s.scFence c k lanes r else s

/-- R216: the reads of an ordering are acquire loads. -/
def acquires (order : Nat) (r : Reach) : Option Reach := if order = 1 ∨ order = 3 ∨ order = 4 then some r else none

/-- R216: the writes of an ordering are release stores. -/
def releases (order : Nat) (r : Reach) : Option Reach := if order = 2 ∨ order = 3 ∨ order = 4 then some r else none

/-- The registers of block row `i`, or of position `p`, that an element of LD or ST covers. -/
def elemRegs (e : Ext) (w : Nat) (base p : Nat) : List Nat :=
  if w = 6 then (List.range (extShape e).2).map fun j => base + 8 * p + j
  else [base + posOff e p]

/-- R120: writes of the registers of an element, low word first. -/
def elemWrites (g : Group) (l : Lane) (regs : List Nat) (x : Nat) : List LaneWrite :=
  regs.zipIdx.map fun q => ⟨l, rowOf g.ring (g.threads[l]).turn q.1, 0, 32, x / 2 ^ (32 * q.2) % 2 ^ 32⟩

/-- The index register of a lane, as Z32 (R188). -/
def Group.index (g : Group) (i : Fin 128) (l : Lane) : Int := ((g.threads[l]).lane g.ring i.val).toInt

/-- R114 at a memory word of one group: the threads trap when a register is outside the allotment. -/
def State.allotted (s : State) (b : Bundle) (m : Member) (i : WordInfo) (act : Lane → Bool) : State × Bool :=
  match s.group? b.core m.slot with
  | none => (s, false)
  | some g =>
    if (i.names none).all g.inAllot then (s, true)
    else (s.raise b m.slot act 0x02 [b.current, BitVec.ofNat 32 (b.idx + 1)], false)

/-- R9: every active thread of a group has trapped at the word, and none parked at it. -/
def State.allTrapped (s : State) (b : Bundle) (m : Member) (act : Lane → Bool) (passed : List Passed) : Bool :=
  passed.isEmpty && (List.finRange 32).any act && match s.group? b.core m.slot with
    | some g => (List.finRange 32).all fun l => !act l || match (g.threads[l]).run with | .parked _ _ => false | _ => true
    | none => true

/-- What the elements of a load have brought: results, and the elements that may still take effect (R222). -/
structure Loaded where
  writes : List LaneWrite
  spots  : List Reread

/-- R222: an element of a plain load may take effect as long as its result has not landed. -/
def State.openLoads (s : State) (op : Nat) (rs : List Reread) : State := { s with rereads := s.rereads ++ rs.map fun r => { r with op := op } }

/-- R190 step 7, R200, R202: a lane of LD loads one element, which fills some registers; one that reads poison is not written (R204). -/
def State.loadOne (s : State) (b : Bundle) (k : Slot) (g : Group) (l : Lane) (w tag : Nat) (regs : List Nat) (cached : Bool)
    (acq : Option Reach) (past : View) (x : Elem × List Target) (acc : Loaded) : State × Loaded :=
  if x.2.any s.poisonedTarget then (s, acc)
  else
    let r := s.loadElem b.core k (oneBit l.val) past cached acq x.1 x.2
    let spot : Reread := { read := r.2.2, op := 0, core := b.core, slot := k, lanes := oneBit l.val
                           rows := regs.map (rowOf g.ring (g.threads[l]).turn), w := w, tag := tag, cached := cached, targets := x.2
                           known := s.known past, by_ := [] }
    (r.1, ⟨acc.writes ++ elemWrites g l regs (loadValue w tag r.2.1), if acq.isSome || x.1.cell then acc.spots else acc.spots ++ [spot]⟩)

/-- R204: the threads with a poisoned element, each with the virtual address of the lowest one. -/
def State.badElems (s : State) (g : Group) (r : Rec) (passed : List Passed) : List (Lane × Nat) :=
  passed.filterMap fun q => (q.elems.find? fun x => x.2.any s.poisonedTarget).map fun x => (q.lane, g.byteVa r q.lane.val x.1.off 0)

/-- LD for one group (R190, R199, R200, R204). BOUNDS is set when the operation completes (R126). DESIGN CHOICE (log 95): of a lane with a
poisoned element the other elements, and its zeros, are written. -/
def State.loadFor (s : State) (b : Bundle) (p : Pfx) (e : Ext) (d : Fin 128) (r : Fin 32) (w : Fin 8) (i : Fin 128)
    (m : Member) : State :=
  match s.group? b.core m.slot with
  | none => s
  | some g =>
    let act := g.active m p
    let zero := g.zeroWrites m p (ldInfo e d w.val i)
    match s.allotted b m (ldInfo e d w.val i) act with
    | (s, false) => if s.allTrapped b m act [] && zero.isEmpty then s else s.attachPip b { m with sel := 0 } zero 0
    | (s, true) =>
      let rec_ := Rec.of g.b[r]
      let (s, passed) := s.place b m r.val { laneAccess e w.val 0 g.b[r] with notes := false } act (g.index i)
      if s.allTrapped b m act passed && zero.isEmpty then s
      else
        let reach := s.reach p.scope
        let s := if passed.isEmpty then s else s.beforeRead b m.slot (laneMask fun l => passed.any fun q => q.lane == l) p.rnd reach
        let cached := segCached rec_.seg && !(decide (p.rnd ≠ 0) && decide (3 ≤ p.scope))
        let all := passed.flatMap fun q => q.elems.flatMap (·.2)
        let s := s.touchAll (corePort b.core (p.mod == 2)) rec_.comp false (s.missing b.core cached all)
        let pasts := passed.map fun q => s.pastOf b.core m.slot (oneBit q.lane.val)
        let (s, got) := (passed.zip pasts).foldl (fun (st : State × Loaded) q => q.1.elems.foldl (fun st x =>
          st.1.loadOne b m.slot g q.1.lane w.val rec_.tag (elemRegs e w.val d.val x.1.pos) cached (acquires p.rnd reach) q.2 x st.2) st) (s, ⟨[], []⟩)
        let outs := passed.flatMap fun q => q.oob.flatMap fun x => elemWrites g q.lane (elemRegs e w.val d.val x) 0
        let s := if cached && p.mod != 1 then s.fillAll b.core (p.mod == 2) all else s
        let id := s.nextId
        (s.attachPip b m (zero ++ got.writes ++ outs) 0 (s.badElems g rec_ passed) (passed.any fun q => !q.oob.isEmpty)).openLoads id got.spots

/-- R197: LD. -/
def execLd (e : Ext) (d : Fin 128) (r : Fin 32) (w : Fin 8) (i : Fin 128) (s : State) : Host.Outcome State Fault Refusal :=
  issue (ldInfo e d w.val i) (fun b p s => s.eachMember b fun m s => s.loadFor b p e d r w i m) s

/-- R199, R207: how a store of a word reaches memory: past the L1s where the segment or the ordering says so, or under `bypass` where the L1
does not hold the line. -/
def State.storeWay (s : State) (c : CoreId) (r : Rec) (p : Pfx) : Way where
  alloc := fun line => segCached r.seg && !(decide (p.rnd ≠ 0) && decide (3 ≤ p.scope)) && (p.mod != 1 || (s.cores[c]).holdsLine line)
  low := p.mod == 2
  comp := r.comp

/-- The writes of numbers from `first` on. -/
def State.writesFrom (s : State) (first : Nat) : List Nat := (s.writes.map (·.id)).filter fun n => decide (first ≤ n)

/-- ST for one group (R190, R193, R199, R201, R202); the word's writes have numbers from `first` on. -/
def State.storeFor (s : State) (b : Bundle) (p : Pfx) (e : Ext) (d : Fin 128) (r : Fin 32) (w : Fin 8) (i : Fin 128)
    (first : Nat) (m : Member) : State :=
  match s.group? b.core m.slot with
  | none => s
  | some g =>
    let act := g.active m p
    match s.allotted b m (stInfo e d w.val i) act with
    | (s, false) => s
    | (s, true) =>
      let rec_ := Rec.of g.b[r]
      let (s, passed) := s.place b m r.val (laneAccess e w.val 1 g.b[r]) act (g.index i)
      let reach := s.reach p.scope
      let lanes := laneMask fun l => passed.any fun q => q.lane == l
      let s := if passed.isEmpty then s else s.beforeWrite b m.slot lanes p.rnd reach
      let value := fun (q : Passed) (x : Elem) =>
        if w.val = 6 then
          (((elemRegs e w.val d.val x.pos).zipIdx.map fun y => ((g.threads[q.lane]).lane g.ring y.1).toNat * 2 ^ (32 * y.2)).sum, false)
        else
          let c := storeValue w.val rec_.tag ((g.threads[q.lane]).lane g.ring (d.val + posOff e x.pos))
          (c.code, c.cvx)
      let pasts := passed.map fun q => s.pastOf b.core m.slot (oneBit q.lane.val)
      let s := (passed.zip pasts).foldl (fun s q => q.1.elems.foldl (fun s x =>
        (s.storeElem b.core m.slot (oneBit q.1.lane.val) q.2 (releases p.rnd reach) (s.storeWay b.core rec_ p) (s.writesFrom first)
          x.1 x.2 (value q.1 x.1).1).1) s) s
      let s := if passed.isEmpty then s else s.afterWrite b.core m.slot lanes p.rnd reach
      s.laneCvx b m fun l => passed.any fun q => q.lane == l && q.elems.any fun x => (value q x.1).2

/-- R197: ST. -/
def execSt (e : Ext) (d : Fin 128) (r : Fin 32) (w : Fin 8) (i : Fin 128) (s : State) : Host.Outcome State Fault Refusal :=
  issue (stInfo e d w.val i) (fun b p s => let first := s.nextId; s.eachMember b fun m s => s.storeFor b p e d r w i first m) s

/-- R203: what an LDA has read, waits for and met; the elements that may still take effect (R222), and the numbers of its reads. -/
structure LdaParts where
  writes : List LaneWrite
  waits  : List LdaWait
  fault  : Bool
  poison : Bool
  spots  : List Reread := []
  reads  : List Nat := []

/-- R203: how an element of LDA is loaded: the group, what is before it, COMP and retention of its line, its lane and row. -/
structure LdaElem where
  core : CoreId
  slot : Slot
  ctx  : Fin 64
  past : View
  comp : Bool
  low  : Bool
  lane : Lane
  row  : Fin 128

/-- The four bytes of a word from its first. -/
def Target.word (t : Target) : List Target := (List.range 4).map fun i => match t with
  | .phys pa key => .phys (pa + i) key
  | .scratch d off => .scratch d (off + i)
  | .own k off pa key => .own k (off + i) (pa + i) key

/-- R203, R205: reads a word for LDA once its line translates; an LDA fills only the L2. It is a read of the operation's own (R217, R225). -/
def State.ldaWord (s : State) (x : LdaElem) (t : Target) (acc : LdaParts) : State × LdaParts :=
  let ts := t.word
  let s := s.touchAll (corePort x.core x.low) x.comp false (s.missing x.core true ts)
  if ts.any s.poisonedTarget then (s, { acc with poison := true })
  else
    let known := s.known x.past
    let got := s.takeAs x.core true known none ts
    let spot : Reread := { read := s.nextId, op := 0, core := x.core, slot := x.slot, lanes := oneBit x.lane.val, rows := [x.row], w := 4, tag := 0
                           cached := true, targets := ts, known := known, by_ := [] }
    ((s.settleLda x.core x.slot (oneBit x.lane.val) ts).newRead x.past ts (got.filterMap (·.2)),
      { acc with writes := acc.writes ++ [⟨x.lane, x.row, 0, 32, leValue (got.map (·.1))⟩], spots := acc.spots ++ [spot]
                 reads := acc.reads ++ [s.nextId] })

/-- R352: bytes of the smallest page, for which a fault entry of an engine stands (R363, log 70). -/
def pageBytes : Nat := 2 ^ 16

/-- R203: one element at a virtual address: translated now, waiting, or failed. `own` names the team and the base of seg1 of a private
element. A page that has an entry of this word gets no second one. -/
def State.ldaElem (s : State) (x : LdaElem) (own : Option (Nat × Nat)) (va : Nat) (acc : LdaParts) : State × LdaParts :=
  let (s, w) := s.translate (.core x.core) x.ctx (va / 128 * 128) false
  match w with
  | .ok pa key =>
    if s.peerRefuses pa then (s, { acc with fault := true })
    else s.ldaWord { x with past := x.past.join (s.heardAt (.core x.core) x.ctx (va / 128 * 128)) } (match own with
      | some (key_, base) => .own key_ (va - base) (pa + va % 128) key
      | none => .phys (pa + va % 128) key) acc
  | .failure => (s, { acc with fault := true })
  | .page =>
    let wait := fun f => (⟨f, x.lane, x.row, va, own.map (·.2), x.comp, x.low⟩ : LdaWait)
    match s.faults.find? fun f => acc.waits.any fun w => w.fault == f.id && f.va / pageBytes == va / pageBytes with
    | some f => (s, { acc with waits := acc.waits ++ [wait f.id] })
    | none => (s.addFault x.ctx x.core x.slot 0 va 4, { acc with waits := acc.waits ++ [wait s.nextId] })

/-- R222, R225: the elements that an LDA has read are its own reads, and may still take effect. -/
def State.ldaHas (s : State) (op : Nat) (acc : LdaParts) : State :=
  (s.modOp op fun o => { o with did := ⟨o.did.writes, addIds o.did.reads acc.reads⟩ }).openLoads op acc.spots

/-- LDA for one group (R203). -/
def State.ldaFor (s : State) (b : Bundle) (p : Pfx) (e : Ext) (d : Fin 128) (r : Fin 32) (t : Fin 8) (i : Fin 128)
    (m : Member) : State :=
  match s.group? b.core m.slot with
  | none => s
  | some g =>
    let act := g.active m p
    let zero := g.zeroWrites m p (ldaInfo e d t i)
    match s.allotted b m (ldaInfo e d t i) act, s.team? g.team with
    | (s, true), some team =>
      let a := { laneAccess e 4 0 g.b[r] with cellOk := false }
      let rec_ := Rec.of g.b[r]
      let firsts := ((List.finRange 32).filter act).map fun l : Lane => (l, g.check a (s.cellCount g.ctx) l.val (g.index i l))
      let s := firsts.foldl (fun s f => match f.2 with
        | .inl x => s.raise b m.slot (fun l => l == f.1) x.1 (b.detail r.val x.1 x.2)
        | .inr _ => s) s
      let oks := firsts.filterMap fun f => match f.2 with | .inr x => some (f.1, x) | .inl _ => none
      let zeros := zero ++ oks.flatMap fun f => f.2.2.flatMap fun pos => elemWrites g f.1 (elemRegs e 4 d.val pos) 0
      if oks.isEmpty && !firsts.isEmpty && zero.isEmpty then s
      else
        let (s, acc) := oks.foldl (fun (st : State × LdaParts) f =>
          let past := st.1.pastOf b.core m.slot (oneBit f.1.val)
          f.2.1.foldl (fun (st : State × LdaParts) x =>
            let at_ : LdaElem := ⟨b.core, m.slot, g.ctx, past, rec_.comp, p.mod == 2, f.1, rowOf g.ring (g.threads[f.1]).turn (d.val + posOff e x.pos)⟩
            if rec_.seg = 2 then st.1.ldaWord at_ (st.1.scratchTarget team x.off) st.2
            else st.1.ldaElem at_ (if rec_.seg = 1 then some (team.key, segBase g.seg[(1 : Fin 8)]) else none) (g.byteVa rec_ f.1.val x.off 0) st.2) st)
          (s, ⟨zeros, [], false, false, [], []⟩)
        let id := s.nextId
        (s.startOp b m (120 + t.val) zero
          (.lda (120 + t.val) acc.writes acc.waits (laneMask fun l => oks.any fun f => f.1 == l && !f.2.2.isEmpty) acc.fault acc.poison)).ldaHas id acc
    | (s, _), _ => if zero.isEmpty && (List.finRange 32).any act then s
        else s.startOp b m (120 + t.val) zero (.lda (120 + t.val) zero [] 0 false false)

/-- R222, R224: a read that took some writes would bring about what an acquire of its thread that has come since has not heard of. -/
def State.wouldHear (s : State) (r : Reread) (took : List Nat) : Bool :=
  r.by_.any fun a => ((took.filterMap s.info).any fun w => w.heads.any fun h => matched h.party h.reach a.1 a.2)
    || decide (5 ≤ a.2.scope) && match coreDie r.core with
      | some e => joinClocks s.board.clocks[e] (s.carriedBy took) != s.board.clocks[e]
      | none => false

/-- R222: an element of a load takes effect now, instead of when it did before, unless a result of its has landed. -/
def State.rereadAt (s : State) (n : Nat) : State :=
  match s.rereads[n]? with
  | none => s
  | some r =>
    let got := s.takeAs r.core r.cached r.known (some r.read) r.targets
    let took := (got.filterMap (·.2)).eraseDups
    if r.rows.isEmpty || r.targets.any s.poisonedTarget || s.wouldHear r took then s
    else
      let x := loadValue r.w r.tag (leValue (got.map (·.1)))
      let part := fun i : Nat => x / 2 ^ (32 * i) % 2 ^ 32
      let fix := fun ws : List LaneWrite => ws.map fun w => match (if hasBit r.lanes w.lane then r.rows.idxOf? w.row else none) with
        | some i => { w with value := part i }
        | none => w
      let s := { s with reads := s.reads.map fun y : Nat × List Nat => if y.1 = r.read then (y.1, took) else y, fresh := s.fresh + 1 }
      s.modOp r.op fun o =>
        { o with work := match o.work with
          | .pip p ws cvx bad oob => .pip p (fix ws) cvx bad oob
          | .lda t ws waits oob fault poison => .lda t (fix ws) waits oob fault poison
          | .uld ws poison va => .uld (ws.map fun w : Fin 128 × Word => match r.rows.idxOf? w.1 with
              | some i => (w.1, BitVec.ofNat 32 (part i))
              | none => w) poison va
          | .xpld n bytes poison va => .xpld n (bytes.map fun y : Nat × Byte => match r.rows.idxOf? (regIx y.1) with
              | some i => (y.1, (got.map (·.1)).getD i 0)
              | none => y) poison va
          | k => k }

/-- R197, R203: LDA. -/
def execLda (e : Ext) (d : Fin 128) (r : Fin 32) (t : Fin 8) (i : Fin 128) (s : State) : Host.Outcome State Fault Refusal :=
  issue (ldaInfo e d t i) (fun b p s => s.eachMember b fun m s => s.ldaFor b p e d r t i m) s

/-! ### MEMC -/

/-- R217, R218: a fence of some threads: `ld` leaves stores out of its prior set, `st` loads out of its later set. It releases before it
acquires; under `sc` it is an SC fence of kind `fence` (R221). -/
def State.fenceBy (s : State) (c : CoreId) (k : Slot) (lanes : Word) (ld st : Bool) (order : Nat) (r : Reach) : State :=
  if order = 4 then s.scFence c k lanes r
  else
    let s := if order = 1 then s else s.releaseFence c k lanes ld r
    if order = 2 then s else s.acquireFence c k lanes st r

/-- R217: a fence acts for each thread that executes it. -/
def fenceWord (ld st : Bool) (s : State) : Host.Outcome State Fault Refusal :=
  issue fenceInfo (fun b p s => s.eachMember b fun m s => match s.group? b.core m.slot with
    | some g =>
      let lanes := laneMask (g.active m p)
      if lanes = 0 then s else s.fenceBy b.core m.slot lanes ld st p.rnd (s.reach p.scope)
    | none => s) s

/-- R209: `memc.fence`. -/
def execMemcFence (s : State) : Host.Outcome State Fault Refusal := fenceWord false false s
/-- R209, R217: `memc.fence.ld`: only loads lie in its prior set. -/
def execMemcFenceLd (s : State) : Host.Outcome State Fault Refusal := fenceWord true false s
/-- R209, R217: `memc.fence.st`: only stores lie in its later set. -/
def execMemcFenceSt (s : State) : Host.Outcome State Fault Refusal := fenceWord false true s

/-- The access of a cache-control form: one byte of the element. One that names an exact cell passes (R250): it reads and writes no byte
of it (log 19, DESIGN CHOICE). -/
def lineAccess (record : BitVec 128) : Access :=
  { record := record, kind := 0, size := 1, align := 1, poss := [0], fits := true, segs := plainSegs, cellOk := true, notes := false }

/-- R210: a cache-control form on the lines of one group's active lanes. -/
def State.linesFor (s : State) (b : Bundle) (p : Pfx) (d : Fin 128) (r : Fin 32) (f : State → Option (Fin 8) → Nat → State)
    (m : Member) : State :=
  match s.group? b.core m.slot with
  | none => s
  | some g =>
    let act := g.active m p
    match s.allotted b m (cacheInfo (some d)) act with
    | (s, false) => s
    | (s, true) =>
      let (s, passed) := s.place b m r.val (lineAccess g.b[r]) act (g.index d)
      (((passed.flatMap fun q => q.elems.flatMap (·.2)).filterMap Target.pa?).map fun x => (x.1 / 128 * 128, x.2)).eraseDups.foldl
        (fun s x => f s x.2 x.1) s

/-- R210: a prefetch: an element that fails a check, and a line that does not translate, is skipped. -/
def State.prefetchFor (s : State) (b : Bundle) (p : Pfx) (d : Fin 128) (r : Fin 32) (l1 : Bool) (m : Member) : State :=
  match s.group? b.core m.slot with
  | none => s
  | some g =>
    let act := g.active m p
    match s.allotted b m (cacheInfo (some d)) act with
    | (s, false) => s
    | (s, true) =>
      let a := lineAccess g.b[r]
      let rec_ := Rec.of g.b[r]
      let lines := ((List.finRange 32).filter act).flatMap fun l : Lane => match g.check a (s.cellCount g.ctx) l.val (g.index d l) with
        | .inr x => g.linesOf a l.val x.1
        | .inl _ => []
      let (s, walks) := s.translateLines (.core b.core) g.ctx false lines.eraseDups
      walks.foldl (fun s w => match w.2 with
        | .ok pa key =>
          let s := s.touch (corePort b.core) key pa rec_.comp false
          if l1 && segCached rec_.seg && (s.cores[b.core]).hasL1 then s.fillL1 b.core false key pa else s
        | _ => s) s

/-- R209: `memc.pf`. -/
def execMemcPf (d : Fin 128) (r : Fin 32) (s : State) : Host.Outcome State Fault Refusal :=
  issue (cacheInfo (some d)) (fun b p s => s.eachMember b fun m s => s.prefetchFor b p d r false m) s
/-- R209: `memc.pfl1`. -/
def execMemcPfl1 (d : Fin 128) (r : Fin 32) (s : State) : Host.Outcome State Fault Refusal :=
  issue (cacheInfo (some d)) (fun b p s => s.eachMember b fun m s => s.prefetchFor b p d r true m) s
/-- R209: `memc.wbl`. -/
def execMemcWbl (d : Fin 128) (r : Fin 32) (s : State) : Host.Outcome State Fault Refusal :=
  issue (cacheInfo (some d)) (fun b p s => s.eachMember b fun m s =>
    s.linesFor b p d r (fun s _ pa => (s.writeBack b.core fun x => x / 128 == pa / 128).l2Clean (chipOf b.core) (pa / 128)) m) s
/-- R209: `memc.invl`. -/
def execMemcInvl (d : Fin 128) (r : Fin 32) (s : State) : Host.Outcome State Fault Refusal :=
  issue (cacheInfo (some d)) (fun b p s => s.eachMember b fun m s =>
    s.linesFor b p d r (fun s _ pa => s.dropL1 b.core fun x => x / 128 == pa / 128) m) s

/-- R210: a whole-L1 form acts once, when some thread executes it. -/
def wholeL1 (f : State → CoreId → State) (s : State) : Host.Outcome State Fault Refusal :=
  issue (cacheInfo none) (fun b p s =>
    if (s.members b).any fun m => match s.group? b.core m.slot with
        | some g => (List.finRange 32).any (g.active m p)
        | none => false
    then f s b.core else s) s

/-- R209: `memc.wb.l1`. -/
def execMemcWbL1 (s : State) : Host.Outcome State Fault Refusal := wholeL1 (fun s c => s.writeBack c fun _ => true) s
/-- R209: `memc.inv.l1`. -/
def execMemcInvL1 (s : State) : Host.Outcome State Fault Refusal := wholeL1 (fun s c => s.dropL1 c fun _ => true) s

/-! ### ULD and UST -/

/-- R206: the access of a ULD or UST of `n` bytes. -/
def uniAccess (kind n : Nat) (record : BitVec 128) : Access :=
  { record := record, kind := kind, size := n, align := n, poss := [0], fits := decide (n ≤ (Rec.of record).elem)
    segs := groupSegs, cellOk := n == 4 }

/-- R206: ULD of `n` bytes into `k` registers, sign-extended or not. -/
def uldWord (d a : Fin 128) (r : Fin 32) (n k : Nat) (signed : Bool) (s : State) : Host.Outcome State Fault Refusal :=
  uniWord (uldInfo d a k) (fun b m g s =>
    match s.placeGroup b m r.val (uniAccess 0 n g.b[r]) (g.uni a.val).toInt with
    | (s, none) => s
    | (s, some q) =>
      let rec_ := Rec.of g.b[r]
      let ts := q.elems.flatMap (·.2)
      let cached := segCached rec_.seg
      let s := s.touchAll (corePort b.core) rec_.comp false (s.missing b.core cached ts)
      let w := if signed then (if n = 1 then 1 else 3) else 4
      let regs := (regRun d.val k).map regIx
      let past := s.pastOf b.core m.slot m.sel
      let poison := ts.any s.poisonedTarget
      let s0 := s
      let (s, x, spots) := match (if poison then none else q.elems.head?) with
        | some e =>
          let r := s.loadElem b.core m.slot m.sel past cached none e.1 e.2
          (r.1, loadValue w rec_.tag r.2.1, if e.1.cell then [] else
            [{ read := r.2.2, op := 0, core := b.core, slot := m.slot, lanes := m.sel, rows := regs, w := w, tag := rec_.tag, cached := cached
               targets := e.2, known := s0.known past, by_ := [] : Reread }])
        | none => (s, 0, [])
      let s := if cached then s.fillAll b.core false ts else s
      let id := s.nextId
      (s.addOp b m.slot m.sel (.uld (regs.zipIdx.map fun y => (y.1, BitVec.ofNat 32 (x / 2 ^ (32 * y.2)))) poison
        ((q.elems.map fun e => g.byteVa rec_ 0 e.1.off 0).headD 0))).openLoads id spots) s

/-- R206: UST of the low `n` bytes of `k` registers. -/
def ustWord (d a : Fin 128) (r : Fin 32) (n k : Nat) (s : State) : Host.Outcome State Fault Refusal :=
  issue (ustInfo d a k) (fun b _ s => let first := s.nextId; s.eachMember b fun m s => match s.group? b.core m.slot with
    | none => s
    | some g => match s.placeGroup b m r.val (uniAccess 1 n g.b[r]) (g.uni a.val).toInt with
      | (s, none) => s
      | (s, some q) =>
        let rec_ := Rec.of g.b[r]
        let x := ((regRun d.val k).zipIdx.map fun y => (g.uni y.1).toNat * 2 ^ (32 * y.2)).sum
        let s := s.atWrite b.core m.slot m.sel
        let past := s.pastOf b.core m.slot m.sel
        q.elems.foldl (fun s e => (s.storeElem b.core m.slot m.sel past none (s.storeWay b.core rec_ {}) (s.writesFrom first) e.1 e.2 x).1) s) s

/-- R206: `uld`. -/
def execUld (d a : Fin 128) (r : Fin 32) (s : State) : Host.Outcome State Fault Refusal := uldWord d a r 4 1 false s
/-- R206: `uld.z8`. -/
def execUldZ8 (d a : Fin 128) (r : Fin 32) (s : State) : Host.Outcome State Fault Refusal := uldWord d a r 1 1 true s
/-- R206: `uld.n8`. -/
def execUldN8 (d a : Fin 128) (r : Fin 32) (s : State) : Host.Outcome State Fault Refusal := uldWord d a r 1 1 false s
/-- R206: `uld.z16`. -/
def execUldZ16 (d a : Fin 128) (r : Fin 32) (s : State) : Host.Outcome State Fault Refusal := uldWord d a r 2 1 true s
/-- R206: `uld.n16`. -/
def execUldN16 (d a : Fin 128) (r : Fin 32) (s : State) : Host.Outcome State Fault Refusal := uldWord d a r 2 1 false s
/-- R206: `uld.64`. -/
def execUld64 (d a : Fin 128) (r : Fin 32) (s : State) : Host.Outcome State Fault Refusal := uldWord d a r 8 2 false s
/-- R206: `uld.128`. -/
def execUld128 (d a : Fin 128) (r : Fin 32) (s : State) : Host.Outcome State Fault Refusal := uldWord d a r 16 4 false s
/-- R206: `ust`. -/
def execUst (d a : Fin 128) (r : Fin 32) (s : State) : Host.Outcome State Fault Refusal := ustWord d a r 4 1 s
/-- R206: `ust.8`. -/
def execUst8 (d a : Fin 128) (r : Fin 32) (s : State) : Host.Outcome State Fault Refusal := ustWord d a r 1 1 s
/-- R206: `ust.16`. -/
def execUst16 (d a : Fin 128) (r : Fin 32) (s : State) : Host.Outcome State Fault Refusal := ustWord d a r 2 1 s
/-- R206: `ust.64`. -/
def execUst64 (d a : Fin 128) (r : Fin 32) (s : State) : Host.Outcome State Fault Refusal := ustWord d a r 8 2 s
/-- R206: `ust.128`. -/
def execUst128 (d a : Fin 128) (r : Fin 32) (s : State) : Host.Outcome State Fault Refusal := ustWord d a r 16 4 s

/-! ### Segments and records -/

/-- The 128 bits of four registers from `a`. -/
def Group.quad (g : Group) (a : Nat) : BitVec 128 := g.uni (a + 3) ++ g.uni (a + 2) ++ g.uni (a + 1) ++ g.uni a

/-- Writes four registers from `d`. -/
def Group.setQuad (g : Group) (d : Nat) (x : BitVec 128) : Group :=
  (((g.setUni d (x.extractLsb' 0 32)).setUni (d + 1) (x.extractLsb' 32 32)).setUni (d + 2) (x.extractLsb' 64 32)).setUni (d + 3)
    (x.extractLsb' 96 32)

/-- R74: a privileged word outside handler mode raises class 0x03. -/
def State.privileged (s : State) (b : Bundle) (m : Member) (g : Group) (f : State → State) : State :=
  if g.handler.isSome then f s else s.raise b m.slot (fun l => hasBit m.sel l) 0x03 [b.current]

/-- Class 0x02 for the group's threads at the word (R53: not a static check). -/
def State.badOperand (s : State) (b : Bundle) (m : Member) : State :=
  s.raise b m.slot (fun l => hasBit m.sel l) 0x02 [b.current, BitVec.ofNat 32 (b.idx + 1)]

/-- R183: `segld`. -/
def execSegld (n : Fin 8) (a : Fin 128) (s : State) : Host.Outcome State Fault Refusal :=
  uniWord (quadReadInfo a true) (fun b m g s => s.privileged b m g fun s =>
    let x := g.quad a.val
    if fieldOf x.toNat 121 7 ≠ 0 ∨ fieldOf x.toNat 58 6 ≠ 0 ∨ (n = 6 ∧ segReadOnly x = false) then s.badOperand b m
    else s.setGroup b.core m.slot (some { g with seg := g.seg.set n x })) s

/-- R183: `segrd`; the major is privileged (R74). -/
def execSegrd (d : Fin 128) (n : Fin 8) (s : State) : Host.Outcome State Fault Refusal :=
  uniWord (quadWriteInfo d true) (fun b m g s => s.privileged b m g fun s =>
    s.setGroup b.core m.slot (some (g.setQuad d.val g.seg[n]))) s

/-- R186: `recld`. -/
def execRecld (r : Fin 32) (a : Fin 128) (s : State) : Host.Outcome State Fault Refusal :=
  uniWrite (quadReadInfo a) (fun g => { g with b := g.b.set r (g.quad a.val) }) s

/-- R186: `recrd`. -/
def execRecrd (d : Fin 128) (r : Fin 32) (s : State) : Host.Outcome State Fault Refusal :=
  uniWrite (quadWriteInfo d) (fun g => g.setQuad d.val g.b[r]) s

/-- R187: a RECSET form: `f` gives the new record, or nothing where the form refuses the value. -/
def recsetWord (r : Fin 32) (reads : List Nat) (f : Group → Rec → Option Rec) (s : State) : Host.Outcome State Fault Refusal :=
  uniWord (recsetInfo reads) (fun b m g s => match f g (Rec.of g.b[r]) with
    | some x => s.setGroup b.core m.slot (some { g with b := g.b.set r x.bits })
    | none => s.badOperand b m) s

/-- R187: the source value: the immediate is zero-extended. -/
def Group.recSrc (g : Group) : USrc → Nat
  | .reg n => (g.uni n.val).toNat
  | .imm x => x.toNat

/-- R187: `recset.base`. -/
def execRecsetBase (r : Fin 32) (a b : Fin 128) (s : State) : Host.Outcome State Fault Refusal :=
  recsetWord r [a.val, b.val] (fun g x =>
    if fieldOf (g.uni b.val).toNat 25 7 ≠ 0 then none
    else some { x with base := (g.uni b.val).toNat * 2 ^ 32 + (g.uni a.val).toNat }) s
/-- R187: `recset.ext`. -/
def execRecsetExt (r : Fin 32) (b : USrc) (s : State) : Host.Outcome State Fault Refusal :=
  recsetWord r (usrcReads b) (fun g x => some { x with extent := g.recSrc b }) s
/-- R187: `recset.stride`. -/
def execRecsetStride (r : Fin 32) (b : USrc) (s : State) : Host.Outcome State Fault Refusal :=
  recsetWord r (usrcReads b) (fun g x => if 0xFFFF < g.recSrc b then none else some { x with stride := g.recSrc b }) s
/-- R187: `recset.swz`. -/
def execRecsetSwz (r : Fin 32) (b : USrc) (s : State) : Host.Outcome State Fault Refusal :=
  recsetWord r (usrcReads b) (fun g x => if 15 < g.recSrc b then none else some { x with swz := g.recSrc b }) s
/-- R187: `recset.tag`. -/
def execRecsetTag (r : Fin 32) (b : USrc) (s : State) : Host.Outcome State Fault Refusal :=
  recsetWord r (usrcReads b) (fun g x => if 63 < g.recSrc b then none else some { x with tag := g.recSrc b }) s
/-- R187: `recset.flags`. -/
def execRecsetFlags (r : Fin 32) (b : USrc) (s : State) : Host.Outcome State Fault Refusal :=
  recsetWord r (usrcReads b) (fun g x =>
    let v := g.recSrc b
    if 63 < v then none
    else some { x with faramo := v.testBit 0, rowhome := v.testBit 1, comp := v.testBit 2, ro := v.testBit 3,
                       ply := v.testBit 4, trapoob := v.testBit 5 }) s
/-- R187: `recset.adv`; its immediate is sign-extended. DESIGN CHOICE (log 94): with STRIDE 0 and a reserved SIZE of 6 or 7 it goes by
2^SIZE bytes. -/
def execRecsetAdv (r : Fin 32) (b : USrc) (s : State) : Host.Outcome State Fault Refusal :=
  recsetWord r (usrcReads b) (fun g x =>
    let v := (g.usrc b).toInt
    some { x with base := (((x.base : Int) + v * x.step) % (2 ^ 57 : Nat)).toNat, extent := (satN 32 ((x.extent : Int) - v)).toNat }) s
/-- R187: `recset.fmt`. -/
def execRecsetFmt (r : Fin 32) (b : USrc) (s : State) : Host.Outcome State Fault Refusal :=
  recsetWord r (usrcReads b) (fun g x =>
    let v := g.recSrc b
    if 127 < v then none else some { x with seg := v % 16, size := v / 16 }) s

end Sys2Proof.Machine
end

