-- ==== Sys2Proof/Machine/Atomics.lean ====
section
/-! DEFINITION. The atomic majors, BRED, and the steps that perform their elements (R229 to R251). -/

namespace Sys2Proof.Machine

/-- The atomic majors. -/
inductive AtomicUnit where
  | near | far | common | reserve | bred
  deriving DecidableEq, Repr

/-- R229, R230: the segments of a major. -/
def AtomicUnit.segs (u : AtomicUnit) (r : Rec) : List Nat :=
  match u with
  | .near => if r.faramo && r.seg == 0 then [0] else [0, 1, 2, 4]
  | .far => [0]
  | .common | .reserve => [3]
  | .bred => [0, 2, 3]

/-- R229, R230: the far atomic unit of a memory-side die performs the word. -/
def AtomicUnit.isFar (u : AtomicUnit) (r : Rec) : Bool := r.seg == 0 && (u == .far || u == .bred || (u == .near && r.faramo))

/-- R233: the access size. -/
def atomicBytes (w : Nat) : Nat := if w = 3 ∨ w = 4 then 8 else 4

/-- R233, R238, R244, R250, R251: the access of an atomic word. A record of AMO.R with another element size than 16 fails R185, a larger
one too (log 71, DEDUCED: R233 asks for at least the access size, R244 for 16). -/
def atomicAccess (u : AtomicUnit) (op w : Nat) (ret : Bool) (record : BitVec 128) : Access :=
  let r := Rec.of record
  let n := if u = .reserve then 16 else atomicBytes w
  { record := record, kind := 2, size := n, align := n, poss := [0]
    fits := if u = .reserve then r.elem == 16 else decide (n ≤ r.elem)
    segs := u.segs r
    cellOk := w == 2 && ((u == .common && (op == 0 || op == 6)) || (u == .bred && op == 0))
    detWord := u != .reserve && ((ret && u != .bred) || op == 6 || op == 7)
    det := u != .reserve && w == 2
    barAll := true }

/-- R234: the value of an operand from its registers, low first. -/
def Thread.wide (t : Thread) (ring n k : Nat) : Nat := (t.lane ring n).toNat + (if k = 2 then (t.lane ring (n + 1)).toNat * 2 ^ 32 else 0)

/-- R234: the element of a lane. -/
def Group.atomicElem (g : Group) (k : Slot) (far comp : Bool) (op w : Nat) (d : Fin 128) (ret : Bool) (va : Nat) (l : Lane)
    (x : Elem × List Target) : AtomicElem :=
  let n := if w = 3 ∨ w = 4 then 2 else 1
  let t := g.threads[l]
  { slot := k, lane := l, targets := x.2, cell := x.1.cell, far := far, comp := comp, past := .none, heads := [], va := va, op := op, w := w
    v := t.wide g.ring (d.val + (if op = 7 then n else 0)) n
    cmp := if op = 7 then t.wide g.ring d.val n else 0
    dst := if ret then (List.range n).map fun j => rowOf g.ring t.turn (d.val + j) else [] }

/-- R238, R68: writes zero to the registers that would receive an old value. What else a `cas` block holds is kept, under ZERO in an
inactive lane too (log 71, DESIGN CHOICE: R68 speaks of the destination block, R234 of the registers written). -/
def Thread.zeroOld (t : Thread) (ring : Nat) (d n : Nat) : Thread := t.setBlock ring (regRun d n) fun _ => 0

/-- R231: the lines that the word names leave the issuing core's L1. -/
def State.dropNamed (s : State) (c : CoreId) (ts : List Target) : State :=
  let lines := ((ts.filterMap Target.pa?).map fun p => p.1 / 128).eraseDups
  if lines.isEmpty then s else s.dropL1 c fun pa => lines.contains (pa / 128)

/-- The checks of an atomic or BRED word for one group, and its elements (R238). -/
def State.atomicFor (s : State) (b : Bundle) (p : Pfx) (u : AtomicUnit) (i : WordInfo) (op : Nat) (d : Fin 128) (r : Fin 32)
    (w : Nat) (x : Fin 128) (m : Member) : State × List AtomicElem :=
  match s.group? b.core m.slot with
  | none => (s, [])
  | some g =>
    let act := g.active m p
    let ret := u != .bred && p.mod == 0
    let n := if u = .reserve then 1 else if w = 3 ∨ w = 4 then 2 else 1
    match s.allotted b m i act with
    | (s, false) => (if p.zero then s.modGroup b.core m.slot fun g => g.mapThreads fun l t =>
        if hasBit m.sel l && !act l then t.setBlock g.ring ((regRun d n).filter g.inAllot) fun _ => 0 else t else s, [])
    | (s, true) =>
      let rec_ := Rec.of g.b[r]
      let (s, passed) := s.place b m r.val (atomicAccess u op w ret g.b[r]) act (g.index x)
      let s := s.modGroup b.core m.slot fun g => g.mapThreads fun l t =>
        if (ret && passed.any fun q => q.lane == l && !q.oob.isEmpty) || (p.zero && hasBit m.sel l && !act l) then
          t.zeroOld g.ring d.val n
        else t
      (s, passed.flatMap fun q => q.elems.map fun e =>
        g.atomicElem m.slot (u.isFar rec_) rec_.comp op w d ret (g.byteVa rec_ q.lane.val e.1.off 0) q.lane e)

/-- The lanes of a slot among some elements. -/
def lanesAmong (es : List AtomicElem) (k : Slot) : Word := laneMask fun l => es.any fun e => e.slot == k && e.lane == l

/-- R216, R218: an atomic word's ordering ahead of its elements: an SC fence of the threads, a release, and for each element what is before
it in its thread, with the releases that its write carries. -/
def State.beforeAtomic (s : State) (b : Bundle) (order : Nat) (r : Reach) (es : List AtomicElem) : State × List AtomicElem :=
  let slots := (es.map (·.slot)).eraseDups
  let s := if order = 4 then slots.foldl (fun s k => s.scFence b.core k (lanesAmong es k) r) s else s
  let s := slots.foldl (fun s k => s.beforeWrite b k (lanesAmong es k) order r) s
  (s, es.map fun e => { e with past := s.pastOf b.core e.slot (oneBit e.lane.val)
                               heads := s.headsOf b.core e.slot (oneBit e.lane.val) (releases order r) })

/-- R216, R221: what an ordering does once elements have been performed: an acquire replaces the L1's copies (R223), an SC fence follows. -/
def State.afterAtomic (s : State) (c : CoreId) (order : Nat) (r : Reach) (es : List AtomicElem) : State :=
  if order = 1 ∨ order = 3 then s.acquire c r.scope
  else if order = 4 then ((es.map (·.slot)).eraseDups).foldl (fun s k => s.scFence c k (lanesAmong es k) r) (s.acquire c r.scope)
  else s

/-- R236: the elements of an atomic word wait to be performed. -/
def amoWord (u : AtomicUnit) (i : WordInfo) (op : Nat) (d : Fin 128) (r : Fin 32) (w : Nat) (x : Fin 128) (s : State) :
    Host.Outcome State Fault Refusal :=
  issue i (fun b p s =>
    let (s, es) := (s.members b).foldl (fun (acc : State × List AtomicElem) m =>
      let q := acc.1.atomicFor b p u i op d r w x m
      (q.1, acc.2 ++ q.2)) (s, [])
    match es with
    | [] => s
    | e :: _ =>
      let (s, es) := s.beforeAtomic b p.rnd (s.reach p.scope) es
      (s.dropNamed b.core (es.flatMap (·.targets))).addOp b e.slot 0 (.atomic es p.rnd (s.reach p.scope))) s

/-- R246: adds an element to the elements of its location. -/
def joinLocation (e : AtomicElem) : List (List AtomicElem) → List (List AtomicElem)
  | [] => [[e]]
  | u :: us => if (u.head?.map (·.targets)) = some e.targets then (u ++ [e]) :: us else u :: joinLocation e us

/-- R246: the elements of a bundle that name one location are combined. -/
def sameLocation (es : List AtomicElem) : List (List AtomicElem) := es.foldl (fun us e => joinLocation e us) []

/-- R246: BRED. -/
def bredWord (op : Nat) (d : Fin 128) (r : Fin 32) (w : Fin 8) (x : Fin 128) (s : State) : Host.Outcome State Fault Refusal :=
  issue (bredInfo op d w.val x) (fun b p s =>
    let (s, es) := (s.members b).foldl (fun (acc : State × List AtomicElem) m =>
      let q := acc.1.atomicFor b p .bred (bredInfo op d w.val x) op d r w.val x m
      (q.1, acc.2 ++ q.2)) (s, [])
    match es with
    | [] => s
    | e :: _ =>
      let (s, es) := s.beforeAtomic b p.rnd (s.reach p.scope) es
      (s.dropNamed b.core (es.flatMap (·.targets))).addOp b e.slot 0 (.bred (sameLocation es) p.rnd (s.reach p.scope))) s

/-- R236, R241: `amo.n.add`. -/
def execAmoNAdd (d : Fin 128) (r : Fin 32) (w : Fin 8) (i : Fin 128) (s : State) : Host.Outcome State Fault Refusal :=
  amoWord .near (amoInfo 0 d w.val i) 0 d r w.val i s
/-- R236, R241: `amo.n.min`. -/
def execAmoNMin (d : Fin 128) (r : Fin 32) (w : Fin 8) (i : Fin 128) (s : State) : Host.Outcome State Fault Refusal :=
  amoWord .near (amoInfo 1 d w.val i) 1 d r w.val i s
/-- R236, R241: `amo.n.max`. -/
def execAmoNMax (d : Fin 128) (r : Fin 32) (w : Fin 8) (i : Fin 128) (s : State) : Host.Outcome State Fault Refusal :=
  amoWord .near (amoInfo 2 d w.val i) 2 d r w.val i s
/-- R236, R241: `amo.n.and`. -/
def execAmoNAnd (d : Fin 128) (r : Fin 32) (w : Fin 8) (i : Fin 128) (s : State) : Host.Outcome State Fault Refusal :=
  amoWord .near (amoInfo 3 d w.val i) 3 d r w.val i s
/-- R236, R241: `amo.n.or`. -/
def execAmoNOr (d : Fin 128) (r : Fin 32) (w : Fin 8) (i : Fin 128) (s : State) : Host.Outcome State Fault Refusal :=
  amoWord .near (amoInfo 4 d w.val i) 4 d r w.val i s
/-- R236, R241: `amo.n.xor`. -/
def execAmoNXor (d : Fin 128) (r : Fin 32) (w : Fin 8) (i : Fin 128) (s : State) : Host.Outcome State Fault Refusal :=
  amoWord .near (amoInfo 5 d w.val i) 5 d r w.val i s
/-- R236, R241: `amo.n.xchg`. -/
def execAmoNXchg (d : Fin 128) (r : Fin 32) (w : Fin 8) (i : Fin 128) (s : State) : Host.Outcome State Fault Refusal :=
  amoWord .near (amoInfo 6 d w.val i) 6 d r w.val i s
/-- R236, R241: `amo.n.cas`. -/
def execAmoNCas (d : Fin 128) (r : Fin 32) (w : Fin 8) (i : Fin 128) (s : State) : Host.Outcome State Fault Refusal :=
  amoWord .near (amoInfo 7 d w.val i) 7 d r w.val i s
/-- R236, R242: `amo.f.add`. -/
def execAmoFAdd (d : Fin 128) (r : Fin 32) (w : Fin 8) (i : Fin 128) (s : State) : Host.Outcome State Fault Refusal :=
  amoWord .far (amoInfo 0 d w.val i) 0 d r w.val i s
/-- R236, R242: `amo.f.min`. -/
def execAmoFMin (d : Fin 128) (r : Fin 32) (w : Fin 8) (i : Fin 128) (s : State) : Host.Outcome State Fault Refusal :=
  amoWord .far (amoInfo 1 d w.val i) 1 d r w.val i s
/-- R236, R242: `amo.f.max`. -/
def execAmoFMax (d : Fin 128) (r : Fin 32) (w : Fin 8) (i : Fin 128) (s : State) : Host.Outcome State Fault Refusal :=
  amoWord .far (amoInfo 2 d w.val i) 2 d r w.val i s
/-- R236, R242: `amo.f.and`. -/
def execAmoFAnd (d : Fin 128) (r : Fin 32) (w : Fin 8) (i : Fin 128) (s : State) : Host.Outcome State Fault Refusal :=
  amoWord .far (amoInfo 3 d w.val i) 3 d r w.val i s
/-- R236, R242: `amo.f.or`. -/
def execAmoFOr (d : Fin 128) (r : Fin 32) (w : Fin 8) (i : Fin 128) (s : State) : Host.Outcome State Fault Refusal :=
  amoWord .far (amoInfo 4 d w.val i) 4 d r w.val i s
/-- R236, R242: `amo.f.xor`. -/
def execAmoFXor (d : Fin 128) (r : Fin 32) (w : Fin 8) (i : Fin 128) (s : State) : Host.Outcome State Fault Refusal :=
  amoWord .far (amoInfo 5 d w.val i) 5 d r w.val i s
/-- R236, R242: `amo.f.xchg`. -/
def execAmoFXchg (d : Fin 128) (r : Fin 32) (w : Fin 8) (i : Fin 128) (s : State) : Host.Outcome State Fault Refusal :=
  amoWord .far (amoInfo 6 d w.val i) 6 d r w.val i s
/-- R236, R242: `amo.f.cas`. -/
def execAmoFCas (d : Fin 128) (r : Fin 32) (w : Fin 8) (i : Fin 128) (s : State) : Host.Outcome State Fault Refusal :=
  amoWord .far (amoInfo 7 d w.val i) 7 d r w.val i s
/-- R236, R243: `amo.c.add`. -/
def execAmoCAdd (d : Fin 128) (r : Fin 32) (w : Fin 8) (i : Fin 128) (s : State) : Host.Outcome State Fault Refusal :=
  amoWord .common (amoInfo 0 d w.val i) 0 d r w.val i s
/-- R236, R243: `amo.c.min`. -/
def execAmoCMin (d : Fin 128) (r : Fin 32) (w : Fin 8) (i : Fin 128) (s : State) : Host.Outcome State Fault Refusal :=
  amoWord .common (amoInfo 1 d w.val i) 1 d r w.val i s
/-- R236, R243: `amo.c.max`. -/
def execAmoCMax (d : Fin 128) (r : Fin 32) (w : Fin 8) (i : Fin 128) (s : State) : Host.Outcome State Fault Refusal :=
  amoWord .common (amoInfo 2 d w.val i) 2 d r w.val i s
/-- R236, R243: `amo.c.and`. -/
def execAmoCAnd (d : Fin 128) (r : Fin 32) (w : Fin 8) (i : Fin 128) (s : State) : Host.Outcome State Fault Refusal :=
  amoWord .common (amoInfo 3 d w.val i) 3 d r w.val i s
/-- R236, R243: `amo.c.or`. -/
def execAmoCOr (d : Fin 128) (r : Fin 32) (w : Fin 8) (i : Fin 128) (s : State) : Host.Outcome State Fault Refusal :=
  amoWord .common (amoInfo 4 d w.val i) 4 d r w.val i s
/-- R236, R243: `amo.c.xor`. -/
def execAmoCXor (d : Fin 128) (r : Fin 32) (w : Fin 8) (i : Fin 128) (s : State) : Host.Outcome State Fault Refusal :=
  amoWord .common (amoInfo 5 d w.val i) 5 d r w.val i s
/-- R236, R243: `amo.c.xchg`. -/
def execAmoCXchg (d : Fin 128) (r : Fin 32) (w : Fin 8) (i : Fin 128) (s : State) : Host.Outcome State Fault Refusal :=
  amoWord .common (amoInfo 6 d w.val i) 6 d r w.val i s
/-- R236, R243: `amo.c.cas`. -/
def execAmoCCas (d : Fin 128) (r : Fin 32) (w : Fin 8) (i : Fin 128) (s : State) : Host.Outcome State Fault Refusal :=
  amoWord .common (amoInfo 7 d w.val i) 7 d r w.val i s
/-- R245: `amo.r.add`. -/
def execAmoRAdd (d : Fin 128) (r : Fin 32) (i : Fin 128) (s : State) : Host.Outcome State Fault Refusal :=
  amoWord .reserve (amoRInfo d i) 0 d r 5 i s
/-- R246: `bred.add`. -/
def execBredAdd (d : Fin 128) (r : Fin 32) (w : Fin 8) (i : Fin 128) (s : State) : Host.Outcome State Fault Refusal :=
  bredWord 0 d r w i s
/-- R246: `bred.min`. -/
def execBredMin (d : Fin 128) (r : Fin 32) (w : Fin 8) (i : Fin 128) (s : State) : Host.Outcome State Fault Refusal :=
  bredWord 1 d r w i s
/-- R246: `bred.max`. -/
def execBredMax (d : Fin 128) (r : Fin 32) (w : Fin 8) (i : Fin 128) (s : State) : Host.Outcome State Fault Refusal :=
  bredWord 2 d r w i s
/-- R246: `bred.and`. -/
def execBredAnd (d : Fin 128) (r : Fin 32) (w : Fin 8) (i : Fin 128) (s : State) : Host.Outcome State Fault Refusal :=
  bredWord 3 d r w i s
/-- R246: `bred.or`. -/
def execBredOr (d : Fin 128) (r : Fin 32) (w : Fin 8) (i : Fin 128) (s : State) : Host.Outcome State Fault Refusal :=
  bredWord 4 d r w i s
/-- R246: `bred.xor`. -/
def execBredXor (d : Fin 128) (r : Fin 32) (w : Fin 8) (i : Fin 128) (s : State) : Host.Outcome State Fault Refusal :=
  bredWord 5 d r w i s

/-! ### The update at the unit -/

/-- R236: the new value of a location, or none where nothing is written. -/
def atomicNew (op w old v cmp : Nat) : Option Nat :=
  let bits := 8 * atomicBytes w
  let signed := w = 0 ∨ w = 3
  let lt (a b : Nat) : Bool := if signed then decide (signedOf bits a < signedOf bits b) else decide (a < b)
  match op with
  | 0 => some (if w = 2 then
      ((ieeeAdd .rne (f32Val (BitVec.ofNat 32 old)) (f32Val (BitVec.ofNat 32 v))).round .f32 .rne 0).code
    else (old + v) % 2 ^ bits)
  | 1 => some (if w = 2 then (fminWord (BitVec.ofNat 32 old) (BitVec.ofNat 32 v)).toNat else if lt v old then v else old)
  | 2 => some (if w = 2 then (fmaxWord (BitVec.ofNat 32 old) (BitVec.ofNat 32 v)).toNat else if lt old v then v else old)
  | 3 => some (old &&& v)
  | 4 => some (old ||| v)
  | 5 => some (old ^^^ v)
  | 6 => some v
  | _ => if old = cmp then some v else none

/-- R231, R241, R242, R373: before elements are performed their lines leave the core's L1 once more, and the lines come to the unit. -/
def State.atUnit (s : State) (c : CoreId) (es : List AtomicElem) : State :=
  let ts := es.flatMap (·.targets)
  (s.dropNamed c ts).touchAll (if es.any (·.far) then .home else corePort c) (es.any (·.comp)) true ts

/-- R240, R401: an old value reaches its registers. -/
def State.landOld (s : State) (o : Op) (e : AtomicElem) (old : Nat) : State :=
  s.changeBy o.core e.slot o.fword fun now g => g.land o now (e.dst.zipIdx.map fun q => ⟨e.lane, q.1, 0, 32, old / 2 ^ (32 * q.2) % 2 ^ 32⟩)

/-- R218, R248, R249: an element of an exact cell: its read side and its write, in the cell's chain. -/
def State.cellAtomic (s : State) (o : Op) (order : Nat) (r : Reach) (e : AtomicElem) (pa : Nat) : State :=
  let chain := ((s.chains.find? fun c => c.1 == pa).map (·.2)).getD []
  let lane := oneBit e.lane.val
  let s := if e.dst.isEmpty then s
    else
      let s1 := (s.newRead e.past e.targets chain).modOrds o.core e.slot lane fun _ x => x.read s.nextId
      if (acquires order r).isSome then s1.hearFrom o.core e.slot lane r chain else s1
  let id := s.nextId
  let v := BitVec.ofNat 32 e.v
  ((((s.newWrite (s.partyFor o.core e.slot lane) e.heads e.past).setCellAt pa (if e.op = 0 then (s.cell pa).add (f32Val v) else .ofWord v)).extendChain
    pa id).noteWrite o.core e.slot lane id)

/-- R236, R248, R249: performs one element; the old value is written to its registers unless the thread has exited. -/
def State.performElem (s : State) (o : Op) (order : Nat) (r : Reach) (e : AtomicElem) : State :=
  match e.cell, e.targets with
  | true, .phys pa _ :: _ => (s.cellAtomic o order r e pa).landOld o e (s.cell pa).read.toNat
  | _, _ =>
    let q := s.rmw o.core e.slot (oneBit e.lane.val) e.past e.heads r (!e.dst.isEmpty) (acquires order r).isSome false e.targets
      fun old => atomicNew e.op e.w old e.v e.cmp
    q.1.landOld o e q.2

/-- R245: performs one AMO.R element: the class that it raises, if any. DESIGN CHOICE (log 35): the second detail word of class 0x04, which
names no element out of bounds here, is 0. -/
def State.performReserve (s : State) (o : Op) (order : Nat) (r : Reach) (e : AtomicElem) (teamIndex : Nat) : State × Option (Nat × List Word) :=
  let word (n : Nat) : Nat := leValue (((e.targets.drop (4 * n)).take 4).map fun t => s.byteNow t.spot.1 t.spot.2)
  let cur := word 0
  let fin := word 1
  if word 2 ≠ teamIndex ∨ word 3 ≠ 0 then (s, some (0x06, vaDetail 0 e.va))
  else if fin < cur ∨ fin - cur < e.v then (s, some (0x04, [BitVec.ofNat 32 (fieldOf o.word.toNat 10 5), 0]))
  else
    let q := s.rmw o.core e.slot (oneBit e.lane.val) e.past e.heads r (!e.dst.isEmpty) (acquires order r).isSome true (e.targets.take 4)
      fun old => some ((old + e.v) % 2 ^ 32)
    (q.1.landOld o e cur, none)

/-- The line on which an element lies (R237). -/
def AtomicElem.line (e : AtomicElem) : Target :=
  match e.targets.headD (.phys 0 none) with
  | .phys pa key => .phys (pa / 128) key
  | .scratch d off => .scratch d (off / 128)
  | .own k off _ _ => .own k (off / 128) 0 none

/-- R398: a trap that an element raises for its thread. -/
def State.raiseElem (s : State) (o : Op) (e : Slot × Lane) (cls : Nat) (detail : List Word) : State :=
  s.raiseLater { o with slot := e.1 } (fun l => l == e.2) cls detail

/-- R239, R245: performs an element, or leaves it to the poison report. -/
def State.performOne (s : State) (o : Op) (order : Nat) (r : Reach) (e : AtomicElem) : State :=
  if e.targets.any s.poisonedTarget then s.addFrom o e.slot (.report [(e.slot, e.lane, e.va)])
  else if e.w = 5 then
    let idx := ((s.group? o.core e.slot).bind fun g => s.team? g.team).map (·.index)
    match s.performReserve o order r e (idx.getD 0) with
    | (s, some (cls, d)) => s.raiseElem o (e.slot, e.lane) cls d
    | (s, none) => s
  else s.performElem o order r e

/-- R236, R237: an element of an atomic word is performed, and with it the other elements of the word on its line. -/
def execAtomicElementPerformed (op index : Nat) (s : State) : Host.Outcome State Fault Refusal :=
  .next (match s.op? op with
    | some o => match o.work with
      | .atomic es order r => match es[index]? with
        | some e =>
          let now := es.filter fun x => x.line == e.line
          let rest := es.filter fun x => x.line != e.line
          let s := (now.foldl (fun s x => s.performOne o order r x) (s.atUnit o.core now)).afterAtomic o.core order r now
          if rest.isEmpty then s.dropOp op
          else s.modOp op fun o => { o with work := .atomic rest order r }
        | none => s
      | _ => s
    | none => s)

/-- R239: the report of poison reaches the core. -/
def execAtomicPoisonReport (op index : Nat) (s : State) : Host.Outcome State Fault Refusal :=
  .next (match s.op? op with
    | some o => match o.work with
      | .report who => match who[index]? with
        | some w =>
          let s := if who.length ≤ 1 then s.dropOp op
            else s.modOp op fun o => { o with work := .report (who.eraseIdx index) }
          s.raiseElem o (w.1, w.2.1) 0x08 (vaDetail 0 w.2.2)
        | none => s
      | _ => s
    | none => s)

/-- R246: one combined update: an access of every contributing thread. -/
def State.performCombined (s : State) (o : Op) (r : Reach) (es : List AtomicElem) : State :=
  match es with
  | [] => s
  | e :: rest =>
    let heads := es.flatMap (·.heads)
    let past := View.joins (es.map (·.past))
    let slots := (es.map (·.slot)).eraseDups
    if e.targets.any s.poisonedTarget then s.addFrom o e.slot (.report (es.map fun x => (x.slot, x.lane, x.va)))
    else
      let id := s.nextId
      let s := match e.cell, e.targets with
        | true, .phys pa _ :: _ =>
          ((s.newWrite (s.partyFor o.core e.slot (oneBit e.lane.val)) heads past).setCellAt pa
            (es.foldl (fun c x => c.add (f32Val (BitVec.ofNat 32 x.v))) (s.cell pa))).extendChain pa id
        | _, _ => (s.rmw o.core e.slot (oneBit e.lane.val) past heads r false false false e.targets fun old =>
          if e.op = 0 ∧ e.w = 2 then
            let vals := es.map fun x => f32Val (BitVec.ofNat 32 x.v)
            -- R42: SumRule(contract, old, v, 1, K) is the same under both rules for K ≤ 32
            some (sumRule false false (Acc.ofVal (f32Val (BitVec.ofNat 32 old))) vals).1.f32
          else
            let u := rest.foldl (fun u x => (atomicNew e.op e.w u x.v 0).getD u) e.v
            some ((atomicNew e.op e.w old u 0).getD old)).1
      slots.foldl (fun s k => s.noteWrite o.core k (lanesAmong es k) id) s

/-- R246: a combined update of a BRED word is applied; with it those of the word on the same line (R237). -/
def execBredUpdate (op index : Nat) (s : State) : Host.Outcome State Fault Refusal :=
  .next (match s.op? op with
    | some o => match o.work with
      | .bred us order r => match us[index]? with
        | some u =>
          let line := fun (x : List AtomicElem) => x.head?.map AtomicElem.line
          let now := us.filter fun x => line x == line u
          let rest := us.filter fun x => line x != line u
          let s := (now.foldl (fun s x => s.performCombined o r x) (s.atUnit o.core now.flatten)).afterAtomic o.core order r now.flatten
          if rest.isEmpty then s.dropOp op
          else s.modOp op fun o => { o with work := .bred rest order r }
        | none => s
      | _ => s
    | none => s)

end Sys2Proof.Machine
end

