-- ==== Sys2Proof/Machine/Ply.lean ====
section
/-! DEFINITION. Ply tapes (R315 to R334). -/

namespace Sys2Proof.Machine

/-! ### Records and frames -/

/-- R316: frames in the tape. -/
def Tape.frames (t : Tape) : Nat := match t.recs.getLast? with
  | some r => r.first + r.nfr
  | none => 0

/-- R316: frames that the tape holds at most. -/
def Tape.room (t : Tape) : Nat := t.extent / 64

/-- A tape that is not open (R315). -/
def Tape.none_ : Tape := ⟨.closed, false, false, 0, 0, false, [], Vector.replicate 32 0⟩

/-- R317: header word 1 of frame `idx` of a record. -/
def PlyRec.word1 (r : PlyRec) (idx : Nat) : Nat :=
  r.kind * 2 ^ 30 + r.slot * 2 ^ 27 + r.extc * 2 ^ 25 + r.nfr * 2 ^ 16 + idx * 2 ^ 8

/-- R317: the 64 bytes of each frame of a record with a payload. -/
def PlyRec.frameBytes (r : PlyRec) (payload : List Byte) : List (List Byte) :=
  (List.range r.nfr).map fun i =>
    leBytes 4 r.mask.toNat ++ leBytes 4 (r.word1 i) ++
      (List.range 56).map fun j => payload.getD (56 * i + j) 0

/-- R318: the code of a difference, and the bytes that follow for it. -/
def plyCode (d : Word) : Nat := if d = 0 then 0 else if d.toNat < 2 ^ 8 then 1 else if d.toNat < 2 ^ 16 then 2 else 3

/-- R318: value bytes of a code. -/
def plyBytes (c : Nat) : Nat := if c = 3 then 4 else c

/-- R318: the payload of a value record from its differences. -/
def plyPayload (ds : List Word) : List Byte :=
  let codes := ds.map plyCode
  leBytes ((ds.length + 3) / 4) (packCodes 2 codes) ++ ds.flatMap fun d => leBytes (plyBytes (plyCode d)) d.toNat

/-- R318: the differences in a payload, and the payload's length. -/
def plyUnpack (n : Nat) (payload : List Byte) : List Word × Nat :=
  let head := (n + 3) / 4
  let codes := (List.range n).map fun i => packedElem 2 (leValue (payload.take head)) i
  let r := codes.foldl (fun (acc : List Word × Nat) c =>
    (acc.1 ++ [BitVec.ofNat 32 (leValue ((payload.drop acc.2).take (plyBytes c)))], acc.2 + plyBytes c)) ([], head)
  r

/-- R317: the words w of an extent code. -/
def plyWidth (extc : Nat) : Nat := 2 ^ extc

/-- R319: the last known words of each lane in a segment, for one slot and extent. -/
abbrev PlyRefs := List (Lane × List Word)

/-- The reference words of a lane. -/
def refWords (rs : PlyRefs) (l : Lane) (w : Nat) : List Word := ((rs.find? fun r => r.1 == l).map (·.2)).getD (List.replicate w 0)

/-- R319: the references after a record that gave these lanes their words. -/
def refUpdate (rs new : PlyRefs) : PlyRefs := new ++ rs.filter fun r => !new.any fun n => n.1 == r.1

/-- R327: a value record decoded against its references. -/
def plyDecode (rs : PlyRefs) (mask : Word) (w : Nat) (payload : List Byte) : PlyRefs × Nat :=
  let lanes := maskLanes mask
  let u := plyUnpack (lanes.length * w) payload
  (lanes.zipIdx.map fun q => (q.1, (List.range w).map fun j => u.1.getD (q.2 * w + j) 0 ^^^ (refWords rs q.1 w).getD j 0), u.2)

/-! ### The frames in memory -/

/-- The virtual address of byte `i` of a tape's buffer. -/
def Group.tapeVa (g : Group) (t : Tape) (i : Nat) : Nat := (segBase g.seg[(5 : Fin 8)] + t.base + i) % 2 ^ 57

/-- The lines of a run of frames. -/
def Group.frameLines (g : Group) (t : Tape) (first n : Nat) : List Nat :=
  ((List.range (64 * n)).map fun i => g.tapeVa t (64 * first + i) / 128).eraseDups

/-- Lines of the smallest page. -/
def pageLines : Nat := pageBytes / 128

/-- R363, R364: an engine of a waiting word translates lines; a page fault makes one entry for each page (log 70) and the word waits,
unless firmware has answered with fail. -/
def State.engineLines (s : State) (c : CoreId) (k : Slot) (g : Group) (write : Bool) (lines : List Nat) :
    State × List (Nat × Walk) × Bool :=
  let r := s.translateLines (.core c) g.ctx write lines
  let walks := r.2.map fun w => match w.2 with
    | .page => if g.refused.any fun l => l / pageLines == w.1 / pageLines then (w.1, .failure) else w
    | .ok pa _ => if s.peerRefuses pa then (w.1, .failure) else w
    | .failure => w
  let pages := (walks.filter fun w => w.2 == .page).map (·.1)
  (pages.foldl (fun s l =>
    if s.faults.any fun f => f.ctx == g.ctx && f.core == c && f.slot == k && f.kind == 4 && f.va / pageBytes == l / pageLines then s
    else s.addFault g.ctx c k 0 (l * 128) 4) r.1, walks, !pages.isEmpty)

/-- R207, R373, R375: the memory-side dies meet the ply unit's access to translated lines, past every cache above. -/
def State.touchLines (s : State) (t : Tape) (walks : List (Nat × Walk)) (write : Bool) : State :=
  walks.foldl (fun s w => match w.2 with | .ok pa key => s.touch .home key pa t.comp write | _ => s) s

/-- The byte of a tape's buffer in memory, with whether it is poisoned; the ply unit uses no cache (R207). -/
def State.tapeByte (s : State) (g : Group) (t : Tape) (walks : List (Nat × Walk)) (i : Nat) : Byte × Bool :=
  match lookupLine walks (g.tapeVa t i) with
  | .ok pa key => (s.readPa key (pa + g.tapeVa t i % 128), s.poisonedPa (pa + g.tapeVa t i % 128))
  | _ => (0, false)

/-- Writes a frame. -/
def State.writeFrame (s : State) (g : Group) (t : Tape) (walks : List (Nat × Walk)) (f : Nat) (bs : List Byte) : State :=
  bs.zipIdx.foldl (fun s b =>
    let va := g.tapeVa t (64 * f + b.2)
    match lookupLine walks va with
    | .ok pa key => s.plainWrite key (pa + va % 128) [b.1]
    | _ => s) s

/-- The bytes of a record's frames. -/
def State.recordBytes (s : State) (g : Group) (t : Tape) (walks : List (Nat × Walk)) (r : PlyRec) : List Byte :=
  (List.range (64 * r.nfr)).map fun i => (s.tapeByte g t walks (64 * r.first + i)).1

/-- A record's frames hold poison. -/
def State.recordPoison (s : State) (g : Group) (t : Tape) (walks : List (Nat × Walk)) (r : PlyRec) : Bool :=
  (List.range (64 * r.nfr)).any fun i => (s.tapeByte g t walks (64 * r.first + i)).2

/-- A record's frames do not translate. -/
def recordLost (g : Group) (t : Tape) (walks : List (Nat × Walk)) (r : PlyRec) : Bool :=
  (g.frameLines t r.first r.nfr).any fun l => lookupLine walks (l * 128) == .failure

/-- R317: the payload in a record's bytes. -/
def plyPayloadOf (bs : List Byte) (nfr : Nat) : List Byte :=
  (List.range nfr).flatMap fun i => ((bs.drop (64 * i)).take 64).drop 8

/-- R328 check 6: the headers in memory are those of the record. -/
def PlyRec.headersMatch (r : PlyRec) (bs : List Byte) : Bool :=
  (List.range r.nfr).all fun i =>
    leValue ((bs.drop (64 * i)).take 4) == r.mask.toNat && leValue ((bs.drop (64 * i + 4)).take 4) == r.word1 i

/-- The position of the newest mark at or before position `n` of the records. -/
def lastMark (rs : List PlyRec) (n : Nat) : Nat :=
  ((rs.take n).zipIdx.foldl (fun acc r => if r.1.kind = 2 then r.2 else acc) 0)

/-- R319: the earlier value records of the segment that the decode of a value record reads: its slot and extent. -/
def Tape.history (t : Tape) (n slot extc : Nat) : List PlyRec :=
  ((t.recs.take n).drop (lastMark t.recs n)).filter fun r => r.kind == 0 && r.slot == slot && r.extc == extc

/-- R319: the references that the records of a history give, and whether all of them are well formed. -/
def State.tapeRefs (s : State) (g : Group) (t : Tape) (walks : List (Nat × Walk)) (hist : List PlyRec) : PlyRefs × Bool :=
  hist.foldl (fun acc r =>
    let bs := s.recordBytes g t walks r
    let d := plyDecode acc.1 r.mask (plyWidth r.extc) (plyPayloadOf bs r.nfr)
    (refUpdate acc.1 d.1, acc.2 && r.headersMatch bs && r.nfr == (d.2 + 55) / 56)) ([], true)

/-- R319, R327: the frames from which one lane's words in a value record at position `n` are decoded: of the earlier records, those
that cover the lane (DEDUCED, log 73). -/
def Tape.chain (t : Tape) (n : Nat) (r : PlyRec) (l : Lane) : List PlyRec :=
  ((t.history n r.slot r.extc).filter fun x => hasBit x.mask l) ++ [r]

/-- The lines of a list of records. -/
def Group.recordLines (g : Group) (t : Tape) (rs : List PlyRec) : List Nat :=
  (rs.flatMap fun r => g.frameLines t r.first r.nfr).eraseDups

/-! ### Recording (R325, R329, R330) -/

/-- What placing a record does to a tape. -/
inductive PlyPlan where
  | full
  /-- A frame that the record is coded against does not translate. -/
  | lost (va : Nat)
  /-- The frames to write and the tape afterwards. -/
  | place (frames : List (Nat × List Byte)) (tape : Tape)

/-- R325, R330: a record placed after the last frame, or the drop of the current segment. -/
def Tape.plan (t : Tape) (r : PlyRec) (payload : List Byte) : PlyPlan :=
  let r := { r with first := t.frames }
  if t.frames + r.nfr ≤ t.room then
    .place ((r.frameBytes payload).zipIdx.map fun f => (r.first + f.2, f.1))
      { t with recs := t.recs ++ [r], suppr := if r.kind = 2 then false else t.suppr }
  else if !t.drop then .full
  else
    let i := lastMark t.recs t.recs.length
    match t.recs[i]? with
    | none => .full
    | some m =>
      let isMark := r.kind == 2
      let after := m.first + m.nfr
      if t.room < after + 1 + isMark.toNat then .full
      else
        let lost : PlyRec := ⟨after, 1, 3, 0, 0, 0xFFFFFFFF, m.num⟩
        let mark : PlyRec := ⟨after + 1, 1, 2, 0, 0, 0xFFFFFFFF, m.num + 1⟩
        let new := if isMark then [lost, mark] else [lost]
        .place (new.flatMap fun x => (x.frameBytes (leBytes 4 x.num)).map fun b => (x.first, b))
          { t with recs := t.recs.take (i + 1) ++ new, suppr := !isMark }

/-- The group's words record on its tape (R315, R325). -/
def Tape.records (t : Tape) : Bool := t.st == .recording && !t.suppr

/-- R318: the value record of a PUT by these lanes. -/
def State.valueRecord (s : State) (g : Group) (t : Tape) (walks : List (Nat × Walk)) (cover : Word) (slot extc : Nat)
    (value : Lane → Nat → Word) : PlyRec × List Byte :=
  let refs := (s.tapeRefs g t walks ((t.history t.recs.length slot extc).filter fun r => r.mask &&& cover != 0)).1
  let w := plyWidth extc
  let ds := (maskLanes cover).flatMap fun l => (List.range w).map fun j => value l j ^^^ (refWords refs l w).getD j 0
  let payload := plyPayload ds
  (⟨0, (payload.length + 55) / 56, 0, slot, extc, cover, 0⟩, payload)

/-- R317: the decision record of a BR. -/
def decisionRecord (cover taken : Word) : PlyRec × List Byte := (⟨0, 1, 1, 0, 0, cover, 0⟩, leBytes 4 (taken &&& cover).toNat)

/-- The plan of a group's recording word; `form` builds the record from the lines read. -/
def State.recordPlan (s : State) (c : CoreId) (k : Slot) (g : Group) (hist : List PlyRec)
    (form : List (Nat × Walk) → PlyRec × List Byte) : State × PlyPlan × List (Nat × Walk) × Bool :=
  let (s, rw, wait1) := s.engineLines c k g false (g.recordLines g.tape hist)
  if wait1 then (s, .full, [], true)
  else match rw.find? fun w => w.2 == .failure with
  | some w => (s, .lost (w.1 * 128), [], false)
  | none =>
    let s := s.touchLines g.tape rw false
    let r := form rw
    match g.tape.plan r.1 r.2 with
    | .full => (s, .full, [], false)
    | .lost va => (s, .lost va, [], false)
    | .place fs t =>
      let (s, ww, wait2) := s.engineLines c k g true ((fs.flatMap fun f => g.frameLines t f.1 1).eraseDups)
      (s, .place fs t, ww, wait2)

/-- A record of a group at a word: what it covers, the records that its references need, and how it is formed. -/
structure Recording where
  cover : Word
  hist  : List PlyRec
  form  : State → List (Nat × Walk) → PlyRec × List Byte

/-- R325: the wait of a recording word: the frames of every group's record must have been translated. -/
def State.recordReady (s : State) (b : Bundle) (f : Member → Group → Option Recording) : State × Bool :=
  (s.members b).foldl (fun (acc : State × Bool) m => match acc.1.group? b.core m.slot with
    | none => acc
    | some g => match f m g with
      | none => acc
      | some r =>
        if g.tape.records && r.cover != 0 then
          let q := acc.1.recordPlan b.core m.slot g r.hist (r.form acc.1)
          (q.1, acc.2 && !q.2.2.2)
        else acc) (s, true)

/-- R325, R329, R330: one group's record is placed. The lanes that raise a trap in its place, with class and detail. -/
def State.recordFor (s : State) (b : Bundle) (m : Member) (g : Group) (r : Recording) : State × Bool :=
  if g.tape.st == .replaying then
    (s.raise b m.slot (fun l => hasBit r.cover l) 0x0D [4], false)
  else if !g.tape.records || r.cover == 0 then (s, true)
  else
    let (s, plan, walks, _) := s.recordPlan b.core m.slot g r.hist (r.form s)
    let s := s.modGroup b.core m.slot fun g => { g with refused := [] }
    match plan with
    | .full => (s.raise b m.slot (fun l => hasBit r.cover l) 0x0B
        [BitVec.ofNat 32 g.tape.frames, BitVec.ofNat 32 g.tape.extent], false)
    | .lost va => (s.raise b m.slot (fun l => hasBit r.cover l) 0x06 (vaDetail 5 va), false)
    | .place fs t =>
      match walks.find? fun w => w.2 == .failure with
      | some w => (s.raise b m.slot (fun l => hasBit r.cover l) 0x06 (vaDetail 5 (w.1 * 128)), false)
      | none =>
        let s := fs.foldl (fun s f => s.writeFrame g t walks f.1 f.2) (s.touchLines g.tape walks true)
        (s.modGroup b.core m.slot fun g => { g with tape := t }, true)

/-- PLY.PUT (R324). -/
def putInfo (e : Ext) (a : LaneSrc) : WordInfo where
  cycles := blockCycles e 1
  blocks := srcBlocks e a
  reads := srcReads a
  rule := { allowed := true, zero := false }
  effect := true
  memory := true
  bad := if 4 ≤ e.val then some 0x01 else match a with
    | .v _ => none
    | .s _ => some 0x02

/-- The lanes of a member in which a prefixed word acts. -/
def Group.covers (g : Group) (m : Member) (p : Pfx) : Word := laneMask fun l => g.active m p l

/-- R325: the record of a PUT. -/
def Group.putRecording (g : Group) (m : Member) (p : Pfx) (e : Ext) (slot : Nat) (a : LaneSrc) : Recording where
  cover := g.covers m p
  hist := (g.tape.history g.tape.recs.length slot e.val).filter fun r => r.mask &&& g.covers m p != 0
  form := fun s walks => s.valueRecord g g.tape walks (g.covers m p) slot e.val fun l j => g.src (g.threads[l]) a j

/-- R325: the wait of PLY.PUT. -/
def putReady (e : Ext) (slot : Fin 8) (a : LaneSrc) (b : Bundle) (p : Pfx) (s : State) : State × Bool :=
  s.recordReady b fun m g => if (putInfo e a).blocks.flatMap Block.regs |>.all g.inAllot then some (g.putRecording m p e slot.val a) else none

/-- R324, R325: PLY.PUT. -/
def execPlyPut (e : Ext) (slot : Fin 8) (a : LaneSrc) (s : State) : Host.Outcome State Fault Refusal :=
  issueWhen (putInfo e a) (putReady e slot a)
    (fun b p s => s.eachMember b fun m s => match s.group? b.core m.slot with
      | some g =>
        if (putInfo e a).blocks.flatMap Block.regs |>.all g.inAllot then (s.recordFor b m g (g.putRecording m p e slot.val a)).1
        else s.raise b m.slot (g.active m p) 0x02 [b.current, BitVec.ofNat 32 (b.idx + 1)]
      | none => s) s

/-- R329: firmware raises the tape's copy of EXTENT, within the LIMIT of seg5. -/
def Group.growTape (g : Group) (extent : Nat) : Group :=
  if g.tape.st != .closed && decide (g.tape.extent ≤ extent) && extent % 64 == 0 && decide (g.tape.base + extent ≤ segLimit g.seg[(5 : Fin 8)]) then
    { g with tape := { g.tape with extent := extent } }
  else g

/-! ### Tape control -/

/-- R326: a thread counts as having consumed a record. -/
def Group.consumed (g : Group) (i : Nat) (l : Lane) : Bool := decide (g.tape.pos[l] ≤ i) || (g.threads[l]).gone

/-- R326: the position and record that a thread has pending. -/
def Group.pending (g : Group) (l : Lane) : Option (Nat × PlyRec) :=
  ((g.tape.recs.zipIdx.filter fun r => decide (r.2 < g.tape.pos[l]) && r.1.kind != 2 && hasBit r.1.mask l).getLast?).map
    fun r => (r.2, r.1)

/-- R322: some record is partly consumed. -/
def Group.partly (g : Group) : Bool :=
  g.tape.recs.zipIdx.any fun r =>
    let ls := (maskLanes r.1.mask).filter fun l : Lane => !(g.threads[l]).gone
    r.1.kind != 2 && ls.any (g.consumed r.2) && ls.any fun l => !g.consumed r.2 l

/-- R322: REVERSE to FORWARD. -/
def Group.cutBack (g : Group) : Tape :=
  let fresh := g.tape.recs.zipIdx.filter fun r =>
    let ls := (maskLanes r.1.mask).filter fun l : Lane => !(g.threads[l]).gone
    r.1.kind != 2 && !ls.isEmpty && ls.all fun l => !g.consumed r.2 l
  let keep := match fresh.getLast? with
    | some r => if r.1.kind = 3 then r.2 else r.2 + 1
    | none => 1
  { g.tape with st := .recording, suppr := false, recs := g.tape.recs.take keep }

/-- PLYC (R320). -/
def plycInfo (writes : List Nat) (bad : Option Nat := none) (memory : Bool := false) : WordInfo where
  uniform := true
  memory := memory
  writes := writes
  bad := bad

/-- The group's threads in the bundle raise class 0x0D with a cause. -/
def State.plyConflict (s : State) (b : Bundle) (m : Member) (cause : Nat) : State :=
  s.raise b m.slot (fun l => hasBit m.sel l) 0x0D [BitVec.ofNat 32 cause]

/-- R316: a record that a tape may open. -/
def Rec.tapeLegal (r : Rec) : Bool :=
  r.ply && r.seg == 5 && r.size == 0 && r.stride == 0 && r.swz == 0 && r.tag == 0 && r.base % 64 == 0
    && r.extent % 64 == 0 && decide (256 ≤ r.extent)

/-- R320: the tape that an open makes before its mark frame is written. -/
def Rec.tape (r : Rec) (drop : Bool) : Tape := ⟨.recording, drop, false, r.base, r.extent, r.comp, [], Vector.replicate 32 0⟩

/-- R317: mark frame `n`. -/
def markRecord (n : Nat) : PlyRec := ⟨0, 1, 2, 0, 0, 0xFFFFFFFF, n⟩

/-- R320: the wait of `plyc.open`: a page fault on mark frame 0 holds the word. -/
def openReady (r : Fin 32) (drop : Bool) (b : Bundle) (_ : Pfx) (s : State) : State × Bool :=
  (s.members b).foldl (fun (acc : State × Bool) m => match acc.1.group? b.core m.slot with
    | some g =>
      let x := Rec.of g.b[r]
      if g.tape.st == .closed && x.tapeLegal && decide (x.base + x.extent ≤ segLimit g.seg[(5 : Fin 8)]) then
        let q := acc.1.engineLines b.core m.slot g true (g.frameLines (x.tape drop) 0 1)
        (q.1, acc.2 && !q.2.2)
      else acc
    | none => acc) (s, true)

/-- R320: `plyc.open`. -/
def openWord (r : Fin 32) (drop : Bool) (s : State) : Host.Outcome State Fault Refusal :=
  issueWhen (plycInfo [] (memory := true)) (openReady r drop)
    (fun b _ s => s.eachMember b fun m s => match s.group? b.core m.slot with
      | none => s
      | some g =>
        let x := Rec.of g.b[r]
        if g.tape.st != .closed then s.plyConflict b m 5
        else if !x.tapeLegal then s.badOperand b m
        else if segLimit g.seg[(5 : Fin 8)] < x.base + x.extent then
          s.raise b m.slot (fun l => hasBit m.sel l) 0x06 (vaDetail 0 0)
        else
          let (s, walks, _) := s.engineLines b.core m.slot g true (g.frameLines (x.tape drop) 0 1)
          let s := s.modGroup b.core m.slot fun g => { g with refused := [] }
          match walks.find? fun w => w.2 == .failure with
          | some w => s.raise b m.slot (fun l => hasBit m.sel l) 0x06 (vaDetail 5 (w.1 * 128))
          | none =>
            let s := (s.touchLines (x.tape drop) walks true).writeFrame g (x.tape drop) walks 0 (((markRecord 0).frameBytes (leBytes 4 0)).headD [])
            s.modGroup b.core m.slot fun g => { g with tape := { x.tape drop with recs := [markRecord 0] } }) s

/-- R320: `plyc.open`. -/
def execPlycOpen (r : Fin 32) (s : State) : Host.Outcome State Fault Refusal := openWord r false s
/-- R320: `plyc.open.drop`. -/
def execPlycOpenDrop (r : Fin 32) (s : State) : Host.Outcome State Fault Refusal := openWord r true s

/-- R320: `plyc.close`. -/
def execPlycClose (s : State) : Host.Outcome State Fault Refusal :=
  uniWrite (plycInfo []) (fun g => { g with tape := .none_ }) s

/-- R322: `plyc.rev`. -/
def execPlycRev (s : State) : Host.Outcome State Fault Refusal :=
  uniWord (plycInfo []) (fun b m g s => match g.tape.st with
    | .closed => s.plyConflict b m 4
    | .recording => s.setGroup b.core m.slot (some { g with tape := { g.tape with
        st := .replaying, pos := Vector.replicate 32 g.tape.recs.length } })
    | .replaying =>
      if g.partly then s.plyConflict b m 5
      else s.setGroup b.core m.slot (some { g with tape := g.cutBack })) s

/-- R321: marks in the tape. -/
def Tape.marks (t : Tape) : Nat := (t.recs.filter fun r => r.kind == 2).length

/-- R321: the record of a mark. -/
def Group.markRecording (g : Group) (m : Member) : Recording where
  cover := m.sel
  hist := []
  form := fun _ _ => (markRecord g.tape.marks, leBytes 4 g.tape.marks)

/-- R321: `plyc.mark` records under SUPPR as well. -/
def Group.unsuppressed (g : Group) : Group := { g with tape := { g.tape with suppr := false } }

/-- R321: the wait of `plyc.mark`. -/
def markReady (b : Bundle) (_ : Pfx) (s : State) : State × Bool :=
  (s.members b).foldl (fun (acc : State × Bool) m => match acc.1.group? b.core m.slot with
    | some g =>
      if g.tape.st == .recording then
        let r := g.markRecording m
        let q := acc.1.recordPlan b.core m.slot g.unsuppressed r.hist (r.form acc.1)
        (q.1, acc.2 && !q.2.2.2)
      else acc
    | none => acc) (s, true)

/-- R321: `plyc.mark`. -/
def execPlycMark (d : Fin 128) (s : State) : Host.Outcome State Fault Refusal :=
  issueWhen (plycInfo [d.val] (memory := true)) markReady
    (fun b _ s => s.eachMember b fun m s => match s.group? b.core m.slot with
      | none => s
      | some g =>
        if g.tape.st != .recording then s.plyConflict b m 4
        else
          let q := s.recordFor b m g.unsuppressed (g.markRecording m)
          if q.2 then q.1.modGroup b.core m.slot fun h => h.setUni d.val (BitVec.ofNat 32 (h.tape.marks - 1)) else q.1) s

/-- R323: the status word of `plyc.stat`. -/
def Tape.status (t : Tape) : Nat :=
  (match t.st with | .closed => 0 | .recording => 1 | .replaying => 2) + t.drop.toNat * 4 + t.suppr.toNat * 8
    + (t.recs.any fun r => r.kind == 3).toNat * 16

/-- R323: `plyc.stat`. -/
def execPlycStat (d : Fin 128) (s : State) : Host.Outcome State Fault Refusal :=
  uniWrite (plycInfo (regRun d.val 3) (if 125 < d.val then some 0x02 else none)) (fun g =>
    ((g.setUni d.val (BitVec.ofNat 32 g.tape.status)).setUni (d.val + 1) (BitVec.ofNat 32 g.tape.frames)).setUni (d.val + 2)
      (if g.tape.st = .closed then 0xFFFFFFFF else BitVec.ofNat 32 (g.tape.marks - 1))) s

/-! ### Replay (R326 to R328) -/

/-- R328: what a thread meets at a replay word; `want` is the kind, slot and extent (none for BRX). `good` is check 6. -/
def Group.replayCheck (g : Group) (want : Option (Nat × Nat)) (good : Nat × PlyRec → Bool) (l : Lane) :
    (Nat × List Word) ⊕ (Nat × PlyRec) :=
  if g.tape.st ≠ .replaying then .inl (0x0D, [4])
  else match g.pending l with
    | none => .inl (0x0D, [3])
    | some r =>
      if r.2.kind = 3 then .inl (0x0C, [BitVec.ofNat 32 r.2.num])
      else match want with
        | none => if r.2.kind ≠ 1 then .inl (0x0D, [1]) else if good r then .inr r else .inl (0x0D, [6])
        | some (slot, extc) =>
          if r.2.kind ≠ 0 then .inl (0x0D, [1])
          else if r.2.slot ≠ slot ∨ r.2.extc ≠ extc then .inl (0x0D, [2])
          else if good r then .inr r else .inl (0x0D, [6])

/-- The records that a replay word of some lanes reads. -/
def Group.replayRecords (g : Group) (lanes : Lane → Bool) : List PlyRec :=
  if g.tape.st ≠ .replaying then []
  else (((List.finRange 32).filter lanes).flatMap fun l => match g.pending l with
    | some r => if r.2.kind = 0 then g.tape.chain r.1 r.2 l else if r.2.kind = 1 then [r.2] else []
    | none => []).eraseDups

/-- R327: the wait of a replay word. -/
def State.replayReady (s : State) (b : Bundle) (lanes : Group → Member → Lane → Bool) : State × Bool :=
  (s.members b).foldl (fun (acc : State × Bool) m => match acc.1.group? b.core m.slot with
    | some g =>
      let q := acc.1.engineLines b.core m.slot g false (g.recordLines g.tape (g.replayRecords (lanes g m)))
      (q.1, acc.2 && !q.2.2)
    | none => acc) (s, true)

/-- R328 check 6 for a lane's record: its frames and those its words are decoded against. Frames that do not translate or hold poison
pass it: the read reports them (R327). -/
def State.recordGood (s : State) (g : Group) (walks : List (Nat × Walk)) (l : Lane) (r : Nat × PlyRec) : Bool :=
  let rs := if r.2.kind = 0 then g.tape.chain r.1 r.2 l else [r.2]
  if rs.any (recordLost g g.tape walks) || rs.any (s.recordPoison g g.tape walks) then true
  else if r.2.kind = 0 then (s.tapeRefs g g.tape walks rs).2
  else r.2.headersMatch (s.recordBytes g g.tape walks r.2)

/-- PLY.GET (R324). -/
def getInfo (e : Ext) (d : Fin 128) (t : Fin 8) : WordInfo where
  cycles := blockCycles e 1
  blocks := [Block.of e d]
  writesBlock := true
  token := some (104 + t.val)
  rule := { allowed := true }
  effect := true
  memory := true
  bad := if 4 ≤ e.val then some 0x01 else none

/-- R326: lanes consume their pending records. -/
def Group.consume (g : Group) (hits : List (Lane × Nat × PlyRec)) : Group :=
  { g with tape := { g.tape with
    pos := Vector.ofFn fun l : Fin 32 => match hits.find? fun h => h.1 == l with
      | some h => h.2.1
      | none => g.tape.pos[l] } }

/-- R327: PLY.GET for one group. -/
def State.getFor (s : State) (b : Bundle) (p : Pfx) (e : Ext) (d : Fin 128) (slot t : Fin 8) (m : Member) : State :=
  match s.group? b.core m.slot with
  | none => s
  | some g =>
    let act := g.active m p
    let zero := g.zeroWrites m p (getInfo e d t)
    let start := fun (s : State) (w : Work) => s.startOp b m (104 + t.val) zero w
    -- R9: a word that traps in every thread starts no operation
    match s.allotted b m (getInfo e d t) act with
    | (s, false) => if zero.isEmpty && (List.finRange 32).any act then s else start s (.plyGet (104 + t.val) zero 0 false false)
    | (s, true) =>
      let (s, walks, _) := s.engineLines b.core m.slot g false (g.recordLines g.tape (g.replayRecords act))
      let s := (s.modGroup b.core m.slot fun g => { g with refused := [] }).touchLines g.tape walks false
      let outs := ((List.finRange 32).filter act).map fun l : Lane =>
        (l, g.replayCheck (some (slot.val, e.val)) (s.recordGood g walks l) l)
      let s := outs.foldl (fun s o => match o.2 with
        | .inl x => s.raise b m.slot (fun l => l == o.1) x.1 x.2
        | .inr _ => s) s
      let hits := outs.filterMap fun o => match o.2 with | .inr r => some (o.1, r) | .inl _ => none
      let recs := (hits.map (·.2)).eraseDups
      let needs := fun (h : Lane × Nat × PlyRec) => g.tape.chain h.2.1 h.2.2 h.1
      let lost := fun h => (needs h).any (recordLost g g.tape walks)
      let poisoned := fun h => (needs h).any (s.recordPoison g g.tape walks)
      let ws := hits.flatMap fun h =>
        if lost h || poisoned h then []
        else (refWords (s.tapeRefs g g.tape walks (needs h)).1 h.1 (plyWidth e.val)).zipIdx.map fun q =>
          (⟨h.1, rowOf g.ring (g.threads[h.1]).turn (d.val + q.2), 0, 32, q.1.toNat⟩ : LaneWrite)
      if hits.isEmpty && !outs.isEmpty && zero.isEmpty then s
      else start (s.modGroup b.core m.slot fun g => g.consume hits)
        (.plyGet (104 + t.val) (zero ++ ws) recs.length (hits.any lost) (hits.any poisoned))

/-- R327: the wait of PLY.GET. -/
def getReady (b : Bundle) (p : Pfx) (s : State) : State × Bool := s.replayReady b fun g m => g.active m p

/-- R327: the wait of PLY.BRX. -/
def brxReady (b : Bundle) (_ : Pfx) (s : State) : State × Bool := s.replayReady b fun _ m l => hasBit m.sel l

/-- R324, R327: PLY.GET. -/
def execPlyGet (e : Ext) (d : Fin 128) (t slot : Fin 8) (s : State) : Host.Outcome State Fault Refusal :=
  issueWhen (getInfo e d t) getReady
    (fun b p s => s.eachMember b fun m s => s.getFor b p e d slot t m) s

/-- R50: the target of a terminal word. -/
def Bundle.target (b : Bundle) (off : Int) : Word := b.after + BitVec.ofInt 32 (4 * off)

/-- A terminal word moves a thread to a clause header (R49, R155). -/
def Thread.goto (t : Thread) (pc : Word) : Thread := { t with run := .ready, pc := pc, inside := none }

/-- R327: PLY.BRX for one group. -/
def State.brxFor (s : State) (b : Bundle) (off : Int) (m : Member) : State :=
  match s.group? b.core m.slot with
  | none => s
  | some g =>
    let act := fun (l : Lane) => hasBit m.sel l
    let (s, walks, _) := s.engineLines b.core m.slot g false (g.recordLines g.tape (g.replayRecords act))
    let s := (s.modGroup b.core m.slot fun g => { g with refused := [] }).touchLines g.tape walks false
    let outs := ((List.finRange 32).filter act).map fun l : Lane => (l, g.replayCheck none (s.recordGood g walks l) l)
    outs.foldl (fun s o => match o.2 with
      | .inl x => s.raise b m.slot (fun l => l == o.1) x.1 x.2
      | .inr r =>
        if recordLost g g.tape walks r.2 then
          s.raise b m.slot (fun l => l == o.1) 0x06 (vaDetail 5 (g.tapeVa g.tape (64 * r.2.first) / 128 * 128))
        else if s.recordPoison g g.tape walks r.2 then
          s.raise b m.slot (fun l => l == o.1) 0x08 (vaDetail 0 (g.tapeVa g.tape (64 * r.2.first)))
        else
          let taken := (leValue ((plyPayloadOf (s.recordBytes g g.tape walks r.2) 1).take 4)).testBit o.1.val
          s.modGroup b.core m.slot fun g => (g.consume [(o.1, r)]).modThread o.1 fun t =>
            t.goto (if taken then b.target off else b.after)) s

/-- R324, R327: PLY.BRX. -/
def execPlyBrx (o : BitVec 18) (s : State) : Host.Outcome State Fault Refusal :=
  issueWhen { flowInfo [] with memory := true } brxReady
    (fun b _ s => s.eachMember b fun m s => s.brxFor b o.toInt m) s

end Sys2Proof.Machine
end

