-- ==== Sys2Proof/Machine/Control.lean ====
section
/-! DEFINITION. Control flow, barriers and gathering words (R121, R155 to R180). -/

namespace Sys2Proof.Machine

/-! ### Branches and the repetition detector -/

/-- R109: a branch whose target lies at most 16 words before the branch word. -/
def watchedBranch (off : Int) : Bool :=
  let d := off + 1            -- from the branch word to its target
  decide (d ≤ 0) && decide (-16 ≤ d)

/-- R109: an offset lies outside the range from the target of a branch to the branch. -/
def outsideRange (k : Word × Word) (o : Word) : Bool := decide (o.toNat < k.2.toNat) || decide (k.1.toNat < o.toNat)

/-- R109: no word of the group inside the range of a branch has changed anything since the group entered it. -/
def Sched.calm (x : Sched) (k : Word × Word) : Bool :=
  (match x.noisy with | none => true | some o => outsideRange k o)
  || (match x.span with | none => false | some p => outsideRange k p.1 || outsideRange k p.2)

/-- R109: a group takes a watched branch, given as its word and its target. The fourth time in a row at the end of an iteration that
changed nothing, it is marked. -/
def Sched.branched (x : Sched) (k : Word × Word) : Sched :=
  let quiet := if x.branch = some k then x.quiet else x.calm k
  let before := if x.branch = some k then x.taken else 0
  let n := if quiet then before + 1 else 0
  { x with branch := some k, taken := n, quiet := true, floor := if 4 ≤ n then some k else x.floor }

/-- R109: notes a taken branch for a group. -/
def State.noteBranch (s : State) (b : Bundle) (k : Slot) (off : Int) : State :=
  if watchedBranch off then s.modCore b.core fun x =>
    { x with sched := x.sched.set k ((x.sched[k]).branched (b.offset b.idx, b.target off)) }
  else s

/-- Every thread of the group that is still in the bundle moves by a function of its lane. -/
def State.moveThreads (s : State) (b : Bundle) (m : Member) (f : Group → Lane → Thread → Thread) : State :=
  s.modGroup b.core m.slot fun g => g.mapThreads fun l t =>
    if hasBit m.sel l && t.run == .member then f g l t else t

/-- A terminal L word that only moves threads. -/
def flowWord (i : WordInfo) (f : Bundle → Group → Lane → Thread → Thread) (s : State) : Host.Outcome State Fault Refusal :=
  issue i (fun b _ s => s.eachMember b fun m s => s.moveThreads b m (f b)) s

/-- R157: BR (a recording BR is an issue of a ply record, R109). -/
def brInfo (rec_ : Bool) : WordInfo := { flowInfo [] with effect := rec_, memory := rec_ }

/-- R157: the lanes for which BR's test is true. -/
def Group.brTaken (g : Group) (m : Member) (q : Fin 64) (sense : Bool) : Word :=
  laneMask fun l => hasBit m.sel l && ((g.threads[l]).pred q.val != sense)

/-- R325: the decision record of a BR. -/
def Group.brRecording (g : Group) (m : Member) (q : Fin 64) (sense : Bool) : Recording where
  cover := m.sel
  hist := []
  form := fun _ _ => decisionRecord m.sel (g.brTaken m q sense)

/-- R325: the wait of a BR. -/
def brReady (q : Fin 64) (sense rec_ : Bool) (b : Bundle) (_ : Pfx) (s : State) : State × Bool :=
  if rec_ then s.recordReady b fun m g => some (g.brRecording m q sense) else (s, true)

/-- R157: BR. -/
def execBr (q : Fin 64) (sense rec_ : Bool) (o : BitVec 17) (s : State) : Host.Outcome State Fault Refusal :=
  issueWhen (brInfo rec_) (brReady q sense rec_)
    (fun b _ s => s.eachMember b fun m s => match s.group? b.core m.slot with
      | none => s
      | some g =>
        let taken := g.brTaken m q sense
        let (s, ok) := if rec_ then s.recordFor b m g (g.brRecording m q sense) else (s, true)
        if ok then
          let s := s.moveThreads b m fun _ l t => t.goto (if hasBit taken l then b.target o.toInt else b.after)
          if taken = 0 then s else s.noteBranch b m.slot o.toInt
        else s) s

/-- R158: BRA; `cond` gives the group's condition. -/
def braWord (reads : List Nat) (o : BitVec 16) (cond : Group → Bool) (s : State) : Host.Outcome State Fault Refusal :=
  uniWord { uniform := true, reads := reads, terminal := true } (fun b m g s =>
    let s := s.moveThreads b m fun _ _ t => t.goto (if cond g then b.target o.toInt else b.after)
    if cond g then s.noteBranch b m.slot o.toInt else s) s

/-- R158: `bra`. -/
def execBra (o : BitVec 16) (s : State) : Host.Outcome State Fault Refusal := braWord [] o (fun _ => true) s
/-- R158: `bra.z`. -/
def execBraZ (c : Fin 128) (o : BitVec 16) (s : State) : Host.Outcome State Fault Refusal :=
  braWord [c.val] o (fun g => g.uni c.val == 0) s
/-- R158: `bra.nz`. -/
def execBraNz (c : Fin 128) (o : BitVec 16) (s : State) : Host.Outcome State Fault Refusal :=
  braWord [c.val] o (fun g => g.uni c.val != 0) s

/-! ### Calls -/

/-- R156, R195: the offset in its team's area of an entry of a thread's call stack. The areas of the threads follow the
private bytes, thread after thread (log 20). -/
def callOffset (groups priv stack thread entry : Nat) : Nat := 32 * groups * priv + thread * stack + 4 * entry

/-- R156: the bytes of an entry. -/
def State.callEntry (s : State) (g : Group) (l : Lane) (entry : Nat) : Word :=
  match s.kernelOf g, s.team? g.team with
  | some k, some t =>
    let a := callOffset k.groups k.priv k.stack (32 * g.gid + l.val) entry
    BitVec.ofNat 32 (leValue ((List.range 4).map fun i => getCell t.own (a + i)))
  | _, _ => 0

/-- R156: writes an entry. -/
def State.setCallEntry (s : State) (g : Group) (l : Lane) (entry : Nat) (x : Word) : State :=
  match s.kernelOf g with
  | some k => s.modTeam g.team fun t =>
      { t with own := setCells t.own (callOffset k.groups k.priv k.stack (32 * g.gid + l.val) entry) (leBytes 4 x.toNat) }
  | none => s

/-- R156: entries that a thread's call stack holds at most. -/
def State.callRoom (s : State) (g : Group) : Nat := match s.kernelOf g with | some k => k.stack / 4 | none => 0

/-- The lanes of a member, ascending. -/
def Member.lanes (m : Member) : List Lane := maskLanes m.sel

/-- R160: CALL. -/
def execCall (o : BitVec 22) (s : State) : Host.Outcome State Fault Refusal :=
  issue (flowInfo []) (fun b _ s => s.eachMember b fun m s => m.lanes.foldl (fun s l =>
    match s.group? b.core m.slot with
    | none => s
    | some g =>
      let t := g.threads[l]
      if s.callRoom g ≤ t.depth then s.raise b m.slot (fun x => x == l) 0x06 (vaDetail 1 0)
      else (s.setCallEntry g l t.depth b.after).modGroup b.core m.slot fun g => g.modThread l fun t =>
        { t.goto (b.target o.toInt) with depth := t.depth + 1 }) s) s

/-- R160: RET. -/
def execRet (s : State) : Host.Outcome State Fault Refusal :=
  issue (flowInfo []) (fun b _ s => s.eachMember b fun m s => m.lanes.foldl (fun s l =>
    match s.group? b.core m.slot with
    | none => s
    | some g =>
      let t := g.threads[l]
      if t.depth = 0 then s.raise b m.slot (fun x => x == l) 0x06 (vaDetail 2 0)
      else s.modGroup b.core m.slot fun g => g.modThread l fun t =>
        { t.goto (s.callEntry g l (t.depth - 1)) with depth := t.depth - 1 }) s) s

/-- R161: BRI. -/
def execBri (a : Fin 128) (s : State) : Host.Outcome State Fault Refusal :=
  issue (flowInfo [Block.one a]) (fun b _ s => s.eachMember b fun m s => match s.group? b.core m.slot with
    | none => s
    | some g =>
      if g.inAllot a.val then
        let size := 4 * (s.codeOf g).length
        m.lanes.foldl (fun s l =>
          let t : Word := (g.threads[l]).lane g.ring a.val
          if t.toNat % 4 ≠ 0 then s.raise b m.slot (fun x => x == l) 0x07 (vaDetail 0 0)
          else if size ≤ t.toNat then s.raise b m.slot (fun x => x == l) 0x06 (vaDetail 4 0)
          else s.modGroup b.core m.slot fun g => g.modThread l fun x => x.goto t) s
      else s.raise b m.slot (fun l => hasBit m.sel l) 0x02 [b.current, BitVec.ofNat 32 (b.idx + 1)]) s

/-! ### Ends and waits -/

/-- R162: EXIT. -/
def execExit (s : State) : Host.Outcome State Fault Refusal :=
  issue (flowInfo []) (fun b _ s => s.eachMember b fun m s => match s.group? b.core m.slot with
    | none => s
    | some g => (s.moveThreads b m fun _ _ t => { t with run := .exited, inside := none, trap := none }).dropOwn g m.sel) s

/-- R165: RCV. -/
def execRcv (s : State) : Host.Outcome State Fault Refusal :=
  flowWord (flowInfo []) (fun b _ _ t => t.standAt b b.idx .rcv) s

/-- R167, R168: BAR: a release before the arrival; the acquire of those that leave is at the completion. -/
def barWord (clu : Bool) (n : Fin 16) (s : State) : Host.Outcome State Fault Refusal :=
  issue { flowInfo [] with memory := true } (fun b _ s =>
    let s := if clu then s.releaseBy b 3 else s
    s.eachMember b fun m s => s.moveThreads b m fun _ _ t => t.standAt b b.idx (.bar clu n)) s

/-- R167: `bar.team`. -/
def execBarTeam (n : Fin 16) (s : State) : Host.Outcome State Fault Refusal := barWord false n s
/-- R167: `bar.clu`. -/
def execBarClu (n : Fin 16) (s : State) : Host.Outcome State Fault Refusal := barWord true n s

/-- R163: YIELD: the thread is not ready in the 32 cycles that follow the word's own. -/
def execYield (s : State) : Host.Outcome State Fault Refusal :=
  issue (flowInfo []) (fun b _ s =>
    let until_ := (s.cores[b.core]).cycles + 33
    s.eachMember b fun m s => s.moveThreads b m fun _ _ t => { t.goto b.after with run := .yield until_ }) s

/-- R164: TRAPC. -/
def execTrapc (q : Fin 64) (sense : Bool) (arg : BitVec 8) (s : State) : Host.Outcome State Fault Refusal :=
  issue (flowInfo []) (fun b _ s => s.eachMember b fun m s => match s.group? b.core m.slot with
    | none => s
    | some g =>
      let hit := fun (l : Lane) => hasBit m.sel l && ((g.threads[l]).pred q.val != sense)
      s.raise b m.slot hit 0x16 [arg.zeroExtend 32] (after := true)) s

/-- R121: LOOPR. -/
def execLoopr (c : Fin 128) (step : Fin 8) (o : BitVec 15) (s : State) : Host.Outcome State Fault Refusal :=
  issue (looprInfo c step o) (fun b _ s => s.eachMember b fun m s => match s.group? b.core m.slot with
    | none => s
    | some g =>
      if g.inAllot c.val then s.moveThreads b m fun g _ t =>
        let x := t.lane g.ring c.val
        if x = 0 then t.goto b.after
        else
          let t := t.setLane g.ring c.val (x - 1)
          if x - 1 = 0 then t.goto b.after
          else { t.goto (b.target (-(o.toNat : Int))) with
            turn := if g.ring = 0 then 0 else (t.turn + 2 ^ step.val) % g.ring }
      else s.raise b m.slot (fun l => hasBit m.sel l) 0x02 [b.current, BitVec.ofNat 32 (b.idx + 1)]) s

/-! ### Gathering words -/

/-- R173, R174: the contributing members of a lane's gathering set at a gathering word, ascending. -/
def Group.contributors (g : Group) (m : Member) (p : Pfx) (l : Lane) : List Lane :=
  (List.finRange 32).filter fun k : Lane => g.active m p k && g.inSet p.mod k && (g.threads[l]).together g.threads[k] p.mod

/-- R172 to R174: a gathering word. `f` gives a contributing lane's new thread from the contributors. -/
def gatherWord (i : WordInfo) (f : Pfx → Group → Member → List Lane → Lane → Thread → Thread) (s : State) :
    Host.Outcome State Fault Refusal :=
  issue i (fun b p s => s.eachMember b fun m s => match s.group? b.core m.slot with
    | none => s
    | some g =>
      let act := g.active m p
      if (i.names b.pfx).all g.inAllot then
        let s := s.setGroup b.core m.slot (some (g.mapThreads fun l t =>
          if act l && g.inSet p.mod l then f p g m (g.contributors m p l) l t
          else if hasBit m.sel l && !act l && p.zero then t.zeroDst g i else t))
        s.raise b m.slot (fun l => act l && !g.inSet p.mod l) 0x02 [b.current, BitVec.ofNat 32 (b.idx + 1)]
      else s.refuseBlock b p i m act) s

/-- R176: a vote that writes a register. -/
def voteV (d : Fin 128) (a : Fin 64) (f : List Lane → Word) (s : State) : Host.Outcome State Fault Refusal :=
  gatherWord (voteInfo (some d) none) (fun _ g _ cs _ t =>
    t.setLane g.ring d.val (f (cs.filter fun l => (g.threads[l]).pred a.val))) s

/-- R176: a vote that writes a predicate. -/
def voteQ (d a : Fin 64) (f : List Lane → List Lane → Bool) (s : State) : Host.Outcome State Fault Refusal :=
  gatherWord (voteInfo none (some d)) (fun _ g _ cs _ t =>
    t.setPred d.val (f cs (cs.filter fun l => (g.threads[l]).pred a.val))) s

/-- R176: `xln.ballot`. -/
def execXlnBallot (d : Fin 128) (a : Fin 64) (s : State) : Host.Outcome State Fault Refusal :=
  voteV d a (fun hit => laneMask fun l => hit.contains l) s
/-- R176: `xln.all`. -/
def execXlnAll (d a : Fin 64) (s : State) : Host.Outcome State Fault Refusal := voteQ d a (fun cs hit => cs.length == hit.length) s
/-- R176: `xln.any`. -/
def execXlnAny (d a : Fin 64) (s : State) : Host.Outcome State Fault Refusal := voteQ d a (fun _ hit => !hit.isEmpty) s
/-- R176: `xln.count`. -/
def execXlnCount (d : Fin 128) (a : Fin 64) (s : State) : Host.Outcome State Fault Refusal :=
  voteV d a (fun hit => BitVec.ofNat 32 hit.length) s

/-- R175, R176: a reduction or scan: `f` gives the result of a lane at a position from the contributors' operands. -/
def crossWord (e : Ext) (d : Fin 128) (a : LaneSrc) (fp : Bool) (f : Pfx → Group → Lane → Nat → List (Lane × Word) → Word)
    (s : State) : Host.Outcome State Fault Refusal :=
  gatherWord (xlnInfo e d a fp) (fun p g _ cs l t =>
    t.setBlock g.ring (Block.of e d).regs fun pos =>
      f p g l pos (cs.map fun x => (x, g.src (g.threads[x]) a (posOff e pos)))) s

/-- A fold over the operands, from the first. -/
def foldWords (f : Word → Word → Word) : List (Lane × Word) → Word
  | [] => 0
  | x :: xs => xs.foldl (fun r y => f r y.2) x.2

/-- R176: FMIN or FMAX folded. Where one member alone contributes, the spec does not say what becomes of a NaN with a payload: it is made
canonical as R15 has it for every result (DEDUCED, log 72). -/
def foldFloats (f : Word → Word → Word) : List (Lane × Word) → Word
  | [x] => f x.2 x.2
  | xs => foldWords f xs

/-- R176: a reduction by a fold. -/
def reduceWord (e : Ext) (d : Fin 128) (a : LaneSrc) (f : Word → Word → Word) (s : State) : Host.Outcome State Fault Refusal :=
  crossWord e d a false (fun _ _ _ _ xs => foldWords f xs) s

/-- The operands of members up to a lane. -/
def upTo (l : Lane) (xs : List (Lane × Word)) : List (Lane × Word) := xs.filter fun x => decide (x.1.val ≤ l.val)
/-- The operands of members below a lane. -/
def below (l : Lane) (xs : List (Lane × Word)) : List (Lane × Word) := xs.filter fun x => decide (x.1.val < l.val)

/-- R176: an inclusive scan by a fold. -/
def scanWord (e : Ext) (d : Fin 128) (a : LaneSrc) (f : Word → Word → Word) (s : State) : Host.Outcome State Fault Refusal :=
  crossWord e d a false (fun _ _ l _ xs => foldWords f (upTo l xs)) s

/-- R177: the F32 sum of operands. -/
def sumF32 (p : Pfx) (g : Group) (l : Lane) (pos : Nat) (xs : List (Lane × Word)) : Word :=
  let r := sumRule (g.contract == 0) false Acc.zero (xs.map fun x => f32Val x.2)
  BitVec.ofNat 32 (r.1.round .f32 p.mode (srValue p.mode g.seed (32 * pos + l.val))).code

/-- As Z32, the smaller. -/
def minZ (x y : Word) : Word := if y.slt x then y else x
/-- As Z32, the larger. -/
def maxZ (x y : Word) : Word := if x.slt y then y else x
/-- As N32, the smaller. -/
def minN (x y : Word) : Word := if y.ult x then y else x
/-- As N32, the larger. -/
def maxN (x y : Word) : Word := if x.ult y then y else x

/-- R176: `xln.match`. -/
def execXlnMatch (e : Ext) (d : Fin 128) (a : LaneSrc) (s : State) : Host.Outcome State Fault Refusal :=
  crossWord e d a false (fun _ g l pos xs =>
    laneMask fun m => xs.any fun x => x.1 == m && x.2 == g.src (g.threads[l]) a (posOff e pos)) s
/-- R176: `xln.radd`. -/
def execXlnRadd (e : Ext) (d : Fin 128) (a : LaneSrc) (s : State) : Host.Outcome State Fault Refusal := reduceWord e d a (· + ·) s
/-- R176: `xln.rmin.z`. -/
def execXlnRminZ (e : Ext) (d : Fin 128) (a : LaneSrc) (s : State) : Host.Outcome State Fault Refusal := reduceWord e d a minZ s
/-- R176: `xln.rmax.z`. -/
def execXlnRmaxZ (e : Ext) (d : Fin 128) (a : LaneSrc) (s : State) : Host.Outcome State Fault Refusal := reduceWord e d a maxZ s
/-- R176: `xln.rmin.n`. -/
def execXlnRminN (e : Ext) (d : Fin 128) (a : LaneSrc) (s : State) : Host.Outcome State Fault Refusal := reduceWord e d a minN s
/-- R176: `xln.rmax.n`. -/
def execXlnRmaxN (e : Ext) (d : Fin 128) (a : LaneSrc) (s : State) : Host.Outcome State Fault Refusal := reduceWord e d a maxN s
/-- R176: `xln.rand`. -/
def execXlnRand (e : Ext) (d : Fin 128) (a : LaneSrc) (s : State) : Host.Outcome State Fault Refusal := reduceWord e d a (· &&& ·) s
/-- R176: `xln.ror`. -/
def execXlnRor (e : Ext) (d : Fin 128) (a : LaneSrc) (s : State) : Host.Outcome State Fault Refusal := reduceWord e d a (· ||| ·) s
/-- R176: `xln.rxor`. -/
def execXlnRxor (e : Ext) (d : Fin 128) (a : LaneSrc) (s : State) : Host.Outcome State Fault Refusal := reduceWord e d a (· ^^^ ·) s
/-- R176, R177: `xln.rfadd`. -/
def execXlnRfadd (e : Ext) (d : Fin 128) (a : LaneSrc) (s : State) : Host.Outcome State Fault Refusal :=
  crossWord e d a true sumF32 s
/-- R176: `xln.rfmin`. -/
def execXlnRfmin (e : Ext) (d : Fin 128) (a : LaneSrc) (s : State) : Host.Outcome State Fault Refusal :=
  crossWord e d a false (fun _ _ _ _ xs => foldFloats fminWord xs) s
/-- R176: `xln.rfmax`. -/
def execXlnRfmax (e : Ext) (d : Fin 128) (a : LaneSrc) (s : State) : Host.Outcome State Fault Refusal :=
  crossWord e d a false (fun _ _ _ _ xs => foldFloats fmaxWord xs) s
/-- R176: `xln.iscan.add`. -/
def execXlnIscanAdd (e : Ext) (d : Fin 128) (a : LaneSrc) (s : State) : Host.Outcome State Fault Refusal := scanWord e d a (· + ·) s
/-- R176: `xln.xscan.add`. -/
def execXlnXscanAdd (e : Ext) (d : Fin 128) (a : LaneSrc) (s : State) : Host.Outcome State Fault Refusal :=
  crossWord e d a false (fun _ _ l _ xs => foldWords (· + ·) (below l xs)) s
/-- R176, R177: `xln.iscan.fadd`. -/
def execXlnIscanFadd (e : Ext) (d : Fin 128) (a : LaneSrc) (s : State) : Host.Outcome State Fault Refusal :=
  crossWord e d a true (fun p g l pos xs => sumF32 p g l pos (upTo l xs)) s
/-- R176, R177: `xln.xscan.fadd`. -/
def execXlnXscanFadd (e : Ext) (d : Fin 128) (a : LaneSrc) (s : State) : Host.Outcome State Fault Refusal :=
  crossWord e d a true (fun p g l pos xs => sumF32 p g l pos (below l xs)) s
/-- R176: `xln.iscan.min.z`. -/
def execXlnIscanMinZ (e : Ext) (d : Fin 128) (a : LaneSrc) (s : State) : Host.Outcome State Fault Refusal := scanWord e d a minZ s
/-- R176: `xln.iscan.max.z`. -/
def execXlnIscanMaxZ (e : Ext) (d : Fin 128) (a : LaneSrc) (s : State) : Host.Outcome State Fault Refusal := scanWord e d a maxZ s
/-- R176: `xln.iscan.or`. -/
def execXlnIscanOr (e : Ext) (d : Fin 128) (a : LaneSrc) (s : State) : Host.Outcome State Fault Refusal := scanWord e d a (· ||| ·) s

/-- R178: SHFL. -/
def execShfl (e : Ext) (d : Fin 128) (a : LaneSrc) (b : Fin 128) (s : State) : Host.Outcome State Fault Refusal :=
  gatherWord (shflInfo e d a b) (fun p g m _ l t =>
    t.setBlock g.ring (Block.of e d).regs fun pos =>
      let off := posOff e pos
      let j := (t.lane g.ring (b.val + off)).toNat
      let src : Lane := if h : j < 32 then
          if hasBit m.sel j && g.inSet p.mod ⟨j, h⟩ && t.together g.threads[j] p.mod then ⟨j, h⟩ else l
        else l
      g.src (g.threads[src]) a off) s

end Sys2Proof.Machine
end

