-- ==== Sys2Proof/Machine/Convert.lean ====
section
/-! DEFINITION. The CVT group (R150 to R152). -/

namespace Sys2Proof.Machine

/-- R150: the result of a conversion at one position. A widening form reads element MOD of A; a narrowing form writes
element MOD of D and keeps the others. -/
def cvtElem (src dst : Scalar) (x : ElemIn) : Coded :=
  let n := 32 / dst.bits
  let v := src.decode (fieldOf x.a.toNat (if src.bits < 32 then src.bits * x.mod else 0) src.bits)
  dst.encode v x.mode (x.u n (if dst.bits < 32 then x.mod else 0))

/-- R150: a register with element `e` of `w` bits replaced. -/
def putElem (w e : Nat) (old : Word) (code : Nat) : Word :=
  BitVec.ofNat 32 (old.toNat - fieldOf old.toNat (w * e) w * 2 ^ (w * e) + code % 2 ^ w * 2 ^ (w * e))

/-- R150: the bits of the packed side of a form. -/
def cvtPacked (src dst : Scalar) : Nat := min src.bits dst.bits

/-- R150: what a fixed-latency form writes, and CVX. -/
def cvtResult (src dst : Scalar) (x : ElemIn) : Word × Bool :=
  let r := cvtElem src dst x
  (if dst.bits < 32 then putElem dst.bits x.mod x.old r.code else BitVec.ofNat 32 r.code, r.cvx)

/-- R149, R150: where in the register an SFU form writes, and what. -/
def cvtSfuResult (src dst : Scalar) (x : ElemIn) : Nat × Coded :=
  (if dst.bits < 32 then dst.bits * x.mod else 0, cvtElem src dst x)

/-- R150, R151: a fixed-latency form. -/
def cvtWord (src dst : Scalar) (rounds : Bool) (e : Ext) (d : Fin 128) (a : LaneSrc) (s : State) :
    Host.Outcome State Fault Refusal :=
  aluWord (opA e d a) (ruleCvt (cvtPacked src dst) rounds) 1 (cvtResult src dst) s

/-- R149, R150: an SFU form: the write changes only the bits of its element, when it lands. -/
def cvtSfu (src dst : Scalar) (e : Ext) (d : Fin 128) (a : LaneSrc) (s : State) : Host.Outcome State Fault Refusal :=
  sfuWord (opA e d a) (ruleCvt (cvtPacked src dst) true) dst.bits (cvtSfuResult src dst) s

/-- R152: the code of a trit as a Z8 byte. -/
def tritByte (t : Int) : Nat := (t % 256).toNat

/-- R152: one clamped trit, its code and whether it was clamped. -/
def tritClamp (x : Nat) : Coded :=
  let t := signedOf 8 x
  if 1 < t then ⟨1, true⟩ else if t < -1 then ⟨2, true⟩ else ⟨if t < 0 then 2 else t.toNat, false⟩

/-- R152: the five trits of byte MOD of A. -/
def tn5Of (x : ElemIn) : List Int × Bool := tn5Decode (fieldOf x.a.toNat (8 * x.mod) 8)

/-- R131, R150: the rule of the two forms that unpack TN5. -/
def ruleTn5 : PfxRule := { allowed := true, mods := [0, 1, 2, 3] }
/-- R131: FUNC 0x1E takes a fourth operand. -/
def ruleTn5F : PfxRule := { allowed := true, mods := [0, 1, 2, 3], fourth := true }

/-- R152: CVT.Z8.TN5LO. -/
def execCvtZ8Tn5lo (e : Ext) (d : Fin 128) (a : LaneSrc) (s : State) : Host.Outcome State Fault Refusal :=
  aluWord (opA e d a) ruleTn5 1
    (fun x => let t := tn5Of x; (packWord 8 ((t.1.take 4).map tritByte), t.2)) s
/-- R152: CVT.Z8.TN5HI. -/
def execCvtZ8Tn5hi (e : Ext) (d : Fin 128) (a : LaneSrc) (s : State) : Host.Outcome State Fault Refusal :=
  aluWord (opA e d a) ruleTn5 1
    (fun x => let t := tn5Of x; (packWord 8 ((t.1.drop 4).map tritByte), t.2)) s
/-- R152: what CVT.TN5.Z8 writes, and CVX. -/
def tn5Result (x : ElemIn) : Word × Bool :=
  let ts := (List.range 4).map (fun i => tritClamp (fieldOf x.a.toNat (8 * i) 8)) ++ [tritClamp (fieldOf x.c.toNat 0 8)]
  (putElem 8 x.mod x.old (tn5Byte (ts.map (·.code))), ts.any (·.cvx))

/-- R152: CVT.TN5.Z8. -/
def execCvtTn5Z8 (e : Ext) (d : Fin 128) (a : LaneSrc) (s : State) : Host.Outcome State Fault Refusal :=
  aluWord (opA e d a) ruleTn5F 1 tn5Result s

/-- R151: CVT.F16.F32. -/
def execCvtF16F32 (e : Ext) (d : Fin 128) (a : LaneSrc) (s : State) : Host.Outcome State Fault Refusal :=
  cvtWord (.float .f32) (.float .f16) true e d a s
/-- R151: CVT.BF16.F32. -/
def execCvtBf16F32 (e : Ext) (d : Fin 128) (a : LaneSrc) (s : State) : Host.Outcome State Fault Refusal :=
  cvtWord (.float .f32) (.float .bf16) true e d a s
/-- R151: CVT.F32.F16. -/
def execCvtF32F16 (e : Ext) (d : Fin 128) (a : LaneSrc) (s : State) : Host.Outcome State Fault Refusal :=
  cvtWord (.float .f16) (.float .f32) false e d a s
/-- R151: CVT.F32.BF16. -/
def execCvtF32Bf16 (e : Ext) (d : Fin 128) (a : LaneSrc) (s : State) : Host.Outcome State Fault Refusal :=
  cvtWord (.float .bf16) (.float .f32) false e d a s
/-- R151: CVT.E4M3.F32. -/
def execCvtE4m3F32 (e : Ext) (d : Fin 128) (a : LaneSrc) (s : State) : Host.Outcome State Fault Refusal :=
  cvtWord (.float .f32) (.float .e4m3) true e d a s
/-- R151: CVT.E5M2.F32. -/
def execCvtE5m2F32 (e : Ext) (d : Fin 128) (a : LaneSrc) (s : State) : Host.Outcome State Fault Refusal :=
  cvtWord (.float .f32) (.float .e5m2) true e d a s
/-- R151: CVT.F32.E4M3. -/
def execCvtF32E4m3 (e : Ext) (d : Fin 128) (a : LaneSrc) (s : State) : Host.Outcome State Fault Refusal :=
  cvtWord (.float .e4m3) (.float .f32) false e d a s
/-- R151: CVT.F32.E5M2. -/
def execCvtF32E5m2 (e : Ext) (d : Fin 128) (a : LaneSrc) (s : State) : Host.Outcome State Fault Refusal :=
  cvtWord (.float .e5m2) (.float .f32) false e d a s
/-- R151: CVT.Z32.F32. -/
def execCvtZ32F32 (e : Ext) (d : Fin 128) (a : LaneSrc) (s : State) : Host.Outcome State Fault Refusal :=
  cvtWord (.float .f32) (.int ⟨32, true⟩) true e d a s
/-- R151: CVT.N32.F32. -/
def execCvtN32F32 (e : Ext) (d : Fin 128) (a : LaneSrc) (s : State) : Host.Outcome State Fault Refusal :=
  cvtWord (.float .f32) (.int ⟨32, false⟩) true e d a s
/-- R151: CVT.F32.Z32. -/
def execCvtF32Z32 (e : Ext) (d : Fin 128) (a : LaneSrc) (s : State) : Host.Outcome State Fault Refusal :=
  cvtWord (.int ⟨32, true⟩) (.float .f32) true e d a s
/-- R151: CVT.F32.N32. -/
def execCvtF32N32 (e : Ext) (d : Fin 128) (a : LaneSrc) (s : State) : Host.Outcome State Fault Refusal :=
  cvtWord (.int ⟨32, false⟩) (.float .f32) true e d a s
/-- R151: CVT.Z16.F32. -/
def execCvtZ16F32 (e : Ext) (d : Fin 128) (a : LaneSrc) (s : State) : Host.Outcome State Fault Refusal :=
  cvtWord (.float .f32) (.int ⟨16, true⟩) true e d a s
/-- R151: CVT.N16.F32. -/
def execCvtN16F32 (e : Ext) (d : Fin 128) (a : LaneSrc) (s : State) : Host.Outcome State Fault Refusal :=
  cvtWord (.float .f32) (.int ⟨16, false⟩) true e d a s
/-- R151: CVT.Z8.F32. -/
def execCvtZ8F32 (e : Ext) (d : Fin 128) (a : LaneSrc) (s : State) : Host.Outcome State Fault Refusal :=
  cvtWord (.float .f32) (.int ⟨8, true⟩) true e d a s
/-- R151: CVT.N8.F32. -/
def execCvtN8F32 (e : Ext) (d : Fin 128) (a : LaneSrc) (s : State) : Host.Outcome State Fault Refusal :=
  cvtWord (.float .f32) (.int ⟨8, false⟩) true e d a s
/-- R151: CVT.F32.Z8. -/
def execCvtF32Z8 (e : Ext) (d : Fin 128) (a : LaneSrc) (s : State) : Host.Outcome State Fault Refusal :=
  cvtWord (.int ⟨8, true⟩) (.float .f32) false e d a s
/-- R151: CVT.F32.N8. -/
def execCvtF32N8 (e : Ext) (d : Fin 128) (a : LaneSrc) (s : State) : Host.Outcome State Fault Refusal :=
  cvtWord (.int ⟨8, false⟩) (.float .f32) false e d a s
/-- R151: CVT.F32.Z16. -/
def execCvtF32Z16 (e : Ext) (d : Fin 128) (a : LaneSrc) (s : State) : Host.Outcome State Fault Refusal :=
  cvtWord (.int ⟨16, true⟩) (.float .f32) false e d a s
/-- R151: CVT.F32.N16. -/
def execCvtF32N16 (e : Ext) (d : Fin 128) (a : LaneSrc) (s : State) : Host.Outcome State Fault Refusal :=
  cvtWord (.int ⟨16, false⟩) (.float .f32) false e d a s
/-- R151: CVT.Z16.Z32. -/
def execCvtZ16Z32 (e : Ext) (d : Fin 128) (a : LaneSrc) (s : State) : Host.Outcome State Fault Refusal :=
  cvtWord (.int ⟨32, true⟩) (.int ⟨16, true⟩) false e d a s
/-- R151: CVT.N16.Z32. -/
def execCvtN16Z32 (e : Ext) (d : Fin 128) (a : LaneSrc) (s : State) : Host.Outcome State Fault Refusal :=
  cvtWord (.int ⟨32, true⟩) (.int ⟨16, false⟩) false e d a s
/-- R151: CVT.Z8.Z32. -/
def execCvtZ8Z32 (e : Ext) (d : Fin 128) (a : LaneSrc) (s : State) : Host.Outcome State Fault Refusal :=
  cvtWord (.int ⟨32, true⟩) (.int ⟨8, true⟩) false e d a s
/-- R151: CVT.N8.Z32. -/
def execCvtN8Z32 (e : Ext) (d : Fin 128) (a : LaneSrc) (s : State) : Host.Outcome State Fault Refusal :=
  cvtWord (.int ⟨32, true⟩) (.int ⟨8, false⟩) false e d a s
/-- R151: CVT.L16.F32. -/
def execCvtL16F32 (e : Ext) (d : Fin 128) (a : LaneSrc) (s : State) : Host.Outcome State Fault Refusal :=
  cvtSfu (.float .f32) (.log .l16) e d a s
/-- R151: CVT.F32.L16. -/
def execCvtF32L16 (e : Ext) (d : Fin 128) (a : LaneSrc) (s : State) : Host.Outcome State Fault Refusal :=
  cvtSfu (.log .l16) (.float .f32) e d a s
/-- R151: CVT.L8.F32. -/
def execCvtL8F32 (e : Ext) (d : Fin 128) (a : LaneSrc) (s : State) : Host.Outcome State Fault Refusal :=
  cvtSfu (.float .f32) (.log .l8) e d a s
/-- R151: CVT.F32.L8. -/
def execCvtF32L8 (e : Ext) (d : Fin 128) (a : LaneSrc) (s : State) : Host.Outcome State Fault Refusal :=
  cvtSfu (.log .l8) (.float .f32) e d a s

end Sys2Proof.Machine
end

