-- ==== Sys2Proof/Machine/Registers.lean ====
section
/-! DEFINITION. Special registers, ACQ and its arbiter, TSYNC, and issue priority (R106 to R108, R113 to R118, R123 to R129,
R403). -/

namespace Sys2Proof.Machine

/-! ### Priority -/

/-- R93: the groups of a bundle are all ACTIVE; if not, it is suspended. -/
def State.runs (s : State) (b : Bundle) : Bool :=
  b.members.all fun m => match s.group? b.core m.slot with | some g => g.st == .active | none => true

/-- R108: a group may be URGENT: a thread of it is ready, or in an open bundle that no group of it suspends. -/
def State.candidate (s : State) (c : CoreId) (k : Slot) (g : Group) : Bool :=
  g.st != .exiting && g.handler.isNone && !g.mustHalt && !g.stepping && g.anyThread fun l t =>
    s.threadReady g t || t.run == .member && s.bundles.any fun b => b.core = c && s.runs b
      && b.members.any fun m => m.slot == k && hasBit (m.sel ||| m.skip) l

/-- R108: the slot of the URGENT group of a team. -/
def State.urgentSlot (s : State) (t : Team) : Option Slot :=
  let live := (s.teamGroups t).filter fun p => !p.2.allThreads fun _ x => x.gone
  if live.length < 2 then none
  else (live.filter fun p => s.candidate t.core p.1 p.2).foldl (fun (best : Option Slot) p => match best with
    | none => some p.1
    | some k => if ((s.cores[t.core]).sched[p.1]).urg < ((s.cores[t.core]).sched[k]).urg then some p.1 else best) none

/-- R107: the issue priority of the group in a slot. -/
def State.priority (s : State) (c : CoreId) (k : Slot) : Nat :=
  let x := (s.cores[c]).sched[k]
  if x.starved && (match s.group? c k with | some g => s.groupReady g | none => false) then 3
  else match s.group? c k with
    | some g =>
      if (match s.team? g.team with | some t => s.urgentSlot t == some k | none => false) then 2
      else if x.floor.isSome then 0 else 1
    | none => 1

/-! ### Special registers -/

/-- R1, R125: the class of a chiplet (log 3). -/
def classOfChip (d : Nat) : Nat := if d < 4 then 0 else if d < 6 then 1 else if d = 6 then 2 else 3

/-- R88: the shape of a group's team. -/
def State.shapeOf (s : State) (g : Group) : Nat × Nat × Nat := match s.kernelOf g with
  | some k => k.shape
  | none => (32, 1, 1)

/-- R125: the thread-scope special registers. -/
def State.threadSpecial (s : State) (g : Group) (l : Lane) (n : Nat) : Option Word :=
  let tid := 32 * g.gid + l.val
  let (x, y, _) := s.shapeOf g
  match n with
  | 0x00 => some (BitVec.ofNat 32 l.val)
  | 0x01 => some (BitVec.ofNat 32 tid)
  | 0x0A => some (BitVec.ofNat 32 (g.threads[l]).turn)
  | 0x11 => some (BitVec.ofNat 32 (tid % x))
  | 0x12 => some (BitVec.ofNat 32 (tid / x % y))
  | 0x13 => some (BitVec.ofNat 32 (tid / (x * y)))
  | _ => none

/-- R125: a number names a thread-scope register. -/
def isThreadSpecial (n : Nat) : Bool := n == 0 || n == 1 || n == 0x0A || n == 0x11 || n == 0x12 || n == 0x13

/-- R127: `%alloc`. -/
def Group.allocWord (g : Group) : Word :=
  BitVec.ofNat 32 (g.allot.granted.toNat * 2 ^ 31 + g.allot.c / 1024 * 2 ^ 13 + (if g.allot.granted then g.allot.a else 0) * 2 ^ 8 + g.lanes)

/-- R125, R403: the group- and core-scope special registers. -/
def State.groupSpecial (s : State) (c : CoreId) (k : Slot) (g : Group) (n : Nat) : Word :=
  let x := s.cores[c]
  match n with
  | 0x02 => BitVec.ofNat 32 g.gid
  | 0x03 => BitVec.ofNat 32 (((s.team? g.team).map (·.index)).getD 0)
  | 0x04 => BitVec.ofNat 32 (((s.kernelOf g).map (·.groups)).getD 0)
  | 0x05 => BitVec.ofNat 32 (classOfChip (chipOf c).val)
  | 0x06 => BitVec.ofNat 32 g.contract
  | 0x07 => BitVec.ofNat 32 k.val
  | 0x08 => BitVec.ofNat 32 x.cycles
  | 0x09 => g.cychi
  | 0x0B => BitVec.ofNat 32 g.ring
  | 0x0C => g.allocWord
  | 0x0D => g.sticky
  | 0x0E => g.seed.extractLsb' 0 32
  | 0x0F => g.seed.extractLsb' 32 32
  | 0x10 => BitVec.ofNat 32 (s.priority c k)
  | 0x40 => x.hentry
  | 0x41 => x.wdlim
  | 0x42 => BitVec.ofNat 32 (((s.team? g.team).map (·.wd)).getD 0)
  | 0x43 => x.barlimt
  | 0x44 => x.barlimc
  | 0x45 => x.qlim
  | 0x46 => x.tctl
  | 0x48 => x.bp[0]
  | 0x49 => x.bp[1]
  | 0x4A => x.bp[2]
  | 0x4B => x.bp[3]
  | 0x4C => x.bpctx
  | 0x4D => x.step
  | 0x4E => if g.handler.isSome then 1 else 0
  | 0x50 => BitVec.ofNat 32 g.ctx.val
  | _ => 0

/-- R125: a read of `%cycles` latches its high half. -/
def State.latchCycles (s : State) (c : CoreId) (g : Group) (n : Nat) : Group :=
  if n = 0x08 then { g with cychi := BitVec.ofNat 32 ((s.cores[c]).cycles / 2 ^ 32) } else g

/-- R74, R123: a read of a number from 0x40 on needs privilege. -/
def State.specialGuard (s : State) (b : Bundle) (m : Member) (g : Group) (n : Nat) (f : State → State) : State :=
  if 0x40 ≤ n then s.privileged b m g f else f s

/-- R123: `sread sD, %x`. -/
def execSread (d a : Fin 128) (s : State) : Host.Outcome State Fault Refusal :=
  uniWord (specialInfo a [d.val] []) (fun b m g s => s.specialGuard b m g a.val fun s =>
    if isThreadSpecial a.val then s.badOperand b m
    else s.setGroup b.core m.slot (some ((s.latchCycles b.core g a.val).setUni d.val (s.groupSpecial b.core m.slot g a.val)))) s

/-- R123: `sread vD, %x`. -/
def execSreadV (d a : Fin 128) (s : State) : Host.Outcome State Fault Refusal :=
  uniWord (specialInfo a [] [] [Block.one d]) (fun b m g s => s.specialGuard b m g a.val fun s =>
    if g.inAllot d.val then
      let x := s.groupSpecial b.core m.slot g a.val
      s.setGroup b.core m.slot (some ((s.latchCycles b.core g a.val).mapThreads fun l t =>
        if hasBit m.sel l then t.setLane g.ring d.val ((s.threadSpecial g l a.val).getD x) else t))
    else s.badOperand b m) s

/-- R123: `sread.clr`: legal on `%sticky` alone. An immediate mask is sign-extended (DESIGN CHOICE, log 86). -/
def execSreadClr (d a : Fin 128) (b : USrc) (s : State) : Host.Outcome State Fault Refusal :=
  uniWord (specialInfo a [d.val] (usrcReads b)) (fun bn m g s => s.specialGuard bn m g a.val fun s =>
    if a.val = 0x0D then
      s.setGroup bn.core m.slot (some { g.setUni d.val g.sticky with sticky := g.sticky &&& ~~~ g.usrc b })
    else s.badOperand bn m) s

/-- R123: `sread.xchg`: legal on the two seed registers. -/
def execSreadXchg (d a b : Fin 128) (s : State) : Host.Outcome State Fault Refusal :=
  uniWord (specialInfo a [d.val] [b.val]) (fun bn m g s => s.specialGuard bn m g a.val fun s =>
    let x := g.uni b.val
    if a.val = 0x0E then s.setGroup bn.core m.slot (some { g.setUni d.val (g.seed.extractLsb' 0 32) with
      seed := g.seed.extractLsb' 32 32 ++ x })
    else if a.val = 0x0F then s.setGroup bn.core m.slot (some { g.setUni d.val (g.seed.extractLsb' 32 32) with
      seed := x ++ g.seed.extractLsb' 0 32 })
    else s.badOperand bn m) s

/-- R403: a limit in cycles: 0, or at least 2^10. -/
def limitLegal (x : Word) : Bool := x == 0 || decide (2 ^ 10 ≤ x.toNat)

/-- R124, R403: the core with a special register written, or none where the write is refused. -/
def Core.writeSpecial (x : Core) (n : Nat) (v : Word) : Option Core :=
  match n with
  | 0x40 => if v.toNat % 4 = 0 then some { x with hentry := v } else none
  | 0x41 => if limitLegal v then some { x with wdlim := v } else none
  | 0x43 => if limitLegal v then some { x with barlimt := v } else none
  | 0x44 => if limitLegal v then some { x with barlimc := v } else none
  | 0x45 => if limitLegal v then some { x with qlim := v } else none
  | 0x46 => some { x with tctl := v &&& 1 }
  | 0x48 => some { x with bp := x.bp.set 0 (v &&& 0x83FFFFFC) }
  | 0x49 => some { x with bp := x.bp.set 1 (v &&& 0x83FFFFFC) }
  | 0x4A => some { x with bp := x.bp.set 2 (v &&& 0x83FFFFFC) }
  | 0x4B => some { x with bp := x.bp.set 3 (v &&& 0x83FFFFFC) }
  | 0x4C => some { x with bpctx := v &&& 0x7F }
  | 0x4D => some { x with step := v &&& 0x1F1F }
  | _ => none

/-- R74, R124: SWRITE, privileged for every register. -/
def swriteInfo (d a : Fin 128) : WordInfo := { specialInfo d [] [a.val] with priv := true }

/-- R124: SWRITE. -/
def execSwrite (d a : Fin 128) (s : State) : Host.Outcome State Fault Refusal :=
  uniWord (swriteInfo d a) (fun b m g s => s.privileged b m g fun s =>
    let v := g.uni a.val
    if d.val = 0x0D then s.setGroup b.core m.slot (some { g with sticky := g.sticky &&& ~~~ v })
    else if d.val = 0x0E then s.setGroup b.core m.slot (some { g with seed := g.seed.extractLsb' 32 32 ++ v })
    else if d.val = 0x0F then s.setGroup b.core m.slot (some { g with seed := v ++ g.seed.extractLsb' 0 32 })
    else match (s.cores[b.core]).writeSpecial d.val v with
      | some x => s.modCore b.core fun _ => x
      | none => s.badOperand b m) s

/-! ### ACQ (R113 to R118) -/

/-- R1: the quad of a core (log 3). -/
def quadOf (c : CoreId) : QuadId :=
  ⟨c.val / 48 * 12 + c.val % 48 / 8 / 2 * 4 + c.val % 8 / 2, by omega⟩

/-- R405: the groups of a core's teams that have executed `eret.out` and whose teams have others that have not. -/
def State.awayOn (s : State) (c : CoreId) : List Away := (s.teams.filter fun t => t.core == c).flatMap fun t => t.out

/-- R112, R405: rows of a core that its groups hold. -/
def State.rowsHeld (s : State) (c : CoreId) : Nat :=
  ((List.finRange 32).map fun k : Slot => match s.group? c k with | some g => g.lanes | none => 0).sum + ((s.awayOn c).map (·.rows)).sum

/-- R273, R405: tiles of a quad that its groups hold. -/
def State.tilesHeld (s : State) (q : QuadId) : Nat :=
  (((List.finRange 384).filter fun c : CoreId => quadOf c == q).map fun c =>
    ((List.finRange 32).map fun k : Slot => match s.group? c k with | some g => g.tiles.length | none => 0).sum
      + ((s.awayOn c).map (·.tiles)).sum).sum

/-- R115: a group's request can be satisfied now. -/
def State.acqFits (s : State) (c : CoreId) (g : Group) : Bool :=
  decide (s.rowsHeld c + (g.allot.k - 16) ≤ 3968) && decide (s.tilesHeld (quadOf c) + g.allot.a ≤ 128)

/-- R117, R273: a granted tile. -/
def Tile.fresh : Tile := ⟨false, Vector.replicate 4096 .zero, false, 0, .none⟩

/-- R255: bytes of the handle area. -/
def Kernel.handleBytes (k : Kernel) : Nat :=
  ((k.inputs.toList ++ k.outputs.toList).filterMap id).foldl (fun n s => n + s.count * s.tile) 0

/-- R253: H rounded up to 1,024. -/
def Kernel.allotBase (k : Kernel) : Nat := (k.handleBytes + 1023) / 1024 * 1024

/-- R253: bytes of a team's region. -/
def Kernel.regionBytes (k : Kernel) : Nat := k.allotBase + k.groups * k.c

/-- R253: the offset in the partition of a group's allotment. -/
def State.allotOffset (s : State) (g : Group) : Nat :=
  match s.team? g.team, s.kernelOf g with
  | some t, some k => t.base + k.allotBase + g.gid * k.c
  | _, _ => 0

/-- R117: registers from v16 on are zero and every turn is 0. -/
def Thread.clearRows (t : Thread) : Thread :=
  { t with v := Vector.ofFn fun i : Fin 128 => if i.val < 16 then t.v[i] else 0, turn := 0 }

/-- R116, R117: the grant of a group's request. -/
def State.grant (s : State) (c : CoreId) (k : Slot) : State :=
  match s.group? c k with
  | none => s
  | some g =>
    let a := s.allotOffset g
    let s := if g.allot.zeroed then s
      else s.resetScratch c a g.allot.c []
    let s := { s with quads := s.quads.set (quadOf c) { s.quads[quadOf c] with
      acq := (s.quads[quadOf c]).acq.filter fun r => !(r.1 == c && r.2 == k) } }
    s.setGroup c k (some { g.mapThreads (fun _ t =>
        let t := if t.gone then t else t.clearRows
        if t.run == .acq then { t with run := .ready }
        else { t with estate := if g.handler.isSome && fieldOf t.estate.toNat 4 4 == 6 then t.estate &&& ~~~ (0xF0#32) else t.estate }) with
      allot := { g.allot with granted := true, zeroed := true }, tiles := List.replicate g.allot.a .fresh })

/-- ACQ (R115). -/
def acqInfo (writes : List Nat) : WordInfo := plainUInfo [] writes

/-- R115: `acq`. -/
def execAcq (s : State) : Host.Outcome State Fault Refusal :=
  uniWord (acqInfo []) (fun b m g s =>
    if g.allot.granted then s
    else
      let q := quadOf b.core
      let posted := (s.quads[q]).acq.any fun r => r.1 == b.core && r.2 == m.slot
      let s := if posted then s else { s with quads := s.quads.set q { s.quads[q] with acq := (s.quads[q]).acq ++ [(b.core, m.slot)] } }
      s.modGroup b.core m.slot fun g => g.mapThreads fun l t =>
        if hasBit m.sel l && t.run == .member then t.standAt b (b.idx + 1) .acq else t) s

/-- R116: no request but the group's own stands before it. -/
def State.standsFirst (s : State) (c : CoreId) (k : Slot) : Bool :=
  match (s.quads[quadOf c]).acq with
  | [] => true
  | r :: _ => r.1 == c && r.2 == k

/-- R115: `acq.try`. -/
def execAcqTry (d : Fin 128) (s : State) : Host.Outcome State Fault Refusal :=
  uniWord (acqInfo [d.val]) (fun b m g s =>
    let set := fun (x : Word) (s : State) => s.modGroup b.core m.slot fun g => g.setUni d.val x
    if g.allot.granted then set 1 s
    else if s.standsFirst b.core m.slot && s.acqFits b.core g then set 1 (s.grant b.core m.slot)
    else set 0 s) s

/-- R115, R299: `acq.rel` must wait. -/
def State.relWaits (s : State) (b : Bundle) (m : Member) : Bool :=
  match s.group? b.core m.slot with
  | none => false
  | some g => g.allot.granted &&
    ((List.finRange 12).any (fun n : Fin 12 => g.pip[n] != 0) || g.pendingCount != 0
      || (s.quads[quadOf b.core]).entries.any (fun e => e.core == b.core && e.slot == m.slot && e.tile.isSome)
      || (List.finRange 8).any fun n : Fin 8 => (g.cv[n]).st == .open_ || (g.cv[n]).st == .postwait)

/-- R96: a word waits while one of the groups of its bundle has something to wait for. -/
def untilNone (waits : State → Bundle → Member → Bool) (b : Bundle) (_ : Pfx) (s : State) : State × Bool := (s, !(s.members b).any (waits s b))

/-- A U word that waits for something of its groups. -/
def uniWordWhen (i : WordInfo) (waits : State → Bundle → Member → Bool) (f : Bundle → Member → Group → State → State)
    (s : State) : Host.Outcome State Fault Refusal :=
  issueWhen i (untilNone waits)
    (fun b _ s => s.eachMember b fun m s => match s.group? b.core m.slot with
      | some g => f b m g s
      | none => s) s

/-- R115: `acq.rel`. -/
def execAcqRel (s : State) : Host.Outcome State Fault Refusal :=
  uniWordWhen (acqInfo []) State.relWaits (fun b m g s =>
    if g.allot.granted then
      s.setGroup b.core m.slot (some { g.mapThreads (fun _ t => { t with turn := 0 }) with
        allot := { g.allot with granted := false }, tiles := [] })
    else s) s

/-- R116: the arbiter grants the request that stands first, when its resources are free. -/
def execAcqGrant (q : QuadId) (s : State) : Host.Outcome State Fault Refusal :=
  .next (match (s.quads[q]).acq with
    | (c, k) :: _ => match s.group? c k with
      | some g => if s.acqFits c g then s.grant c k else s
      | none => { s with quads := s.quads.set q { s.quads[q] with acq := (s.quads[q]).acq.tail } }
    | [] => s)

/-! ### TSYNC (R106) -/

/-- R106: `tsync.all` must wait. -/
def State.tokensPending (s : State) (b : Bundle) (m : Member) : Bool :=
  match s.group? b.core m.slot with
  | some g => g.pendingCount != 0
  | none => false

/-- R106: `tsync.all`. -/
def execTsyncAll (s : State) : Host.Outcome State Fault Refusal :=
  uniWordWhen (plainUInfo [] []) State.tokensPending (fun _ _ _ s => s) s

/-- R106: `tsync.poll` reads its register pending or not. -/
def pollInfo (d a : Fin 128) : WordInfo := { plainUInfo [] [d.val] with peeks := [a.val] }

/-- R106: `tsync.poll`; it joins a completed token. -/
def execTsyncPoll (d a : Fin 128) (s : State) : Host.Outcome State Fault Refusal :=
  uniWord (pollInfo d a) (fun b m g s =>
    if g.pendingToken a.val then s.setGroup b.core m.slot (some (g.setUni d.val 0))
    else
      let s := s.joinFor b m g [a.val]
      match g.joinFault [a.val] with
      | some (cls, st) => s.raise b m.slot (fun l => hasBit m.sel l) cls [st]
      | none =>
        let s := s.modGroup b.core m.slot fun h => h.setUni d.val (g.uni a.val)
        if g.joinCvx [a.val] && s.cvxOn b.core then s.raise b m.slot (fun l => hasBit m.sel l) 0x13 [] (after := true) else s) s

/-- R106: `tsync.count`. -/
def execTsyncCount (d : Fin 128) (s : State) : Host.Outcome State Fault Refusal :=
  uniWrite (plainUInfo [] [d.val]) (fun g => g.setUni d.val (BitVec.ofNat 32 g.pendingCount)) s

/-- R106: `tsync.pips`. -/
def execTsyncPips (d : Fin 128) (s : State) : Host.Outcome State Fault Refusal :=
  uniWrite (plainUInfo [] [d.val]) (fun g => g.setUni d.val
    (laneMask fun l => if h : l.val < 12 then g.pip[(⟨l.val, h⟩ : Fin 12)] != 0 else false)) s

end Sys2Proof.Machine
end

