-- ==== Sys2Proof/Machine/Handles.lean ====
section
/-! DEFINITION. Stream handles and crossbar patterns: HWAIT, HREL, HCOMMIT, HQRY, XPLD and XBAR (R255 to R271). -/

namespace Sys2Proof.Machine

/-! ### Streams -/

/-- R259: the code of a state. -/
def HState.code : HState → Nat
  | .free => 0
  | .filling => 1
  | .full => 2
  | .draining => 3

/-- R259: the status word; 0 for an undeclared handle (R267). -/
def Handle.status (h : Handle) : Word :=
  if h.declared then
    BitVec.ofNat 32 (h.stream % 8 * 2 ^ 24 + h.cls % 256 * 2 ^ 16 + 2 ^ 8 + h.bounds.toNat * 2 ^ 7 + h.cvx.toNat * 2 ^ 6
      + h.poison.toNat * 2 ^ 5 + h.fault.toNat * 2 ^ 4 + h.eos.toNat * 2 ^ 3 + h.out.toNat * 2 ^ 2 + h.st.code)
  else 0

/-- R259: the flags as a new tile begins. -/
def Handle.begin (h : Handle) (st : HState) (tile : Nat) : Handle :=
  { h with st := st, tile := some tile, cursor := 0, wait := none, bounds := false, cvx := false, poison := false, fault := false
           eos := false, cls := 0 }

/-- A stream as a team sees it: its launch and declaration, the record bound to it at launch, and its unit among the units
(R256). -/
structure Flow where
  launch : Launch
  decl   : Stream
  record : BitVec 128
  unit   : Nat
  units  : Nat

/-- R256: the stream of a handle instance. -/
def State.flow (s : State) (t : Team) (h : Handle) : Option Flow :=
  match s.launch? t.launch with
  | none => none
  | some l =>
    (if h.out then l.kernel.outputs[(⟨h.stream % 4, Nat.mod_lt _ (by decide)⟩ : Fin 4)]
      else l.kernel.inputs[(⟨h.stream % 8, Nat.mod_lt _ (by decide)⟩ : Fin 8)]).map fun d =>
      let r := match l.kernel.records.find? fun r => r.1 == d.record with
        | some r => l.args[r.2]
        | none => 0
      if d.cast ≠ 0 ∧ ¬ h.out then ⟨l, d, r, t.cluster, l.teams / (l.cw * l.ch)⟩ else ⟨l, d, r, t.index, l.teams⟩

/-- R19, R21, R27, R348: the elements and bytes of a unit of a format. -/
def Tag.unit (g : Tag) : Nat × Nat :=
  match g with
  | .raw => (1, 1)
  | .tn5 => (5, 1)
  | .aq4 => (1024, aqBytes 4)
  | .aq8 => (1024, aqBytes 8)
  | g => match g.mx, g.scalar with
    | some f, _ => (32, f.bytes)
    | none, some f => if f.bits = 6 then (4, 3) else if f.bits = 4 then (2, 1) else (1, f.bits / 8)
    | none, none => (1, 1)

/-- The unit of a tag code. -/
def unitOf (tag : Nat) : Nat × Nat := ((Tag.ofCode tag).getD .raw).unit

/-- R256, R344: the stream copies bytes: the tags are equal, or either is RAW. -/
def copies (record declared : Nat) : Bool := record == declared || record == Tag.raw.code || declared == Tag.raw.code

/-- R256. -/
def Flow.copies (f : Flow) : Bool := Machine.copies (Rec.of f.record).tag f.decl.tag

/-- R256, R347: T, the elements of a tile. -/
def tileElems (record : BitVec 128) (tag tile : Nat) : Nat :=
  let r := Rec.of record
  if copies r.tag tag then tile / r.elem else (unitOf tag).1 * (tile / (unitOf tag).2)

/-- R256. -/
def Flow.t (f : Flow) : Nat := tileElems f.record f.decl.tag f.decl.tile

/-- R256, R348: tile k exists: its first element is in bounds. -/
def Flow.hasTile (f : Flow) (k : Nat) : Bool :=
  let r := Rec.of f.record
  if f.copies then decide (k * f.t < r.extent)
  else let u := unitOf r.tag; decide ((k * f.t / u.1 + 1) * u.2 ≤ r.extent)

/-- R256: the stream's tile that is the unit's k′-th. -/
def Flow.tile (f : Flow) (k' : Nat) : Nat := f.unit + k' * f.units

/-- R257: the k′ of the next tile that lands in handle `n`. -/
def Flow.nextFor (f : Flow) (next n : Nat) : Nat := next + (n + f.decl.count - f.decl.first + f.decl.count - next % f.decl.count) % f.decl.count

/-- Changes a handle instance of a team. -/
def State.modHandle (s : State) (key : Nat) (n : Fin 32) (f : Handle → Handle) : State :=
  s.modTeam key fun t => { t with handles := t.handles.set n (f t.handles[n]) }

/-- R257: the teams whose instances receive the tiles of a stream. -/
def State.receivers (s : State) (t : Team) (h : Handle) : List Team :=
  match s.flow t h with
  | some f => if f.decl.cast = 0 ∨ h.out then [t] else (s.clusterOf t).filter fun u => f.decl.cast.testBit u.rank
  | none => [t]

/-- The number of the next tile of an input stream, as the team counts them. -/
def Team.nextIn (t : Team) (h : Handle) : Nat := t.inNext[(⟨h.stream % 8, Nat.mod_lt _ (by decide)⟩ : Fin 8)]

/-- R258: an input instance that is FREE when its unit's stream has no further tile for it has EOS set. -/
def State.noteEnd (s : State) (key : Nat) (n : Fin 32) : State :=
  match s.team? key with
  | none => s
  | some t =>
    let h := t.handles[n]
    match s.flow t h with
    | none => s
    | some f =>
      if h.st == .free && !h.out && !f.hasTile (f.tile (f.nextFor (t.nextIn h) n.val)) then s.modHandle key n fun h => { h with eos := true } else s

/-! ### HWAIT (R261) -/

/-- R261: the instance is as an HWAIT wants it. -/
def Handle.answers (h : Handle) (free : Bool) : Bool := if free then h.st == .free else h.st == .full || h.eos

/-- R261, R126: what an HWAIT that goes on does to its group. -/
def Group.joinHandle (g : Group) (d : Nat) (h : Handle) : Group :=
  let g := g.setNamed d h.status
  if h.eos then g
  else
    let g := if h.cvx then g.flag cvxBit else g
    if h.bounds then g.flag boundsBit else g

/-- R261, R34: the trap of an HWAIT that goes on. -/
def Handle.joinTrap (h : Handle) : Option Nat :=
  if h.eos then none else if h.fault then some h.cls else if h.poison then some 0x08 else none

/-- R261, R34: the class that threads which go on at an HWAIT raise. -/
def State.hwaitTrap (s : State) (c : CoreId) (h : Handle) : Option Nat :=
  match h.joinTrap with
  | some cls => some cls
  | none => if !h.eos && h.cvx && s.cvxOn c then some 0x13 else none

/-- R225, R226, R261: threads of a group join the transfer of an instance that an HWAIT wanted. DEDUCED (log 88): with EOS nothing is
joined. -/
def State.joinTransfer (s : State) (c : CoreId) (k : Slot) (lanes : Word) (h : Handle) : State :=
  if h.eos then s else s.joinAt c k lanes 5 h.view

/-- R261: an HWAIT of that word waits for the instance, which is as it wants it. -/
def Handle.releases (h : Handle) (n : Fin 32) (w : Word) : Bool := fieldOf w.toNat 0 5 == n.val && h.answers (w.getLsbD 7)

/-- R261: the threads of one group that wait in an HWAIT on the instance go on, where it is as they want it; a trap of handler code ends
the team (R402). -/
def State.hwaitGroup (s : State) (c : CoreId) (n : Fin 32) (h : Handle) (k : Slot) : State :=
  match s.group? c k with
  | none => s
  | some g =>
    let goes := fun (t : Thread) => (t.run == .hwait false n && h.answers false) || (t.run == .hwait true n && h.answers true)
    let words := ((List.finRange 32).filterMap fun l : Lane =>
      if goes g.threads[l] then codeAt (s.codeOf g) ((g.threads[l]).waitWord false) else none).eraseDups
    if words.isEmpty then s
    else
      let g1 := words.foldl (fun g w => g.joinHandle (fieldOf w.toNat 18 7) h) g
      let trap := s.hwaitTrap c h
      match g.handler, trap with
      | some _, some cls => (s.killTeam g.team cls).logged (.killed c k cls)
      | _, _ =>
        let g2 := g1.mapThreads fun _ t =>
          if goes t then match trap with
            | some cls =>
              if cls = 0x13 then let u := s.stepPast g t; { u with trap := some (u.trap.getD ⟨0x13, t.waitWord false, []⟩) }
              else { t with run := .ready, trap := some (t.trap.getD ⟨cls, t.waitWord false, [h.status]⟩) }
            | none => s.stepPast g t
          else t
        let s := (s.setGroup c k (some g2)).joinTransfer c k (laneMask fun l => goes g.threads[l]) h
        if g2.mustHalt then (s.haltSlot c k).purge else s

/-- R397, R402: the same for threads that wait in an HWAIT of kernel code while their group is in handler mode. -/
def State.hwaitKept (s : State) (c : CoreId) (n : Fin 32) (h : Handle) (k : Slot) : State :=
  match s.group? c k with
  | none => s
  | some g =>
    let goes := fun (t : Thread) => (s.keptWait g 5 t).filter (h.releases n)
    let words := ((List.finRange 32).filterMap fun l : Lane => goes g.threads[l]).eraseDups
    if words.isEmpty then s
    else
      let g1 := words.foldl (fun g w => let d := fieldOf w.toNat 18 7; g.joinHandle (if 124 ≤ d then d + 128 else d) h) g
      let g2 := g1.mapThreads fun _ t =>
        if (goes t).isSome then match s.hwaitTrap c h with
          | some cls =>
            let u := if cls = 0x13 then s.keptPast g t else { t with estate := t.estate &&& ~~~ (0xF0#32) }
            { u with trap := some (u.trap.getD ⟨cls, t.epc, if cls = 0x13 then [] else [h.status]⟩) }
          | none => s.keptPast g t
        else t
      (s.setGroup c k (some g2)).joinTransfer c k (laneMask fun l => (goes g.threads[l]).isSome) h

/-- R261: a handle instance has changed. -/
def State.hwaitRelease (s : State) (key : Nat) (n : Fin 32) : State :=
  match s.team? key with
  | none => s
  | some t => (s.teamGroups t).foldl (fun s p => (s.hwaitGroup t.core n t.handles[n] p.1).hwaitKept t.core n t.handles[n] p.1) s

/-- R255: class 0x0F for the group's threads. -/
def State.handleTrap (s : State) (b : Bundle) (m : Member) (n : Fin 32) (h : Handle) : State :=
  s.raise b m.slot (fun l => hasBit m.sel l) 0x0F [BitVec.ofNat 32 n.val, h.status]

/-- The handle instance of a group's team. -/
def State.handleOf (s : State) (g : Group) (n : Fin 32) : Option (Team × Handle) := (s.team? g.team).map fun t => (t, t.handles[n])

/-- R261: HWAIT. -/
def hwaitWord (free : Bool) (d : Fin 128) (n : Fin 32) (s : State) : Host.Outcome State Fault Refusal :=
  uniWord (plainUInfo [] [d.val]) (fun b m g s =>
    match s.handleOf g n with
    | none => s
    | some (_, h) =>
      if !h.declared || h.out != free then s.handleTrap b m n h
      else if h.answers free then
        let s := s.joinTransfer b.core m.slot m.sel h
        let s := s.modGroup b.core m.slot fun g => g.joinHandle d.val h
        match h.joinTrap with
        | some cls => s.raise b m.slot (fun l => hasBit m.sel l) cls [h.status]
        | none =>
          if !h.eos && h.cvx && s.cvxOn b.core then s.raise b m.slot (fun l => hasBit m.sel l) 0x13 [] (after := true) else s
      else s.modGroup b.core m.slot fun g => g.mapThreads fun l t =>
        if hasBit m.sel l && t.run == .member then t.standAt b b.idx (.hwait free n) else t) s

/-- R261: `hwait.full`. -/
def execHwaitFull (d : Fin 128) (n : Fin 32) (s : State) : Host.Outcome State Fault Refusal := hwaitWord false d n s
/-- R261: `hwait.free`. -/
def execHwaitFree (d : Fin 128) (n : Fin 32) (s : State) : Host.Outcome State Fault Refusal := hwaitWord true d n s

/-! ### HREL, HCOMMIT, HQRY -/

/-- HREL and HCOMMIT wait for the scratch accesses of their threads (R262, R263). -/
def handleInfo : WordInfo := { plainUInfo [] [] with memory := true }

/-- An operand captured as a scratch descriptor (R285). -/
def Captured.isDesc : Captured → Bool
  | .desc _ _ => true
  | .rows _ => false

/-- R262, R303: a pass signed by the group has not read its scratch operand, or a matrix-vector call of the group has not read its
vectors from the handle. -/
def State.hrelWaits (s : State) (n : Fin 32) (b : Bundle) (m : Member) : Bool :=
  match s.group? b.core m.slot with
  | none => false
  | some g =>
    ((s.quads[quadOf b.core]).entries.any fun e => e.core == b.core && e.slot == m.slot && match e.job with
      | .pass _ _ x y _ _ => x.isDesc || y.isDesc
      | _ => false)
    || (List.finRange 8).any fun i : Fin 8 => ((g.cv[i]).st == .open_ || (g.cv[i]).st == .postwait) && ((g.cv[i]).a.isDesc || (g.cv[i]).b.isDesc)
    || s.ops.any fun o => o.core = b.core && o.slot == m.slot && match o.work with
      | .mvx c => c.vbuf == some n
      | _ => false

/-- R258: DRAINING input instances of a tile go FREE once every receiving instance is DRAINING. -/
def State.freeInputs (s : State) (t : Team) (h : Handle) (n : Fin 32) : State :=
  let us := (s.receivers t h).filterMap fun u => s.team? u.key
  if us.all fun u => (u.handles[n]).st == .draining then
    us.foldl (fun s u => ((s.modHandle u.key n fun h => { h with st := .free }).noteEnd u.key n).hwaitRelease u.key n) s
  else s

/-- R258: a team of a cluster has gone: what its instances held back goes FREE. An instance that is there no longer receives no tile
(log 75). -/
def State.freeRest (s : State) (us : List Team) : State :=
  us.foldl (fun s u => (List.finRange 32).foldl (fun s n => match s.team? u.key with
    | some t => let h := t.handles[n]; if h.declared && !h.out && h.st == .draining then s.freeInputs t h n else s
    | none => s) s) s

/-- R262: the accesses to the buffer of an instance that a view names. -/
def State.bufferView (s : State) (v : View) (t : Team) (h : Handle) : View :=
  let size := match s.flow t h with | some f => f.decl.tile | none => 0
  let at_ := t.base + h.buf
  let inside := fun (p : Place) => match p with
    | .scratch c block => c == t.core && decide (at_ < 8 * block + 8) && decide (8 * block < at_ + size)
    | .phys _ _ => false
  let known := s.known v
  ⟨((s.hist.filter fun x => inside x.place).flatMap fun x => x.bytes.map (·.2.2)).eraseDups.filter known.contains,
    v.reads.filter fun r => s.rereads.any fun x => x.read == r && x.targets.any fun y => inside y.spot.1⟩

/-- R262: HREL. The accesses to the buffer that happen before it in its threads happen before the refill. -/
def execHrel (n : Fin 32) (s : State) : Host.Outcome State Fault Refusal :=
  uniWordWhen handleInfo (fun s => s.hrelWaits n) (fun b m g s =>
    match s.handleOf g n with
    | none => s
    | some (t, h) =>
      if h.declared && !h.out && h.st == .full then
        (s.modHandle t.key n fun h => { h with st := .draining, view := h.view.join (s.bufferView (s.viewOf b.core m.slot m.sel) t h) }).freeInputs t h n
      else s.handleTrap b m n h) s

/-- R263: HCOMMIT. -/
def execHcommit (n : Fin 32) (s : State) : Host.Outcome State Fault Refusal :=
  uniWord handleInfo (fun b m g s =>
    match s.handleOf g n with
    | none => s
    | some (t, h) =>
      if h.declared && h.out && h.st == .free then
        match s.flow t h with
        | none => s
        | some f =>
          let i : Fin 4 := ⟨h.stream % 4, Nat.mod_lt _ (by decide)⟩
          let k := f.tile t.outNext[i]
          let gone := !f.hasTile k
          ((s.releaseBy b 5).modTeam t.key fun t => { t with outNext := t.outNext.set i (t.outNext[i] + 1) }).modHandle t.key n fun h =>
            { h.begin .draining k with bounds := gone, eos := gone, view := s.viewOf b.core m.slot m.sel }
      else s.handleTrap b m n h) s

/-- R267: an HQRY form writes sD. -/
def hqryWord (d : Fin 128) (f : State → CoreId → Group → Word) (s : State) : Host.Outcome State Fault Refusal :=
  uniWord (plainUInfo [] [d.val]) (fun b m g s => s.setGroup b.core m.slot (some (g.setUni d.val (f s b.core g)))) s

/-- R267, R264: `hqry`; one that observes an output instance FREE joins its drain. -/
def execHqry (d : Fin 128) (n : Fin 32) (s : State) : Host.Outcome State Fault Refusal :=
  uniWord (plainUInfo [] [d.val]) (fun b m g s =>
    match s.handleOf g n with
    | none => s
    | some (_, h) =>
      let s := if h.declared && h.out && h.st == .free then s.joinAt b.core m.slot m.sel 5 h.view else s
      s.modGroup b.core m.slot fun g => g.setUni d.val h.status) s

/-- R267: `hqry.base`. -/
def execHqryBase (d : Fin 128) (n : Fin 32) (s : State) : Host.Outcome State Fault Refusal :=
  hqryWord d (fun s c g => match s.handleOf g n with
    | some (t, h) => if h.declared then BitVec.ofNat 32 (t.rank * (s.cores[c]).part + t.base + h.buf) else 0xFFFFFFFF
    | none => 0xFFFFFFFF) s

/-- R267: `hqry.tile`. -/
def execHqryTile (d : Fin 128) (n : Fin 32) (s : State) : Host.Outcome State Fault Refusal :=
  hqryWord d (fun s _ g => match s.handleOf g n with
    | some (_, h) => if h.declared then (match h.tile with | some k => BitVec.ofNat 32 k | none => 0xFFFFFFFF) else 0xFFFFFFFF
    | none => 0xFFFFFFFF) s

/-- R267: `hqry.scr`. -/
def execHqryScr (d : Fin 128) (s : State) : Host.Outcome State Fault Refusal :=
  hqryWord d (fun s c g => BitVec.ofNat 32 (((s.team? g.team).map (·.rank)).getD 0 * (s.cores[c]).part + s.allotOffset g)) s

/-- R267: `hqry.core`. -/
def execHqryCore (d : Fin 128) (s : State) : Host.Outcome State Fault Refusal :=
  hqryWord d (fun s c g => match s.team? g.team with
    | some t => BitVec.ofNat 32 ((s.cores[c]).part / 1024 % 2 ^ 16 * 2 ^ 16 + t.cores.length % 256 * 2 ^ 8 + t.rank % 256)
    | none => 0) s

/-! ### Crossbar patterns (R268 to R271) -/

/-- XPLD. -/
def xpldInfo (x : Fin 16) (a : Fin 128) : WordInfo := { plainUInfo [a.val] [] with memory := true, xslot := some x.val }

/-- R270: the access of an XPLD that starts at element `x`. -/
def Group.xpldAccess (g : Group) (record : BitVec 128) (x : Int) : Access :=
  let r := Rec.of record
  let off := swizzle r.swz (((r.base : Int) + x * r.step) % (2 ^ 57 : Nat)).toNat
  { record := record, kind := 0, size := r.elem, align := 1, crooked := if off % 128 = 0 then none else some (g.byteVa r 0 off 0)
    poss := List.range (128 / r.elem), fits := (r.stride == 0 || r.stride == r.elem) && decide (r.elem ≤ 128)
    segs := groupSegs, cellOk := false }

/-- R270: XPLD loads one element of the pattern, unless it is poisoned: its bytes by position, and how it may still take effect (R222). -/
def State.xpldElem (s : State) (b : Bundle) (m : Member) (r : Rec) (past : View) (x : Elem × List Target)
    (acc : List (Nat × Byte) × List Reread) : State × List (Nat × Byte) × List Reread :=
  if x.2.any s.poisonedTarget then (s, acc)
  else
    let cached := segCached r.seg
    let got := s.loadOf b.core m.slot m.sel past cached none none x.2
    let at_ := (List.range r.elem).map fun i => x.1.pos * r.elem + i
    (got.1, acc.1 ++ at_.zip got.2.1, acc.2 ++ [{ read := got.2.2, op := 0, core := b.core, slot := m.slot, lanes := m.sel, rows := at_.map regIx
                                                  w := 4, tag := 0, cached := cached, targets := x.2, known := s.known past, by_ := [] : Reread }])

/-- R270: XPLD. A pattern whose elements are all out of bounds is zero in every segment (DESIGN CHOICE, log 87). -/
def execXpld (x : Fin 16) (a : Fin 128) (r : Fin 32) (s : State) : Host.Outcome State Fault Refusal :=
  uniWord (xpldInfo x a) (fun b m g s =>
    let at_ := (g.uni a.val).toInt
    match s.placeGroup b m r.val (g.xpldAccess g.b[r] at_) at_ with
    | (s, none) => s
    | (s, some q) =>
      let rec_ := Rec.of g.b[r]
      let ts := q.elems.flatMap (·.2)
      let cached := segCached rec_.seg
      let s := s.touchAll (corePort b.core) rec_.comp false (s.missing b.core cached ts)
      let past := s.pastOf b.core m.slot m.sel
      let bad := q.elems.filter fun e => e.2.any s.poisonedTarget
      let zero := ((List.range (128 / rec_.elem)).filter fun p => !q.elems.any fun e => e.1.pos == p).flatMap fun p =>
        (List.range rec_.elem).map fun i => (p * rec_.elem + i, (0 : Byte))
      let (s, bytes, spots) := q.elems.foldl (fun st e => st.1.xpldElem b m rec_ past e st.2) (s, zero, [])
      let s := if cached then s.fillAll b.core false ts else s
      let id := s.nextId
      (s.addOp b m.slot m.sel (.xpld x bytes (!bad.isEmpty) ((bad.head?.map fun e => g.byteVa rec_ 0 e.1.off 0).getD 0))).openLoads id spots) s

/-- XBAR (R271). -/
def xbarInfo (e : Ext) (d : Fin 128) (a : LaneSrc) (x : Fin 16) : WordInfo where
  cycles := blockCycles e 2
  blocks := Block.of e d :: srcBlocks e a
  writesBlock := true
  reads := srcReads a
  rule := rulePlain
  pip := true
  xslot := some x.val
  bad := match a with
    | .s _ => some 0x02
    | .v _ => none

/-- R269, R271: byte `j` of the result in lane `l`. `src` reads A in a lane of the group that is in the bundle. -/
def xbarByte (pattern : List Byte) (src : Lane → Option Word) (l : Lane) (j : Nat) : Nat :=
  let e := (pattern.getD (4 * l.val + j) 0).toNat
  if e.testBit 7 then 0
  else match src ⟨e % 32, Nat.mod_lt _ (by decide)⟩ with
    | some x => fieldOf x.toNat (8 * (e / 32 % 4)) 8
    | none => 0

/-- R271: XBAR. -/
def execXbar (e : Ext) (d : Fin 128) (a : LaneSrc) (x : Fin 16) (s : State) : Host.Outcome State Fault Refusal :=
  issue (xbarInfo e d a x) (fun b p s => s.eachMember b fun m s =>
    let pattern := (s.cores[b.core]).xslot[x]
    s.pipFor b p (xbarInfo e d a x) (fun g l _ =>
      ((List.range ((extShape e).1 * (extShape e).2)).map fun pos =>
        let off := posOff e pos
        let src := fun k : Lane => if hasBit m.sel k then some (g.src g.threads[k] a off) else none
        let v := ((List.range 4).map fun j => xbarByte pattern src l j * 2 ^ (8 * j)).sum
        ⟨l, rowOf g.ring (g.threads[l]).turn (d.val + off), 0, 32, v⟩, false)) m) s

end Sys2Proof.Machine
end

