-- ==== Sys2Proof/Machine/Quantise.lean ====
section
/-! DEFINITION. Quantised blocks: AqBlock, the QNT group, and the units that a port conversion engine decodes and encodes
(R343 to R351). -/

namespace Sys2Proof.Machine

/-! ### AqBlock (R343) -/

/-- A finite value as an exact real. -/
def Val.real : Val → Option ExactReal
  | .zero _ => some .zero
  | .fin neg m e => some (ExactReal.zero.addTerm neg m e)
  | _ => none

/-- A positive value of a dyadic format. -/
def Val.dyadic : Val → Option Dyadic
  | .fin false m e => some ⟨(m : Int), e / 256⟩
  | _ => none

/-- The product. -/
def Dyadic.mul (x y : Dyadic) : Dyadic := ⟨x.m * y.m, x.e + y.e⟩

/-- x < y. -/
def ExactReal.lt (x y : ExactReal) : Bool := (x.add y.neg).isNeg

/-- |x / y|, for x not zero and y positive: the floor of a quotient by an integer is that of the dividend's floor. -/
def ExactReal.over (x : ExactReal) (y : Dyadic) : Mag :=
  let a := if x.isNeg then x.neg else x
  let d := y.m.toNat
  let fl := fun k : Int => let f := a.floor (k - y.e); (f.1.toNat / d, f.2 && f.1.toNat % d == 0)
  let g := a.mag.lead - y.e - (Nat.log2 d : Int)
  ⟨if (fl (-g)).1 = 0 then g - 1 else g, fl⟩

/-- Round(x / y, integer, mode), for y positive. -/
def ExactReal.quotient (x : ExactReal) (y : Dyadic) (mode : RMode) (u : Nat) : Int :=
  if x.parts = [] then 0
  else
    let n : Int := ((x.over y).round 0 mode x.isNeg u).1
    if x.isNeg then -n else n

/-- lo and hi of R343: the range of the finite values, with 0 in it. -/
def aqRange (vs : List Val) : ExactReal × ExactReal :=
  vs.foldl (fun acc v => match v.real with
    | some d => (if d.lt acc.1 then d else acc.1, if acc.2.lt d then d else acc.2)
    | none => acc) (.zero, .zero)

/-- What AqBlock gives: the scale code, the zero point, the codes of the finite elements (`none` for the others, which the
caller directs), and CVX. -/
structure AqCoded where
  scale : Nat
  z     : Nat
  codes : List (Option Nat)
  cvx   : Bool

/-- R343: the codes of the finite values under an exact scale s, zero point z; `s` is none for s = 0. -/
def aqCodes (vs : List Val) (s : Option Dyadic) (z cmax : Nat) (mode : RMode) (u : Nat → Nat) : List (Option Nat) :=
  vs.zipIdx.map fun p => p.1.real.map fun x => match s with
    | none => 0
    | some s => (max 0 (min ((x.addTerm false (s.m.toNat * z) (256 * s.e)).quotient s mode (u p.2)) cmax)).toNat

/-- R343: AqBlock. -/
def aqBlock (vs : List Val) (s2 : Val) (b : Nat) (mode : RMode) (u : Nat → Nat) : AqCoded :=
  let cmax := 2 ^ b - 2
  match s2 with
  | .fin false m e =>
    let scale2 : Dyadic := ⟨(m : Int), e / 256⟩
    let (lo, hi) := aqRange vs
    let width := hi.add lo.neg
    if width.parts = [] then ⟨0, 0, aqCodes vs none 0 cmax mode u, false⟩
    else
      let c := FloatFmt.e4m3.encodeMag false (width.over (scale2.mul ⟨cmax, 0⟩)) .rup 0
      let s := scale2.mul (((FloatFmt.e4m3.decode c.code).dyadic).getD ⟨1, 0⟩)
      let z := (max 0 (min (lo.neg.quotient s .rne 0) cmax)).toNat
      ⟨c.code, z, aqCodes vs (some s) z cmax mode u, c.cvx⟩
  | _ => ⟨0, 0, vs.map fun _ => some 0, true⟩

/-- R351, R346 step 5: the code of a non-finite element that has no side-list entry. -/
def aqSpecial (v : Val) (z cmax : Nat) : Nat :=
  match v with
  | .inf false => cmax
  | .inf true => 0
  | _ => z

/-! ### QNT -/

/-- The format of an EXT code of the MX forms (R349). -/
def qntMx (f : Fin 8) : Option MxFmt :=
  match f.val with
  | 0 => Tag.mx .mxf8 | 1 => Tag.mx .mxf8b | 2 => Tag.mx .mxf6 | 3 => Tag.mx .mxf6b | 4 => Tag.mx .mxf4 | 5 => Tag.mx .mxi8
  | _ => none

/-- R349: the code bits of an EXT code of the AQ forms. -/
def qntAq (f : Fin 8) : Option Nat := if f.val = 0 then some 4 else if f.val = 1 then some 8 else none

/-- R350: the registers of a pack that a form reads or writes. -/
def packRegs (base : Nat) (s2 : Bool) : List Nat := regRun base (if s2 then 10 else 9)

/-- The registers of a 4 × 8 source. -/
def wideRegs : LaneSrc → List Nat
  | .v n => regRun n.val 32
  | .s _ => []

/-- The base of a lane source. -/
def srcBase : LaneSrc → Nat
  | .v n => n.val
  | .s n => n.val

/-- A QNT form (R349): `pack` for the forms that write a pack, `aq` for the AQ forms, which read its S2 (R350). -/
def qntInfo (d : Fin 128) (a : LaneSrc) (pack aq known : Bool) : WordInfo where
  cycles := 8
  blocks := (if pack then ⟨d.val, 2, 8⟩ else ⟨d.val, 4, 8⟩) :: match a with
    | .v n => [if pack then ⟨n.val, 4, 8⟩ else ⟨n.val, 2, 8⟩]
    | .s _ => []
  writesBlock := true
  exact := some (if pack then (wideRegs a ++ if aq then [d.val + 9] else [], packRegs d.val false)
    else (packRegs (srcBase a) aq, regRun d.val 32))
  reads := srcReads a
  rule := { allowed := true, rnd := .rounding }
  bad := if !known then some 0x01 else match a, pack with
    | .s _, false => some 0x02
    | _, _ => none

/-- A QNT form for one group: `names` are the registers that it reads or writes, `dst` those that it writes, `f` their values in
a lane, with CVX. -/
def State.quantFor (s : State) (b : Bundle) (p : Pfx) (names dst : List Nat) (f : Group → Lane → Thread → List Word × Bool)
    (m : Member) : State :=
  match s.group? b.core m.slot with
  | none => s
  | some g =>
    let act := g.active m p
    if names.all g.inAllot then
      let s := s.setGroup b.core m.slot (some (g.mapThreads fun l t =>
        if act l then t.setBlock g.ring dst fun i => (f g l t).1.getD i 0
        else if hasBit m.sel l && p.zero then t.setBlock g.ring dst fun _ => 0 else t))
      s.laneCvx b m fun l => act l && (f g l g.threads[l]).2
    else
      (s.modGroup b.core m.slot fun g => g.mapThreads fun l t =>
        if hasBit m.sel l && !act l && p.zero then t.setBlock g.ring (dst.filter g.inAllot) fun _ => 0 else t).raise b m.slot act 0x02
          [b.current, BitVec.ofNat 32 (b.idx + 1)]

/-- The 32 values of an F32 source. -/
def Group.f32Block (g : Group) (t : Thread) (a : LaneSrc) : List Val := (List.range 32).map fun o => FloatFmt.f32.decode (g.src t a o).toNat

/-- R351: the SrHash value of element `o`. -/
def qntHash (p : Pfx) (g : Group) (l : Lane) (o : Nat) : Nat := srValue p.mode g.seed (32 * o + l.val)

/-- The first eight registers of a pack as one number. -/
def Group.packBits (g : Group) (t : Thread) (a : Nat) : Nat := ((List.range 8).map fun i => (t.lane g.ring (a + i)).toNat * 2 ^ (32 * i)).sum

/-- Eight words of a number. -/
def eightWords (x : Nat) : List Word := (List.range 8).map fun i => BitVec.ofNat 32 (x / 2 ^ (32 * i))

/-- R351: what `qnt.mxp` writes. -/
def mxpResult (x : MxFmt) (a : LaneSrc) (p : Pfx) (g : Group) (l : Lane) (t : Thread) : List Word × Bool :=
  let r := x.pack (g.f32Block t a) p.mode (qntHash p g l)
  (eightWords (packCodes x.elem.bits r.1) ++ [BitVec.ofNat 32 r.2.1], r.2.2)

/-- R351: `qnt.mxp`. -/
def execQntMxp (f : Fin 8) (d : Fin 128) (a : LaneSrc) (s : State) : Host.Outcome State Fault Refusal :=
  issue (qntInfo d a true false (qntMx f).isSome) (fun b p s => match qntMx f with
    | none => s
    | some x => s.eachMember b fun m s => s.quantFor b p (packRegs d.val false ++ wideRegs a) (packRegs d.val false)
        (mxpResult x a p) m) s

/-- R351: what `qnt.mxu` writes. -/
def mxuResult (x : MxFmt) (a : LaneSrc) (p : Pfx) (g : Group) (l : Lane) (t : Thread) : List Word × Bool :=
  let bits := g.packBits t (srcBase a)
  let scale := fieldOf (t.lane g.ring (srcBase a + 8)).toNat 0 8
  let rs := (List.range 32).map fun o =>
    FloatFmt.f32.encode (x.decode scale (packedElem x.elem.bits bits o)) p.mode (qntHash p g l o)
  (rs.map fun r => BitVec.ofNat 32 r.code, rs.any (·.cvx))

/-- R351: `qnt.mxu`. -/
def execQntMxu (f : Fin 8) (d : Fin 128) (a : LaneSrc) (s : State) : Host.Outcome State Fault Refusal :=
  issue (qntInfo d a false false (qntMx f).isSome) (fun b p s => match qntMx f with
    | none => s
    | some x => s.eachMember b fun m s => s.quantFor b p (packRegs (srcBase a) false ++ regRun d.val 32) (regRun d.val 32)
        (mxuResult x a p) m) s

/-- R351: what `qnt.aqp` writes. -/
def aqpResult (w : Nat) (d : Fin 128) (a : LaneSrc) (p : Pfx) (g : Group) (l : Lane) (t : Thread) : List Word × Bool :=
  let vs := g.f32Block t a
  let r := aqBlock vs (FloatFmt.f32.decode (t.lane g.ring (d.val + 9)).toNat) w p.mode (qntHash p g l)
  let codes := (vs.zip r.codes).map fun q => q.2.getD (aqSpecial q.1 r.z (2 ^ w - 2))
  (eightWords (packCodes w codes) ++ [BitVec.ofNat 32 (r.scale + 2 ^ 8 * r.z)], r.cvx || r.codes.any (·.isNone))

/-- R351: `qnt.aqp`. -/
def execQntAqp (f : Fin 8) (d : Fin 128) (a : LaneSrc) (s : State) : Host.Outcome State Fault Refusal :=
  issue (qntInfo d a true true (qntAq f).isSome) (fun b p s => match qntAq f with
    | none => s
    | some w => s.eachMember b fun m s => s.quantFor b p (packRegs d.val true ++ wideRegs a) (packRegs d.val false)
        (aqpResult w d a p) m) s

/-- R351: the value of a code, and CVX. A scale code of 0x00 decodes every element to +0 (log 21). -/
def aqElem (w scale z c : Nat) (s2 : Val) : Val × Bool :=
  if scale = 0 then (.zero false, false)
  else if c = 2 ^ w - 1 then (.nan, true)
  else match s2.mul (FloatFmt.e4m3.decode scale) with
    | .nan => (.nan, true)
    | .inf _ => (.nan, true)
    | v => match v.mul (.ofInt ((c : Int) - z)) with
      | .zero _ => (.zero false, false)
      | v => (v, false)

/-- R351: what `qnt.aqu` writes. -/
def aquResult (w : Nat) (a : LaneSrc) (p : Pfx) (g : Group) (l : Lane) (t : Thread) : List Word × Bool :=
  let bits := g.packBits t (srcBase a)
  let head := (t.lane g.ring (srcBase a + 8)).toNat
  let s2 := FloatFmt.f32.decode (t.lane g.ring (srcBase a + 9)).toNat
  let rs := (List.range 32).map fun o =>
    let x := aqElem w (fieldOf head 0 8) (fieldOf head 8 8) (packedElem w bits o) s2
    let r := FloatFmt.f32.encode x.1 p.mode (qntHash p g l o)
    (r.code, r.cvx || x.2)
  (rs.map fun r => BitVec.ofNat 32 r.1, rs.any (·.2))

/-- R351: `qnt.aqu`. -/
def execQntAqu (f : Fin 8) (d : Fin 128) (a : LaneSrc) (s : State) : Host.Outcome State Fault Refusal :=
  issue (qntInfo d a false true (qntAq f).isSome) (fun b p s => match qntAq f with
    | none => s
    | some w => s.eachMember b fun m s => s.quantFor b p (packRegs (srcBase a) true ++ regRun d.val 32) (regRun d.val 32)
        (aquResult w a p) m) s

/-! ### Units of a port (R345 to R348) -/

/-- R345: the elements of a unit's bytes, each with its value and CVX, and the CVX that the unit as a whole sets. -/
def decodeElems (tag : Nat) (bytes : List Byte) : List (Val × Bool) × Bool :=
  match Tag.ofCode tag with
  | some .tn5 => let t := tn5Decode (leValue bytes); (t.1.map fun x => (Val.ofInt x, false), t.2)
  | some .aq4 => aqUnit 4
  | some .aq8 => aqUnit 8
  | some g => match g.mx, g.scalar with
    | some f, _ => ((f.decodeBlock bytes).map (·, false), false)
    | none, some f => ((List.range g.unit.1).map fun i => (f.decode (packedElem f.bits (leValue bytes) i), false), false)
    | none, none => ([], false)
  | none => ([], false)
where
  /-- A super-block. -/
  aqUnit (w : Nat) : List (Val × Bool) × Bool :=
    let q := AqBlock.read w (leValue bytes)
    ((List.range 1024).map q.decode, q.cvx)

/-- R345: the values of a unit's bytes, and CVX. -/
def decodeUnit (tag : Nat) (bytes : List Byte) : List Val × Bool :=
  let d := decodeElems tag bytes
  (d.1.map (·.1), d.2 || d.1.any (·.2))

/-- What encoding a super-block has come to: the blocks so far, the side list, and CVX. -/
structure AqBuild where
  heads   : List Nat
  codes   : List Nat
  entries : List (Nat × Nat)
  cvx     : Bool

/-- R346 steps 3 to 5: one block. -/
def AqBuild.block (acc : AqBuild) (b w : Nat) (s2 : Val) (vs : List Val) : AqBuild :=
  let r := aqBlock vs s2 w .rne fun _ => 0
  let acc := { acc with heads := acc.heads ++ [r.scale + 2 ^ 8 * r.z], cvx := acc.cvx || r.cvx }
  (vs.zip r.codes).zipIdx.foldl (fun acc q => match q.1.2 with
    | some c => { acc with codes := acc.codes ++ [c] }
    | none =>
      if acc.entries.length < 16 then
        { acc with codes := acc.codes ++ [2 ^ w - 1]
                   entries := acc.entries ++ [(32 * b + q.2, (FloatFmt.f32.encode q.1.1 .rne 0).code)]
                   cvx := acc.cvx || q.1.1 == .nan }
      else { acc with codes := acc.codes ++ [aqSpecial q.1.1 r.z (2 ^ w - 2)], cvx := true }) acc

/-- R346: a super-block of 1,024 values. -/
def aqSuper (w : Nat) (vs : List Val) : List Byte × Bool :=
  let blocks := (List.range 32).map fun b => (vs.drop (32 * b)).take 32
  let g := blocks.foldl (fun acc b => let r := aqRange b; let d := r.2.add r.1.neg; if acc.lt d then d else acc) ExactReal.zero
  let s2 := if g.parts = [] then 0x3F800000
    else (FloatFmt.f32.encodeMag false (g.over ⟨((2 ^ w - 2) * 448 : Nat), 0⟩) .rup 0).code
  let r : AqBuild := blocks.zipIdx.foldl (fun (acc : AqBuild) b => acc.block b.2 w (FloatFmt.f32.decode s2) b.1) ⟨[], [], [], false⟩
  (leBytes 4 s2 ++ leBytes 2 r.entries.length ++ leBytes 2 0 ++ r.heads.flatMap (leBytes 2) ++ leBytes (128 * w) (packCodes w r.codes)
    ++ (List.range 16).flatMap fun i => match r.entries[i]? with
      | some e => leBytes 4 e.1 ++ leBytes 4 e.2
      | none => leBytes 8 0, r.cvx)

/-- R345: encodes the values of a unit, always under RNE. -/
def encodeUnit (tag : Nat) (vs : List Val) : List Byte × Bool :=
  match Tag.ofCode tag with
  | some .tn5 =>
    let ts := vs.map fun v => tritEncode v .rne 0
    ([BitVec.ofNat 8 (tn5Byte (ts.map (·.code)))], ts.any (·.cvx))
  | some .aq4 => aqSuper 4 vs
  | some .aq8 => aqSuper 8 vs
  | some g => match g.mx, g.scalar with
    | some f, _ => let r := f.pack vs .rne fun _ => 0; (f.blockBytes r.1 r.2.1, r.2.2)
    | none, some f =>
      let cs := vs.map fun v => f.encode v .rne 0
      (leBytes g.unit.2 (packCodes f.bits (cs.map (·.code))), cs.any (·.cvx))
    | none, none => ([], false)
  | none => ([], false)

end Sys2Proof.Machine
end

