-- ==== Sys2Proof/Machine/Matrix.lean ====
section
/-! DEFINITION. The matrix engines: configuration, convergence registers, MMA, the reservation table and its passes, the MACC group
and drains (R272 to R299). -/

namespace Sys2Proof.Machine

/-! ### Configuration (R274 to R276) -/

/-- R276: the pairs of tags whose products go into an F32 or a Z32 accumulator. -/
def pairValid (a b : Tag) : Bool :=
  match a with
  | .f32 | .f16 | .bf16 | .mxi8 | .l8 | .l16 => b == a
  | .e4m3 | .e5m2 => [Tag.e4m3, .e5m2].contains b
  | .mxf8 | .mxf8b => [Tag.mxf8, .mxf8b].contains b
  | .mxf6 | .mxf6b | .mxf4 => [Tag.mxf6, .mxf6b, .mxf4].contains b
  | .e3m2 | .e2m3 | .e2m1 => [Tag.e3m2, .e2m3, .e2m1].contains b
  | .aq4 | .aq8 => [Tag.f16, .bf16, .e4m3, .e5m2, .mxf8, .mxf8b].contains b
  | .z8 | .n8 => [Tag.z8, .n8].contains b
  | .tn5 => [Tag.z8, .e4m3].contains b
  | _ => false

/-- R276: the tags that A may have under a sparsity. -/
def sparseTag (a : Tag) : Bool :=
  [Tag.f16, .bf16, .e4m3, .e5m2, .e3m2, .e2m3, .e2m1, .mxf8, .mxf8b, .mxf6, .mxf6b, .mxf4, .mxi8, .z8, .n8].contains a

/-- R275: the fields of a configuration word. -/
structure Mcfg where
  kj  : Nat
  a   : Tag
  b   : Tag
  spa : Nat
  deriving DecidableEq, Repr

/-- R275, R276: reads a configuration word; none when it is not valid. -/
def Mcfg.of (w : Word) : Option Mcfg :=
  let x := w.toNat
  if fieldOf x 18 14 ≠ 0 ∨ fieldOf x 2 2 ≠ 0 then none
  else match Tag.ofCode (fieldOf x 4 6), Tag.ofCode (fieldOf x 10 6) with
    | some a, some b =>
      let spa := fieldOf x 16 2
      if pairValid a b && decide (spa < 3) && (spa == 0 || sparseTag a) then some ⟨fieldOf x 0 2, a, b, spa⟩ else none
    | _, _ => none

/-- R272: K. -/
def Mcfg.k (c : Mcfg) : Nat := 32 * 2 ^ c.kj

/-- R38: the accumulator format of the pair is Z32. -/
def Mcfg.z32 (c : Mcfg) : Bool := c.a.isInteger && c.b.isInteger

/-- R274: `mcfg`. -/
def execMcfg (a : Fin 128) (s : State) : Host.Outcome State Fault Refusal :=
  uniWord (plainUInfo [a.val] []) (fun b m g s =>
    if (Mcfg.of (g.uni a.val)).isSome then s.setGroup b.core m.slot (some { g with mcfg := g.uni a.val }) else s.badOperand b m) s

/-- R274: `mcfg.rd`. -/
def execMcfgRd (d : Fin 128) (s : State) : Host.Outcome State Fault Refusal :=
  uniWrite (plainUInfo [] [d.val]) (fun g => g.setUni d.val g.mcfg) s

/-! ### Operand layouts (R277 to R280) -/

/-- The bits of an element of a tag in an operand row. -/
def Tag.rowBits (g : Tag) : Nat :=
  match g.mx, g.scalar with
  | some f, _ => f.elem.bits
  | none, some f => f.bits
  | none, none => 8

/-- R277: W_row. -/
def rowWidth (g : Tag) (spa : Nat) : Nat :=
  if g = .tn5 then 7
  else if spa ≠ 0 then 2 * g.rowBits + (if g.mx.isSome then 1 else 0) + (if spa = 1 then 4 else 8)
  else match g.mx with
    | some f => f.bytes
    | none => 4 * g.rowBits

/-- The tag's operands are super-blocks. -/
def Tag.isAq (g : Tag) : Bool := g == .aq4 || g == .aq8

/-- The bits of an AQ code. -/
def Tag.aqWidth (g : Tag) : Nat := if g = .aq4 then 4 else 8

/-- R277: the values of one row of one sub-tile, and CVX; none when sparse metadata breaks R28. -/
def subRow (g : Tag) (spa : Nat) (bytes : List Byte) : Option (List Val × Bool) :=
  let x := leValue bytes
  if g = .tn5 then
    let ts := bytes.map fun b => tn5Decode b.toNat
    some (((ts.flatMap (·.1)).take 32).map Val.ofInt, ts.any (·.2))
  else
    let scale := if spa = 0 then fieldOf x (32 * g.rowBits) 8 else fieldOf x (16 * g.rowBits) 8
    let elem := fun i => let c := packedElem g.rowBits x i
      match g.mx, g.scalar with
      | some f, _ => f.decode scale c
      | none, some f => f.decode c
      | none, none => .zero false
    if spa = 0 then some ((List.range 32).map elem, false)
    else
      let at_ := 16 * g.rowBits + (if g.mx.isSome then 8 else 0)
      (sparsePositions (spa == 2) (fieldOf x at_ (if spa = 1 then 32 else 64))).map fun ps =>
        ((List.range 32).map fun k => match ps.zipIdx.find? fun p => p.1 == k with
          | some p => elem p.2
          | none => .zero false, false)

/-- R279: the fields of a scratch descriptor. -/
structure ScratchDesc where
  base : Nat
  rot  : Nat
  tp   : Nat
  rp   : Nat
  deriving DecidableEq, Repr

/-- R279: reads a descriptor. -/
def ScratchDesc.of (lo hi : Word) : ScratchDesc := ⟨lo.toNat, fieldOf hi.toNat 28 4, fieldOf hi.toNat 16 12, fieldOf hi.toNat 0 16⟩

/-- R279, R296: the bank rotation of row `m`. -/
def rotate (rot m a : Nat) : Nat := a ^^^ (m * rot % 32 * 4)

/-- R279: the seg2 offset of byte `b` of row `m` of sub-tile `t`. -/
def ScratchDesc.at_ (d : ScratchDesc) (w t m b : Nat) : Nat :=
  rotate d.rot m (d.base + t * (if d.tp = 0 then w else d.tp * 64) + m * d.rp + b)

/-- R280: the seg2 offset of super-block (t, h). -/
def ScratchDesc.super (d : ScratchDesc) (z t h : Nat) : Nat :=
  d.base + t * (if d.tp = 0 then 2 * z else d.tp * 64) + h * (if d.rp = 0 then z else d.rp)

/-- R279, R280: one past the highest offset that the operand can touch. -/
def ScratchDesc.reach (d : ScratchDesc) (g : Tag) (spa kj : Nat) : Nat :=
  let ts := List.range (2 ^ kj)
  if g.isAq then (ts.flatMap fun t => (List.range 2).map fun h => d.super (aqBytes g.aqWidth) t h + aqBytes g.aqWidth).foldl max 0
  else
    let w := rowWidth g spa
    (ts.flatMap fun t => (List.range 64).flatMap fun m => (List.range w).map fun b => d.at_ w t m b + 1).foldl max 0

/-- R278: the value of byte `i` of row `m` among captured register rows. -/
def rowByte (xs : List (Nat × Nat × Word)) (m i : Nat) : Byte :=
  let n := 64 * (m / 32) + i
  match xs.find? fun x => x.1 == m % 32 && x.2.1 == n / 4 with
  | some x => BitVec.ofNat 8 (fieldOf x.2.2.toNat (8 * (n % 4)) 8)
  | none => 0

/-- R279, R280: the seg2 offsets of the bytes of row `m` of an operand in scratch, sub-tile by sub-tile. -/
def ScratchDesc.rowOffsets (d : ScratchDesc) (g : Tag) (spa kj m : Nat) : List (List Nat) :=
  (List.range (2 ^ kj)).map fun k =>
    if g.isAq then (List.range (aqBytes g.aqWidth)).map fun b => d.super (aqBytes g.aqWidth) k (m / 32) + b
    else (List.range (rowWidth g spa)).map fun b => d.at_ (rowWidth g spa) k m b

/-- R277 to R280, R285: the K values of row `m` of an operand, and CVX. A row of no contributing signer is zero. `byte` is what scratch
holds. -/
def operandRow (byte : Nat → Byte) (x : Captured) (contrib : Word) (g : Tag) (spa kj m : Nat) : Option (List Val × Bool) :=
  if !hasBit contrib (m % 32) then some (List.replicate (32 * 2 ^ kj) (.zero false), false)
  else
    let w := rowWidth g spa
    let subs := match x with
      | .rows xs => (List.range (2 ^ kj)).map fun k => (List.range w).map fun b => rowByte xs m (k * w + b)
      | .desc lo hi => ((ScratchDesc.of lo hi).rowOffsets g spa kj m).map fun os : List Nat => os.map byte
    subs.foldl (fun (acc : Option (List Val × Bool)) bs => match acc with
      | none => none
      | some a =>
        let sub : Option (List Val × Bool) := match x, g.isAq with
          | .desc _ _, true =>
            let q := AqBlock.read g.aqWidth (leValue bs)
            let vs := (List.range 32).map fun j => q.decode (32 * (m % 32) + j)
            some (vs.map (·.1), q.cvx || vs.any (·.2))
          | _, _ => subRow g spa bs
        sub.map fun (r : List Val × Bool) => (a.1 ++ r.1, a.2 || r.2)) (some ([], false))

/-- The seg2 offsets that a pass reads of an operand. -/
def Captured.offsets (x : Captured) (contrib : Word) (g : Tag) (spa kj : Nat) : List Nat :=
  match x with
  | .rows _ => []
  | .desc lo hi => ((List.range 64).filter fun m => hasBit contrib (m % 32)).flatMap fun m => ((ScratchDesc.of lo hi).rowOffsets g spa kj m).flatMap id

/-! ### Convergence registers (R281, R282) -/

/-- R281: a set form waits for the register. -/
def State.cvBusy (n : Fin 8) (s : State) (b : Bundle) (m : Member) : Bool :=
  match s.group? b.core m.slot with
  | some g => (g.cv[n]).st == .open_ || (g.cv[n]).st == .postwait
  | none => false

/-- R281: the register with its mask set. -/
def Cv.set (c : Cv) (mask : Word) : Cv := { c with mask := mask, signed := 0, st := if mask = 0 then .empty else .idle }

/-- R281: `cvset`. -/
def execCvset (n : Fin 8) (a : Fin 128) (s : State) : Host.Outcome State Fault Refusal :=
  uniWordWhen (plainUInfo [a.val] []) (State.cvBusy n) (fun b m g s =>
    s.setGroup b.core m.slot (some { g with cv := g.cv.set n ((g.cv[n]).set (g.uni a.val)) })) s

/-- R281: `cvset.all`. -/
def execCvsetAll (n : Fin 8) (s : State) : Host.Outcome State Fault Refusal :=
  uniWordWhen (plainUInfo [] []) (State.cvBusy n) (fun b m g s =>
    s.setGroup b.core m.slot (some { g with cv := g.cv.set n ((g.cv[n]).set 0xFFFFFFFF) })) s

/-- R282: the status word. -/
def Cv.status (c : Cv) : Word :=
  match c.st with
  | .empty => 0
  | .idle => 1
  | .open_ => BitVec.ofNat 32 (fieldOf c.fword.toNat 2 24 * 2 ^ 8 + 2)
  | .postwait => BitVec.ofNat 32 (fieldOf c.fword.toNat 2 24 * 2 ^ 8 + 6)

/-- CVRD. -/
def cvrdInfo (d : Fin 128) : WordInfo where
  uniform := true
  writes := if d.val ≤ 125 then regRun d.val 3 else []
  bad := if d.val ≤ 125 then none else some 0x02

/-- R281: `cvrd`. -/
def execCvrd (d : Fin 128) (n : Fin 8) (s : State) : Host.Outcome State Fault Refusal :=
  uniWrite (cvrdInfo d) (fun g => let c := g.cv[n]
    ((g.setUni d.val c.mask).setUni (d.val + 1) c.signed).setUni (d.val + 2) c.status) s

/-! ### MMA (R283 to R287) -/

/-- R278, R283: the register block that an operand names. -/
def mmaBlocks : LaneSrc → List Block
  | .v n => [⟨n.val, 4, 8⟩]
  | .s _ => []

/-- R279: the registers of a descriptor. -/
def mmaReads : LaneSrc → List Nat
  | .v _ => []
  | .s n => regRun n.val 2

/-- R283: an operand that names a register beyond s127. -/
def mmaBeyond : LaneSrc → Bool
  | .v _ => false
  | .s n => n.val == 127

/-- MMA (R283). -/
def mmaInfo (a b : LaneSrc) : WordInfo where
  cycles := if (mmaBlocks a ++ mmaBlocks b).isEmpty then 1 else 16
  blocks := mmaBlocks a ++ mmaBlocks b
  reads := if mmaBeyond a || mmaBeyond b then [] else mmaReads a ++ mmaReads b
  rule := { allowed := true, zero := false, plainMask := true }
  effect := true
  memory := true
  bad := if mmaBeyond a || mmaBeyond b then some 0x02 else none

/-- R278, R279, R280: the class that an operand fails with as a signing opens. -/
def Group.mmaCheck (g : Group) (x : LaneSrc) (tag : Tag) (spa kj : Nat) : Option Nat :=
  match x with
  | .v n =>
    if !(regRun n.val 32).all g.inAllot || tag.isAq || spa != 0 || decide (64 < 2 ^ kj * rowWidth tag spa) then some 0x02 else none
  | .s n =>
    let d := ScratchDesc.of (g.uni n.val) (g.uni (n.val + 1))
    if tag.isAq ∧ d.rot ≠ 0 then some 0x02
    else if segLimit g.seg[(2 : Fin 8)] < d.reach tag spa kj then some 0x06
    else none

/-- R284: what a register operand captures of a thread; a descriptor stays as it was at the open. -/
def Group.capture (g : Group) (x : LaneSrc) (l : Lane) (sel : Bool) (old : Captured) : Captured :=
  match x with
  | .s _ => old
  | .v n =>
    let xs := match old with | .rows xs => xs | .desc _ _ => []
    .rows (xs ++ if sel then (List.range 32).map fun o => (l.val, o, (g.threads[l]).lane g.ring (n.val + o)) else [])

/-- R284: what an operand holds as a signing opens. -/
def Group.openOperand (g : Group) (x : LaneSrc) : Captured :=
  match x with
  | .v _ => .rows []
  | .s n => .desc (g.uni n.val) (g.uni (n.val + 1))

/-- The threads of a group that wait at an MMA word stand ready at it (log 37), those that do so while it is in handler mode too (R397). -/
def Group.wakeMma (g : Group) : Group :=
  g.mapThreads fun _ t =>
    let t := if g.handler.isSome && !t.gone && estateWait t.estate == 7 then { t with estate := t.estate &&& ~~~ (0xF0#32) } else t
    match t.run with
    | .mma _ => { t with run := .ready }
    | _ => t

/-- R288: entries of a quad's table that are free. -/
def State.freeEntries (s : State) (c : CoreId) : Nat := 32 - (s.quads[quadOf c]).entries.length

/-- R288: posts an entry; its number is the one that `nextId` held. -/
def State.postEntry (s : State) (c : CoreId) (k : Slot) (team : Nat) (tile : Option Nat) (job : Job) : State :=
  let q := quadOf c
  { s with
    quads := s.quads.set q { s.quads[q] with entries := (s.quads[q]).entries ++ [⟨s.nextId, c, k, team, tile, false, (s.cores[c]).cycles, job⟩] }
    nextId := s.nextId + 1 }

/-- R285: a complete signing takes an entry, and the register returns to IDLE. -/
def State.postSigning (s : State) (c : CoreId) (k : Slot) (n : Fin 8) : State :=
  match s.group? c k with
  | none => s
  | some g =>
    let x := g.cv[n]
    let s := s.postEntry c k g.team (some x.tile) (.pass x.var x.mcfg x.a x.b x.contrib x.view)
    let g := if x.mask &&& ~~~ x.signed = 0 then g else g.flag qexitBit
    s.setGroup c k (some { g with cv := g.cv.set n { x with st := .idle, signed := 0 } }.wakeMma)

/-- What an MMA word names. -/
structure MmaWord where
  var  : Nat
  tile : Fin 16
  cv   : Fin 8
  a    : LaneSrc
  b    : LaneSrc

/-- R284: opens a signing, or answers the class of the trap. SPA is of operand A: a register operand B is checked as a dense one (DEDUCED,
log 90). -/
def Group.openSigning (g : Group) (w : MmaWord) (fword : Word) : Group ⊕ Nat :=
  if g.tiles.length ≤ w.tile.val then .inr 0x02
  else match Mcfg.of g.mcfg with
    | none => .inr 0x02
    | some c =>
      let regs := fun x : LaneSrc => match x with | .v _ => true | .s _ => false
      let first := [(w.a, c.a, c.spa), (w.b, c.b, 0)].filter fun o => regs o.1
      let second := [(w.a, c.a, c.spa), (w.b, c.b, 0)].filter fun o => !regs o.1
      match (first ++ second).findSome? fun o => g.mmaCheck o.1 o.2.1 o.2.2 c.kj with
      | some cls => .inr cls
      | none =>
        let x : Cv := ⟨(g.cv[w.cv]).mask, 0, .open_, fword, w.var, w.tile.val, g.mcfg, g.openOperand w.a, g.openOperand w.b, 0, .none⟩
        .inl { g with cv := g.cv.set w.cv x }

/-- R284, R285, R286: a member of the mask waits at an MMA word. -/
def Group.mmaWaits (g : Group) (w : MmaWord) (l : Lane) : Bool :=
  let c := g.cv[w.cv]
  (c.st == .open_ && hasBit c.signed l) || c.st == .postwait
    || c.st == .idle && (List.finRange 8).any fun n : Fin 8 => n != w.cv && ((g.cv[n]).st == .open_ || (g.cv[n]).st == .postwait)
        && (g.cv[n]).tile == w.tile.val

/-- R284: one thread of the bundle that belongs to the mask, or that the guard selected. -/
def State.mmaThread (w : MmaWord) (s : State) (b : Bundle) (k : Slot) (l : Lane) (sel : Bool) : State :=
  match s.group? b.core k with
  | none => s
  | some g =>
    let c := g.cv[w.cv]
    let trap := fun (s : State) (cls : Nat) => s.raise b k (fun x => x == l) cls
      (if cls = 0x02 then [b.current, BitVec.ofNat 32 (b.idx + 1)] else vaDetail 0 0)
    let wait := s.modGroup b.core k fun g => g.modThread l fun t => t.standAt b b.here (.mma w.cv)
    if (g.threads[l]).run != .member then s
    else if !hasBit c.mask l then (if sel then trap s 0x02 else s)
    else if c.st == .empty || (c.st == .open_ && c.fword != b.offset b.idx) then trap s 0x02
    else if g.mmaWaits w l then wait
    else
      match (if c.st == .idle then g.openSigning w (b.offset b.idx) else .inl g) with
      | .inr cls => trap s cls
      | .inl g =>
        let c := g.cv[w.cv]
        let c := { c with a := g.capture w.a l sel c.a, b := g.capture w.b l sel c.b, signed := c.signed ||| oneBit l.val, view := c.view.join (g.threads[l]).ord.view
                          contrib := if sel then c.contrib ||| oneBit l.val else c.contrib }
        let s := s.setGroup b.core k (some { g with cv := g.cv.set w.cv c })
        if g.signingFull c then s.postSigning b.core k w.cv else s

/-- The threads of a bundle for which an MMA acts, in ascending slot and lane, with whether the guard selected them. -/
def Bundle.mmaThreads (b : Bundle) : List (Slot × Lane × Bool) :=
  b.members.flatMap fun m => (maskLanes (m.sel ||| m.skip)).map fun l => (m.slot, l, hasBit m.sel l.val)

/-- R285: the posts that the word makes if it issues. -/
def State.mmaPosts (w : MmaWord) (s : State) (b : Bundle) : Nat :=
  ((b.members.map (s.trim b.core)).filter fun m => match s.group? b.core m.slot with
    | none => false
    | some g =>
      let c := g.cv[w.cv]
      (c.st == .idle || c.st == .open_) && (maskLanes (m.sel ||| m.skip)).any (fun l => hasBit c.mask l.val)
        && g.signingFull { c with signed := (if c.st == .idle then 0 else c.signed) ||| m.sel ||| m.skip }).length

/-- The clause holds no MMA word from word `i` on. -/
def Bundle.mmaDone (b : Bundle) (i : Nat) : Bool := (b.words.drop i).all fun w => fieldOf w.toNat 25 7 != 0x38

/-- R48, R284: threads that the guard skipped go on once no MMA word of the clause is left. -/
def State.dropSkipped (s : State) (b : Bundle) : State :=
  if b.mmaDone (b.idx + 1) then
    b.members.foldl (fun s m => s.modGroup b.core m.slot fun g => g.mapThreads fun l t =>
      if hasBit m.skip l && t.run == .member then { t with run := .ready, pc := b.after, inside := none } else t) s
  else s

/-- R225, R226: a thread that the guard skipped and that the word may sign for still has accesses to perform. -/
def State.skippedOwes (s : State) (b : Bundle) : Bool :=
  b.members.any fun m => (maskLanes (s.liveOf b.core m.slot m.skip)).any fun l => s.owes b.core m.slot l

/-- R285: the wait of an MMA word. -/
def mmaReady (w : MmaWord) (b : Bundle) (_ : Pfx) (s : State) : State × Bool :=
  (s, decide (s.mmaPosts w b ≤ s.freeEntries b.core) && !s.skippedOwes b)

/-- R285: some thread of a group executes the word; where all wait at it, the group has not come to it. -/
def mmaActs (w : MmaWord) (b : Bundle) (m : Member) (s : State) : Bool :=
  match s.group? b.core m.slot with
  | some g => (maskLanes (m.sel ||| m.skip)).any fun l => hasBit (g.cv[w.cv]).mask l && !g.mmaWaits w l
  | none => false

/-- R284: an MMA word. -/
def mmaWord (w : MmaWord) (s : State) : Host.Outcome State Fault Refusal :=
  issueWhen (mmaInfo w.a w.b) (mmaReady w) (joins := mmaActs w)
    (fun b _ s =>
      let s := s.releaseBy b 3
      (b.mmaThreads.foldl (fun s x => s.mmaThread w b x.1 x.2.1 x.2.2) s).dropSkipped b) s

/-- R283: `mma`. -/
def execMma (t : Fin 16) (c : Fin 8) (a b : LaneSrc) (s : State) : Host.Outcome State Fault Refusal := mmaWord ⟨0, t, c, a, b⟩ s
/-- R283: `mma.z`. -/
def execMmaZ (t : Fin 16) (c : Fin 8) (a b : LaneSrc) (s : State) : Host.Outcome State Fault Refusal := mmaWord ⟨1, t, c, a, b⟩ s

/-- R285: a signing in POSTWAIT takes an entry once one is free. -/
def execReservationPost (core : CoreId) (slot : Slot) (cv : Fin 8) (s : State) : Host.Outcome State Fault Refusal :=
  .next (match s.group? core slot with
    | some g => if (g.cv[cv]).st == .postwait && !g.engineHeld && decide (0 < s.freeEntries core) then s.postSigning core slot cv else s
    | none => s)

/-- R287: the quorum count of an open signing reaches the limit. -/
def execQuorumTimeout (core : CoreId) (slot : Slot) (cv : Fin 8) (s : State) : Host.Outcome State Fault Refusal :=
  .next (match s.group? core slot with
    | none => s
    | some g =>
      let c := g.cv[cv]
      let lim := (s.cores[core]).qlim.toNat
      if c.st == .open_ && lim != 0 && decide (lim ≤ ((s.cores[core]).sched[slot]).quorum[cv]) && g.handler.isNone && !g.mustHalt then
        let detail := [BitVec.ofNat 32 cv.val, c.mask, c.signed, c.status]
        let s := s.setGroup core slot (some ({ g with cv := g.cv.set cv { c with st := .idle, signed := 0 } }.mapThreads fun l t =>
          if hasBit c.mask l && !t.gone then
            { t with run := if t.run == Run.mma cv then .ready else t.run, trap := some (t.trap.getD ⟨0x0A, t.waitWord false, detail⟩) }
          else t).wakeMma)
        ((s.haltSlot core slot).purge)
      else s)

/-! ### Passes (R288 to R291) -/

/-- R288: no entry posted earlier names the same tile. -/
def Quad.eligible (q : Quad) (e : Entry) : Bool :=
  !((q.entries.takeWhile fun x => x.id != e.id).any fun x => e.tile.isSome && x.tile == e.tile && x.core == e.core && x.slot == e.slot)

/-- An entry of the multiplier array. -/
def Job.isDrain : Job → Bool
  | .drain => true
  | _ => false

/-- R288: the pass that the engine starts next: the earliest that has waited 8,192 cycles, else the first of highest
priority. -/
def State.nextPass (s : State) (q : QuadId) : Option Entry :=
  let quad := s.quads[q]
  if quad.entries.any fun e => e.started && !e.job.isDrain then none
  else
    let cand := quad.entries.filter fun e => !e.job.isDrain && quad.eligible e && !s.engineHeld e.core e.slot
    match cand.find? fun e => decide (e.posted + 8192 ≤ (s.cores[e.core]).cycles) with
    | some e => some e
    | none => cand.foldl (fun (best : Option Entry) e => match best with
      | none => some e
      | some x => if s.priority x.core x.slot < s.priority e.core e.slot then some e else best) none

/-- Changes a quad's entries. -/
def State.modEntries (s : State) (q : QuadId) (f : List Entry → List Entry) : State :=
  { s with quads := s.quads.set q { s.quads[q] with entries := f (s.quads[q]).entries } }

/-- R288: the engine starts a pass. -/
def execPassStart (q : QuadId) (entry : Nat) (s : State) : Host.Outcome State Fault Refusal :=
  .next (match s.nextPass q with
    | some e => if e.id = entry then s.modEntries q fun es => es.map fun x => if x.id = entry then { x with started := true } else x else s
    | none => s)

/-- Changes a tile of a group. -/
def State.modTile (s : State) (c : CoreId) (k : Slot) (n : Nat) (f : Tile → Tile) : State :=
  s.modGroup c k fun g => { g with tiles := g.tiles.zipIdx.map fun t => if t.2 = n then f t.1 else t.1 }

/-- R291: the pass fails. -/
def Tile.fail (t : Tile) (cls : Nat) : Tile := if t.err = 0 then { t with err := cls } else t

/-- R290: the values that a pass leaves in a tile. -/
def Tile.pass (t : Tile) (xf z32 : Bool) (var : Nat) (a b : List (List Val)) (cvx : Bool) : Tile :=
  let rs := (List.range 4096).map fun i =>
    let c := if var = 1 then Acc.zero else t.elems.toList.getD i .zero
    sumRule xf z32 c (((a.getD (i / 64) []).zip (b.getD (i % 64) [])).map fun p => p.1.mul p.2)
  { t with z32 := if var = 1 then z32 else t.z32, elems := Vector.ofFn fun i : Fin 4096 => (rs.getD i.val (.zero, false)).1
           cvx := t.cvx || cvx || rs.any (·.2) }

/-- R424: the elements of a tile that satisfy a test are written. -/
def State.tileWritten (s : State) (c : CoreId) (k : Slot) (n : Nat) (f : Nat → Bool) : State :=
  if s.ecc.isEmpty then s
  else { s with ecc := s.ecc.filter fun e => match e with
    | .tile c' k' n' i => !(c' == c && k' == k && n' == n && f i)
    | _ => true }

/-- R424: an element of the tile that satisfies a test is in error. -/
def State.tileBad (s : State) (c : CoreId) (k : Slot) (n : Nat) (f : Nat → Bool) : Bool :=
  s.ecc.any fun e => match e with
    | .tile c' k' n' i => c' == c && k' == k && n' == n && f i
    | _ => false

/-- R226, R289 to R291: a pass, with the operands as they are read while it runs. DEDUCED (log 89): one that reads an element in error
fails with class 0x08 (R424). -/
def State.runPass (s : State) (e : Entry) (var : Nat) (mcfg : Word) (a b : Captured) (contrib : Word) (view : View) : State :=
  match s.group? e.core e.slot, s.team? e.team, Mcfg.of mcfg, e.tile with
  | some g, some t, some c, some n =>
    if g.team ≠ e.team then s
    else match g.tiles[n]? with
      | none => s
      | some tile =>
        if var = 0 ∧ tile.z32 ≠ c.z32 then s.modTile e.core e.slot n (·.fail 0x02)
        else
          let offs := (a.offsets contrib c.a c.spa c.kj ++ b.offsets contrib c.b 0 c.kj).eraseDups
          let ts := offs.map (s.scratchTarget t)
          let bad := ts.any s.poisonedTarget || (var == 0 && s.tileBad e.core e.slot n fun _ => true)
          let r := s.readAs view ts
          let byte := fun off => match (offs.zip r.2.1).find? fun x => x.1 == off with | some x => x.2 | none => 0
          let s := r.1.modTile e.core e.slot n fun tile => { tile with view := ⟨tile.view.writes, addId tile.view.reads r.2.2⟩ }
          let ra := (List.range 64).map fun m => operandRow byte a contrib c.a c.spa c.kj m
          let rb := (List.range 64).map fun m => operandRow byte b contrib c.b 0 c.kj m
          if bad then s.modTile e.core e.slot n (·.fail 0x08)
          else if (ra ++ rb).any (·.isNone) then s.modTile e.core e.slot n (·.fail 0x02)
          else
            let xs := ra.filterMap id
            let ys := rb.filterMap id
            (s.modTile e.core e.slot n fun tile => tile.pass (g.contract == 0) c.z32 var (xs.map (·.1)) (ys.map (·.1))
              ((xs ++ ys).any (·.2))).tileWritten e.core e.slot n fun _ => var == 1
  | _, _, _, _ => s

/-! ### MACC (R292 to R297) -/

/-- R293: the tile has a signing that is open or waits for an entry. -/
def Group.tileSigned (g : Group) (n : Nat) : Bool :=
  (List.finRange 8).any fun i : Fin 8 => ((g.cv[i]).st == .open_ || (g.cv[i]).st == .postwait) && (g.cv[i]).tile == n

/-- R293: what a zero, read or write form waits for. -/
def State.tileBusy (n : Nat) (s : State) (b : Bundle) (m : Member) : Bool :=
  match s.group? b.core m.slot with
  | none => false
  | some g => g.tileSigned n || (s.quads[quadOf b.core]).entries.any fun e => e.core == b.core && e.slot == m.slot && e.tile == some n

/-- The zero, read and write forms (R292, R293). -/
def maccInfo (mods : List Nat) (rounds zero : Bool) : WordInfo where
  cycles := 4
  rule := { allowed := true, rnd := if rounds then .rounding else .unused, mods := mods, zero := zero }
  effect := true

/-- R226, R293: a group's threads join the passes performed on a tile. -/
def State.joinTile (s : State) (b : Bundle) (m : Member) (n : Nat) (t : Tile) : State :=
  (s.joinAt b.core m.slot m.sel 3 t.view).modTile b.core m.slot n fun t => { t with view := .none }

/-- R293: a synchronous MACC form for one group: `f` is its effect on the group, with the lanes that set CVX. -/
def State.maccFor (s : State) (b : Bundle) (p : Pfx) (i : WordInfo) (n : Nat) (m : Member)
    (f : Group → Tile → (Lane → Bool) → Group × (Lane → Bool)) : State :=
  match s.group? b.core m.slot with
  | none => s
  | some g =>
    let act := g.active m p
    if (i.names none).all g.inAllot && decide (n < g.tiles.length) then
      match g.tiles[n]? with
      | none => s
      | some t =>
        let zeroed := fun (g : Group) => g.mapThreads fun l x => if hasBit m.sel l && !act l && p.zero then x.zeroDst g i else x
        if !(List.finRange 32).any act then s.setGroup b.core m.slot (some (zeroed g))
        else if t.err ≠ 0 then
          (((s.setGroup b.core m.slot (some (zeroed g))).joinTile b m n t).modTile b.core m.slot n fun t => { t with err := 0 }).raise
            b m.slot act t.err [b.current, BitVec.ofNat 32 (b.idx + 1)]
        else
          let clean := fun (ts : List Tile) => ts.zipIdx.map fun x => if x.2 = n then { x.1 with cvx := false } else x.1
          let g0 := if t.cvx then g.flag cvxBit else g
          let (g1, cvx) := f { g0 with tiles := clean g.tiles } { t with cvx := false } act
          let s := ((s.setGroup b.core m.slot (some (zeroed g1))).joinTile b m n t).laneCvx b m fun l => act l && cvx l
          if t.cvx && s.cvxOn b.core then s.raise b m.slot act 0x13 [] (after := true) else s
    else s.refuseBlock b p i m act

/-- A synchronous MACC form. `poison` gives the lanes of a member that read a poisoned element, and `fills` the elements that some
lanes write (R424). -/
def maccWord (i : WordInfo) (n : Nat) (f : Pfx → Group → Tile → (Lane → Bool) → Group × (Lane → Bool))
    (poison : State → Bundle → Pfx → Member → Lane → Bool) (fills : (Lane → Bool) → Nat → Bool) (s : State) : Host.Outcome State Fault Refusal :=
  issueWhen i (untilNone (State.tileBusy n))
    (fun b p s => s.eachMember b fun m s =>
      let s := s.raise b m.slot (fun l => hasBit m.sel l && poison s b p m l) 0x08 [0, 0, 0]
      let m := s.trim b.core m
      let t := s.maccFor b p i n m (f p)
      match s.group? b.core m.slot with
      | some g => t.tileWritten b.core m.slot n (fills fun l => g.active m p l && hasBit (t.executed b m) l)
      | none => t) s

/-- No element is poisoned. -/
def noPoison (_ : State) (_ : Bundle) (_ : Pfx) (_ : Member) (_ : Lane) : Bool := false

/-- R424: a lane reads a poisoned element of a tile. -/
def tilePoison (w t : Fin 16) (e : Ext) (s : State) (b : Bundle) (p : Pfx) (m : Member) (l : Lane) : Bool :=
  s.ecc.any fun x => match x with
    | .tile c k n i => c == b.core && k == m.slot && n == t.val && i % 64 / 2 == l.val && (match s.group? c k with
        | some g => g.active m p l
        | none => false) &&
      (let n := (extShape e).1 * (extShape e).2
       decide (4 * w.val ≤ i / 64) && decide (i / 64 < 4 * w.val + (if p.mod = 0 then (n + 1) / 2 else n)))
    | _ => false

/-- A group with a tile replaced. -/
def Group.setTile (g : Group) (n : Nat) (t : Tile) : Group := { g with tiles := g.tiles.zipIdx.map fun x => if x.2 = n then t else x.1 }

/-- R294: `macc.zero`. -/
def execMaccZero (t : Fin 16) (s : State) : Host.Outcome State Fault Refusal :=
  maccWord (maccInfo [0, 1] false false) t.val (fun p g _ _ => (g.setTile t.val { Tile.fresh with z32 := p.mod == 1 }, fun _ => false)) noPoison
    (fun act _ => (List.finRange 32).any act) s

/-- An exact value rounded into an integer format. -/
def Exact.integer (x : Exact) (f : IntFmt) (mode : RMode) (u : Nat) : Coded :=
  match x with
  | .nan => f.encode .nan mode u
  | .inf neg => f.encode (.inf neg) mode u
  | .zero neg => f.encode (.zero neg) mode u
  | .mag neg m => let n : Int := (m.round 0 mode neg u).1; f.clamp (if neg then -n else n)

/-- R294, R295: Round(value, format, mode) by MOD: 0 the tile's kind, 1 F16, 2 BF16, 3 E4M3, 4 E5M2, 5 Z8, 6 Z16. -/
def tileCode (z32 : Bool) (mod : Nat) (x : Acc) (mode : RMode) (u : Nat) : Coded :=
  match mod with
  | 0 => if z32 then x.exact.integer ⟨32, true⟩ mode u else x.round .f32 mode u
  | 1 => x.round .f16 mode u
  | 2 => x.round .bf16 mode u
  | 3 => x.round .e4m3 mode u
  | 4 => x.round .e5m2 mode u
  | 5 => x.exact.integer ⟨8, true⟩ mode u
  | _ => x.exact.integer ⟨16, true⟩ mode u

/-- R295: bytes of an element under MOD. -/
def tileWidth (mod : Nat) : Nat := if mod = 0 then 4 else if mod = 1 ∨ mod = 2 ∨ mod = 6 then 2 else 1

/-- R294: `macc.rd` and `macc.wr`. -/
def maccBlockInfo (e : Ext) (d : Fin 128) (w : Fin 16) (read : Bool) : WordInfo :=
  { maccInfo (if read then [0, 1, 2] else [0]) read read with
    cycles := blockCycles e 2, blocks := [Block.of e d], writesBlock := read
    tileRows := some (4 * w.val, (extShape e).1 * (extShape e).2) }

/-- The element of a tile. -/
def Tile.at_ (t : Tile) (r c : Nat) : Acc := t.elems[(⟨(64 * r + c) % 4096, Nat.mod_lt _ (by decide)⟩ : Fin 4096)]

/-- R294: the value of block position `o` in lane `l`, with CVX. Outside `xf`, MOD 0 copies the element's bits, so that the
payload of a NaN stays. -/
def Tile.readPos (t : Tile) (xf : Bool) (seed : BitVec 64) (p : Pfx) (row o : Nat) (l : Lane) : Word × Bool :=
  let code : Nat → Nat → Coded := fun r c => match t.at_ r c, p.mod, xf with
    | .nan w, 0, false => ⟨w.toNat, false⟩
    | x, _, _ => tileCode t.z32 p.mod x p.mode (srValue p.mode seed (64 * r + c))
  if p.mod = 0 then let x := code (row + o / 2) (2 * l.val + o % 2); (BitVec.ofNat 32 x.code, x.cvx)
  else
    let x := code (row + o) (2 * l.val)
    let y := code (row + o) (2 * l.val + 1)
    (BitVec.ofNat 32 (x.code + 2 ^ 16 * y.code), x.cvx || y.cvx)

/-- R294: `macc.rd`. -/
def execMaccRd (e : Ext) (d : Fin 128) (w t : Fin 16) (s : State) : Host.Outcome State Fault Refusal :=
  maccWord (maccBlockInfo e d w true) t.val (fun p g tile act =>
    (g.mapThreads fun l x =>
      if act l then x.setBlock g.ring (Block.of e d).regs fun o => (tile.readPos (g.contract == 0) g.seed p (4 * w.val) o l).1 else x,
     fun l => (List.range ((extShape e).1 * (extShape e).2)).any fun o => (tile.readPos (g.contract == 0) g.seed p (4 * w.val) o l).2))
    (tilePoison w t e) (fun _ _ => false) s

/-- R294: `macc.wr`. -/
def execMaccWr (e : Ext) (d : Fin 128) (w t : Fin 16) (s : State) : Host.Outcome State Fault Refusal :=
  maccWord (maccBlockInfo e d w false) t.val (fun _ g tile act =>
    let elems := Vector.ofFn fun i : Fin 4096 =>
      let r := i.val / 64
      let c := i.val % 64
      let l : Lane := ⟨c / 2, by omega⟩
      let o := 2 * (r - 4 * w.val) + c % 2
      if 4 * w.val ≤ r ∧ o < (extShape e).1 * (extShape e).2 ∧ act l = true then
        let x := (g.threads[l]).lane g.ring (d.val + posOff e o)
        if tile.z32 then .ofVal (.ofInt x.toInt) else .held x
      else tile.elems[i]
    (g.setTile t.val { tile with elems := elems }, fun _ => false)) noPoison
    (fun act i => let l : Lane := ⟨i % 64 / 2, by omega⟩
                  act l && decide (4 * w.val ≤ i / 64) && decide (2 * (i / 64 - 4 * w.val) + i % 2 < (extShape e).1 * (extShape e).2)) s

/-! ### Drains (R295 to R297) -/

/-- A drain form. -/
def drainInfo (d : Fin 128) : WordInfo where
  reads := if d.val ≤ 126 then regRun d.val 2 else []
  rule := { allowed := true, rnd := .rounding, mods := [0, 1, 2, 3, 4, 5, 6], zero := false }
  effect := true
  memory := true
  bad := if d.val ≤ 126 then none else some 0x02

/-- R296: the seg2 offset of element (r, c). -/
def drainOffset (d : ScratchDesc) (w r c : Nat) : Nat := rotate d.rot r (d.base + r * d.rp + c * w)

/-- R296: the class that a scratch drain fails with at issue. -/
def Group.drsCheck (g : Group) (d : ScratchDesc) (w : Nat) : Option Nat :=
  if d.tp ≠ 0 then some 0x02
  else if d.base % 4 ≠ 0 ∨ d.rp % 4 ≠ 0 then some 0x07
  else if (List.range 4096).any fun i => decide (segLimit g.seg[(2 : Fin 8)] < drainOffset d w (i / 64) (i % 64) + w) then some 0x06
  else none

/-- R297: the record index of element number 64r + c. -/
def drainIndex (x0 : Int) (pitch i : Nat) : Int := x0 + ((i / 64 * pitch + i % 64 : Nat) : Int)

/-- R188, R297: the exact offset of a record index, which may lie below 0. -/
def Rec.exactOffset (r : Rec) (n : Int) : Int :=
  let o : Int := (r.base : Int) + n * (r.step : Int)
  if o < 0 then o else (swizzle r.swz o.toNat : Nat)

/-- R297: the class that a record drain fails with at issue, and the detail. Each step covers all 4,096 elements, those out of
bounds among them. -/
def Group.drmCheck (g : Group) (record : Nat) (bits : BitVec 128) (x0 : Int) (pitch w : Nat) : Option (Nat × List Word) :=
  let r := Rec.of bits
  let ns := (List.range 4096).map (drainIndex x0 pitch)
  let offs := ns.map r.exactOffset
  let sg := g.segment r
  if !r.legal false || r.elem != w then some (0x02, [])
  else if (r.seg ≠ 0 ∧ r.seg ≠ 4) ∨ r.ro = true then some (0x06, vaDetail 0 0)
  else if offs.any (fun o => decide ((segLimit sg : Int) < o + (w : Int))) || segReadOnly sg then some (0x06, vaDetail 0 0)
  else match offs.find? fun o => o % (w : Int) != 0 with
    | some o => some (0x07, vaDetail 0 ((((segBase sg : Nat) : Int) + o) % 2 ^ 57).toNat)
    | none => match (if r.trapoob then ns.find? fun n => !(decide (0 ≤ n) && decide (n < (r.extent : Int))) else none) with
      | some n => some (0x04, [BitVec.ofNat 32 record, BitVec.ofInt 32 n])
      | none => none

/-- R295: the groups of the bundle for which a drain form acts. -/
def State.drainers (s : State) (b : Bundle) (p : Pfx) : List (Member × Group) :=
  (s.members b).filterMap fun m => match s.group? b.core m.slot with
    | some g => if (List.finRange 32).any (g.active m p) then some (m, g) else none
    | none => none

/-- R102, R293, R295: a drain form may issue. -/
def State.drainReady (s : State) (b : Bundle) (p : Pfx) (tile token : Nat) : Bool :=
  let ds := s.drainers b p
  decide (ds.length ≤ s.freeEntries b.core) && ds.all fun x =>
    !x.2.tileSigned tile && !(decide (16 ≤ x.2.pendingCount) && !x.2.pendingToken token)
      && !(s.loading b.core x.1.slot x.2).contains token

/-- R295: a drain for one group: `dst` gives its destination, or the trap of an issue check. -/
def State.drainFor (s : State) (b : Bundle) (p : Pfx) (tile token : Nat) (z : Bool)
    (dst : Group → DrainDst ⊕ (Nat × List Word)) (m : Member) : State :=
  match s.group? b.core m.slot with
  | none => s
  | some g =>
    let act := g.active m p
    let operand := [b.current, BitVec.ofNat 32 (b.idx + 1)]
    if !(List.finRange 32).any act then s
    else if g.tiles.length ≤ tile then s.raise b m.slot act 0x02 operand
    else if g.pendingToken token then s.raise b m.slot act 0x18 [BitVec.ofNat 32 token]
    else match dst g with
      | .inr e => s.raise b m.slot act e.1 (if e.1 = 0x02 then operand else e.2)
      | .inl x =>
        let s := s.releaseBy b 5
        let id := s.nextId
        let s := (s.modGroup b.core m.slot fun g => g.startToken token).addOp b m.slot (laneMask act)
          (.drain token tile z p.mod p.rnd g.seed x false [] (tileWidth p.mod) none none false 0)
        s.modEntries (quadOf b.core) fun es => es ++ [⟨id, b.core, m.slot, g.team, some tile, false, (s.cores[b.core]).cycles, .drain⟩]

/-- R102, R293, R295: the wait of a drain form. -/
def drainFree (tile token : Nat) (b : Bundle) (p : Pfx) (s : State) : State × Bool := (s, s.drainReady b p tile token)

/-- A drain form. -/
def drainWord (d : Fin 128) (tile token : Nat) (z : Bool) (dst : Pfx → Group → DrainDst ⊕ (Nat × List Word)) (s : State) :
    Host.Outcome State Fault Refusal :=
  issueWhen (drainInfo d) (drainFree tile token)
    (fun b p s => s.eachMember b fun m s => s.drainFor b p tile token z (dst p) m) s

/-- R296: the destination of `macc.drs`. -/
def drsDst (d : Fin 128) (p : Pfx) (g : Group) : DrainDst ⊕ (Nat × List Word) :=
  let lo := g.uni d.val
  let hi := g.uni (d.val + 1)
  match g.drsCheck (.of lo hi) (tileWidth p.mod) with
  | some c => .inr (c, vaDetail 0 0)
  | none => .inl (.scratch lo hi)

/-- R297: the destination of `macc.drm`. -/
def drmDst (d : Fin 128) (r : Fin 16) (p : Pfx) (g : Group) : DrainDst ⊕ (Nat × List Word) :=
  let bits := g.b[(⟨r.val, by omega⟩ : Fin 32)]
  let x0 := (g.uni d.val).toInt
  let pitch := (g.uni (d.val + 1)).toNat
  match g.drmCheck r.val bits x0 pitch (tileWidth p.mod) with
  | some e => .inr e
  | none => .inl (.record bits x0 pitch (g.segment (Rec.of bits)))

/-- R292: `macc.drs`. -/
def execMaccDrs (k : Fin 8) (d : Fin 128) (t : Fin 16) (s : State) : Host.Outcome State Fault Refusal :=
  drainWord d t.val (112 + k.val) false (drsDst d) s
/-- R292: `macc.drm`. -/
def execMaccDrm (k : Fin 8) (d : Fin 128) (r t : Fin 16) (s : State) : Host.Outcome State Fault Refusal :=
  drainWord d t.val (112 + k.val) false (drmDst d r) s
/-- R292: `macc.drs.z`. -/
def execMaccDrsZ (k : Fin 8) (d : Fin 128) (t : Fin 16) (s : State) : Host.Outcome State Fault Refusal :=
  drainWord d t.val (112 + k.val) true (drsDst d) s
/-- R292: `macc.drm.z`. -/
def execMaccDrmZ (k : Fin 8) (d : Fin 128) (r t : Fin 16) (s : State) : Host.Outcome State Fault Refusal :=
  drainWord d t.val (112 + k.val) true (drmDst d r) s

/-- R297: the destination drops element number `i`. -/
def DrainDst.drops (d : DrainDst) (i : Nat) : Bool :=
  match d with
  | .scratch _ _ => false
  | .record r x0 pitch _ => let n := drainIndex x0 pitch i; !(decide (0 ≤ n) && decide (n < ((Rec.of r).extent : Int)))

/-- R295: a drain that has read the tile. -/
def Tile.drained (t : Tile) (seed : BitVec 64) (fmt rnd : Nat) (dst : DrainDst) : List (Nat × Nat) × Bool × Nat :=
  let mode := (RMode.ofCode rnd).getD .rne
  let cs := (List.range 4096).map fun i => (tileCode t.z32 fmt (t.elems.toList.getD i .zero) mode (srValue mode seed i), i)
  let out := cs.filter fun c => !dst.drops c.2
  (out.map fun c => (c.1.code, c.2), cs.any fun c => c.1.cvx, 4096 - out.length)

/-- R288, R295, R226: a drain reads its tile, and its entry is free; the passes performed on the tile are joined with it. DEDUCED (log 89):
one that reads an element in error ends as one that meets ERR does, with class 0x08 (R424). -/
def execMatrixDrainStart (q : QuadId) (entry : Nat) (s : State) : Host.Outcome State Fault Refusal :=
  .next (match (s.quads[q]).entries.find? fun e => e.id == entry, s.op? entry with
    | some e, some o =>
      match o.work, e.tile with
      | .drain token n z fmt rnd seed dst false _ width _ _ _ _, some _ =>
        if !(s.quads[q]).eligible e || s.engineHeld e.core e.slot then s
        else match (s.group? e.core e.slot).bind fun g => g.tiles[n]? with
          | none => s
          | some t =>
            let s := (s.modEntries q fun es => es.filter fun x => x.id != entry).modOp entry fun o => { o with did := o.did.join t.view }
            if t.err = 0 ∧ s.tileBad e.core e.slot n (fun _ => true) = true then
              s.modOp entry fun o => { o with work := .drain token n z fmt rnd seed dst true [] width none (some 0x08) false 0 }
            else if t.err ≠ 0 then
              (s.modOp entry fun o => { o with work := .drain token n z fmt rnd seed dst true [] width none (some t.err) t.cvx 0 }).modTile
                e.core e.slot n fun t => { t with err := 0, cvx := false }
            else
              let r := t.drained seed fmt rnd dst
              (s.modOp entry fun o => { o with work := .drain token n z fmt rnd seed dst true r.1 width none none (t.cvx || r.2.1) r.2.2 }).modTile
                e.core e.slot n fun t => { t with cvx := false, elems := if z then Vector.replicate 4096 .zero else t.elems }
      | _, _ => s
    | _, _ => s)

/-- How the write of an element ended. -/
inductive Written where
  | done | page (va : Nat) | lost
  deriving DecidableEq, Repr

/-- R296, R297: a drain writes one element. -/
def State.drainWrite (s : State) (o : Op) (ctx : Fin 64) (dst : DrainDst) (width : Nat) (x : Nat × Nat) : State × Written :=
  match dst with
  | .scratch lo hi =>
    match (s.group? o.core o.slot).bind fun g => s.team? g.team with
    | none => (s, .done)
    | some t =>
      let a := drainOffset (.of lo hi) width (x.2 / 64) (x.2 % 64)
      (s.opWrite o.id o.core (((List.range width).map fun i => s.scratchTarget t (a + i)).zip (leBytes width x.1)) false true, .done)
  | .record r x0 pitch sg =>
    let rec_ := Rec.of r
    let va := (segBase sg + rec_.offset (drainIndex x0 pitch x.2).toNat) % 2 ^ 57
    let (s, w) := s.translate (.core o.core) ctx (va / 128 * 128) true
    match w with
    | .page => (s, .page va)
    | .failure => (s, .lost)
    | .ok pa key =>
      if s.peerRefuses pa then (s, .lost)
      else
        let at_ := pa + va % 128
        ((s.touch (corePort o.core) key at_ rec_.comp true).opWrite o.id o.core
          (((List.range width).map fun i => Target.phys (at_ + i) key).zip (leBytes width x.1)) rec_.comp true, .done)

/-- R295, R297: the drain writes its elements in order until it ends or waits. -/
def State.drainGo (s : State) (o : Op) (ctx : Fin 64) (dst : DrainDst) (width : Nat) : List (Nat × Nat) → State × List (Nat × Nat) × Written
  | [] => (s, [], .done)
  | x :: rest =>
    let r := s.drainWrite o ctx dst width x
    match r.2 with
    | .done => r.1.drainGo o ctx dst width rest
    | w => (r.1, x :: rest, w)

/-- R295, R297: a drain writes its elements and completes, or waits for a page. -/
def execMatrixDrainComplete (_ : QuadId) (entry : Nat) (s : State) : Host.Outcome State Fault Refusal :=
  .next (match s.op? entry with
    | none => s
    | some o => match o.work, s.group? o.core o.slot with
      | .drain token n z fmt rnd seed dst true out width none fault cvx dropped, some g =>
        if g.engineHeld then s else
        let finish := fun (s : State) (fault : Option Nat) =>
          (s.endTokenOf ((s.op? entry).getD o) token
            (statusWord 2 (match fault with | some c => c | none => min dropped 65535) fault.isSome false cvx) (fault.isNone && decide (dropped ≠ 0))).dropOp entry
        match fault with
        | some c => finish s (some c)
        | none =>
          let r := s.drainGo o g.ctx dst width out
          match r.2.2 with
          | .done => finish r.1 none
          | .lost => finish r.1 (some 0x06)
          | .page va =>
            let id := r.1.nextId
            (r.1.addFault g.ctx o.core o.slot 0 va 4).modOp entry fun o =>
              { o with work := .drain token n z fmt rnd seed dst true r.2.1 width (some id) none cvx dropped }
      | _, _ => s)

end Sys2Proof.Machine
end

