-- ==== Sys2Proof/Machine/MatrixVector.lean ====
section
/-! DEFINITION. Matrix-vector calls and the end of a pass (R289, R300 to R314). -/

namespace Sys2Proof.Machine

/-! ### Descriptors and layouts -/

/-- R302: the fields of a descriptor. -/
structure MvxDesc where
  rnd  : Nat
  nv   : Nat
  vh   : Bool
  orec : Fin 32
  vsrc : Fin 32
  mrec : Fin 32
  row0 : Nat
  k    : Nat
  nr   : Nat
  bad  : Bool
  deriving DecidableEq, Repr

/-- R302, R305 step 1: reads a descriptor. -/
def MvxDesc.of (d : Vector Word 4) : MvxDesc :=
  let x := (d[0]).toNat
  let k := (d[2]).toNat
  { rnd := fieldOf x 19 3, nv := fieldOf x 16 3, vh := x.testBit 15
    orec := ⟨fieldOf x 10 5, Nat.mod_lt _ (by decide)⟩
    vsrc := ⟨fieldOf x 5 5, Nat.mod_lt _ (by decide)⟩
    mrec := ⟨fieldOf x 0 5, Nat.mod_lt _ (by decide)⟩
    row0 := (d[1]).toNat, k := k, nr := fieldOf (d[3]).toNat 0 16
    bad := fieldOf x 22 10 != 0 || fieldOf (d[3]).toNat 16 16 != 0 || decide (6 ≤ fieldOf x 19 3) || k == 0 || decide (2 ^ 20 < k) }

/-- R304: the packed bytes of K elements. -/
def packedBytes (g : Tag) (k : Nat) : Nat :=
  match g.mx, g.scalar with
  | some f, _ => k / 32 * f.bytes
  | none, some f => (k * f.bits + 7) / 8
  | none, none => if g.isAq then k / 1024 * aqBytes g.aqWidth else (k + 4) / 5

/-- R304: K suits the format. -/
def kFits (g : Tag) (k : Nat) : Bool := if g.mx.isSome then k % 32 == 0 else if g.isAq then k % 1024 == 0 else true

/-- R304: the smallest power of two that is at least `n`, from `p` up. -/
def pow2From : Nat → Nat → Nat → Nat
  | 0, p, _ => p
  | fuel + 1, p, n => if n ≤ p then p else pow2From fuel (2 * p) n

/-- R304: RP. -/
def rowPitch (lb : Nat) : Nat := pow2From 32 128 lb

/-- R304: of a run of packed elements from number `a` up to `b`: its first byte, its bytes, and the elements of its first unit that come
before `a`. -/
def packedPart (g : Tag) (k a b : Nat) : Nat × Nat × Nat :=
  let u := g.unit
  let first := a / u.1 * u.2
  (first, min ((min b k + u.1 - 1) / u.1 * u.2) (packedBytes g k) - first, a % u.1)

/-- R304, R345: the values of K packed elements, and CVX. -/
def decodePacked (g : Tag) (k : Nat) (bytes : List Byte) : List Val × Bool :=
  let u := g.unit
  let us := (List.range ((k + u.1 - 1) / u.1)).map fun i =>
    let bs := (bytes.drop (i * u.2)).take u.2
    decodeUnit g.code (bs ++ List.replicate (u.2 - bs.length) 0)
  ((us.flatMap (·.1)).take k, us.any (·.2))

/-- R303: the output tags. -/
def mvxOut (tag : Nat) : Option Scalar :=
  match Tag.ofCode tag with
  | some .f32 | some .f16 | some .bf16 | some .e4m3 | some .e5m2 | some .z8 | some .z16 | some .z32 => (Tag.ofCode tag).bind Tag.scalar
  | _ => none

/-- R303: SIZE, STRIDE and SWZ are zero. -/
def Rec.flat (r : Rec) : Bool := r.size == 0 && r.stride == 0 && r.swz == 0

/-- A span of a call: `rows` runs of `len` bytes, `pitch` apart, from `first`. -/
structure Span where
  record : Nat
  bits   : BitVec 128
  first  : Nat
  pitch  : Nat
  len    : Nat
  rows   : Nat

/-- One past the last byte of a span. -/
def Span.stop (x : Span) : Nat := x.first + (x.rows - 1) * x.pitch + x.len

/-- The lowest byte of a span that lies at or beyond EXTENT. -/
def Span.beyond (x : Span) : Option Nat :=
  let e := (Rec.of x.bits).extent
  if x.stop ≤ e then none
  else
    let i := if e < x.first + x.len then 0 else (e - x.first - x.len) / x.pitch + 1
    some (max e (x.first + i * x.pitch))

/-- What a call works with, once its descriptor and records are known. -/
structure MvxPlan where
  desc : MvxDesc
  a    : Tag
  b    : Tag
  out  : Scalar
  lb   : Nat
  vb   : Nat
  rp   : Nat
  w    : Nat

/-- R304: the layout under a vector tag. -/
def mvxPlan (d : MvxDesc) (m o : BitVec 128) (vtag : Nat) : Option MvxPlan :=
  match Tag.ofCode (Rec.of m).tag, Tag.ofCode vtag, mvxOut (Rec.of o).tag with
  | some a, some b, some f =>
    let lb := packedBytes a d.k
    some ⟨d, a, b, f, lb, packedBytes b d.k, rowPitch lb, f.bits / 8⟩
  | _, _, _ => none

/-- The three spans; the vector's only when it comes through a record. -/
def MvxPlan.spans (p : MvxPlan) (m v o : BitVec 128) : List Span :=
  let d := p.desc
  [⟨d.mrec.val, m, d.row0 * p.rp, p.rp, p.lb, d.nr + 1⟩]
  ++ (if d.vh then [] else [⟨d.vsrc.val, v, 0, 1, (d.nv + 1) * p.vb, 1⟩])
  ++ [⟨d.orec.val, o, 0, 1, (d.nv + 1) * (d.nr + 1) * p.w, 1⟩]

/-! ### Issue (R300 to R305, R308) -/

/-- R305: the first check that fails: a class with its detail (none for the failing word), or the plan. -/
def Group.mvxCheck (g : Group) (d : MvxDesc) (h : Option Handle) (flow : Option Flow) (m v o : BitVec 128) :
    MvxPlan ⊕ (Nat × List Word) :=
  let mr := Rec.of m
  let vr := Rec.of v
  let or_ := Rec.of o
  let known := match h with | some h => h.declared | none => false
  let vtag := if d.vh then (match known, flow with | true, some f => f.decl.tag | _, _ => Tag.raw.code) else vr.tag
  let recs := [mr] ++ (if d.vh then [] else [vr]) ++ [or_]
  let seg := fun r : Rec => g.segment r
  let handleTrap := [BitVec.ofNat 32 d.vsrc.val, (h.map Handle.status).getD 0]
  if d.bad then .inr (0x02, [])
  else if !(recs.all fun r => r.legal false && r.flat) || !mr.rowhome || (mvxOut or_.tag).isNone then .inr (0x02, [])
  else
    let segBad := mr.seg != 0 || (!d.vh && vr.seg != 0 && vr.seg != 4) || (or_.seg != 0 && or_.seg != 4) || or_.ro || segReadOnly (seg or_)
    match mvxPlan d m o vtag with
    | none => .inr (0x02, [])
    | some p =>
      -- without a declared handle there is no vector tag: the matrix's own conditions are left
      let unknown := d.vh && !known
      if (if unknown then !Tag.all.any (pairValid p.a) else !pairValid p.a p.b || !kFits p.b d.k) || !kFits p.a d.k || decide (65536 < p.rp) then
        .inr (0x02, [])
      else if segBad then .inr (0x06, vaDetail 0 0)
      else if d.vh && (match h with | some h => !h.declared || h.out || h.st != .full | none => true) then .inr (0x0F, handleTrap)
      else if d.vh && (match flow with | some f => decide (f.decl.tile < (d.nv + 1) * p.vb) | none => true) then .inr (0x02, [])
      else if mr.base % p.rp ≠ 0 then .inr (0x07, vaDetail 0 ((segBase (seg mr) + mr.base) % 2 ^ 57))
      else if or_.base % p.w ≠ 0 then .inr (0x07, vaDetail 0 ((segBase (seg or_) + or_.base) % 2 ^ 57))
      else
        let spans := p.spans m v o
        match spans.findSome? fun x => if (Rec.of x.bits).trapoob then x.beyond.map fun n => (x.record, n) else none with
        | some t => .inr (0x04, [BitVec.ofNat 32 t.1, BitVec.ofNat 32 t.2])
        | none =>
          if spans.any fun x => decide (segLimit (seg (Rec.of x.bits)) < (Rec.of x.bits).base + x.stop) then .inr (0x06, vaDetail 0 0)
          else .inl p

/-- The virtual address of a byte of a record under a segment. -/
def recordVa (bits sg : BitVec 128) (i : Nat) : Nat := (segBase sg + (Rec.of bits).base + i) % 2 ^ 57

/-- R309: the steering word of a context's tenant. -/
def State.steerOf (s : State) (ctx : Fin 64) : Word := match s.tenantOf ctx with
  | some n => s.board.steer[n]
  | none => steerReset

/-- R310: every page of some rows lies in a row-home region. A page without a translation is met when its rows
are read (R313) and decides nothing here (log 26). -/
def State.rowHome (s : State) (c : CoreId) (ctx : Fin 64) (p : MvxPlan) (m sg : BitVec 128) (rows : List Nat) : State × Bool :=
  let pages := (rows.flatMap fun i =>
    let va := recordVa m sg ((p.desc.row0 + i) * p.rp)
    [va / 2 ^ 16, (va + p.lb - 1) / 2 ^ 16]).eraseDups
  pages.foldl (fun (acc : State × Bool) q =>
    let r := acc.1.translate (.board (chipOf c)) ctx (q * 2 ^ 16) false
    match r.2 with
    | .ok pa _ => (r.1, acc.2 && decide (pa < hbmSize) && (r.1.regionOf pa).getLsbD 20)
    | _ => (r.1, acc.2)) (s, true)

/-- The forms of MVX. -/
inductive MvxForm where
  | guidon | core | bank
  deriving DecidableEq, Repr

/-- R310: the path of a call; none when a forced bank path is not open to it. -/
def State.choosePath (s : State) (form : MvxForm) (c : CoreId) (ctx : Fin 64) (steer : Word) (p : MvxPlan) (m sg : BitVec 128)
    (rows : List Nat) : State × Option Bool :=
  let w := steer.toNat
  match form with
  | .core => (s, some false)
  | .bank =>
    let r := s.rowHome c ctx p m sg rows
    (r.1, if r.2 && !w.testBit 21 then some true else none)
  | .guidon =>
    let r := s.rowHome c ctx p m sg rows
    if w.testBit 20 || !r.2 || decide (min (fieldOf w 0 4) 8 < p.desc.nv + 1) then (r.1, some false)
    else ({ r.1 with fresh := r.1.fresh + 1 }, some (Config.guidon r.1.fresh))

/-- MVX (R300, R301). -/
def mvxInfo (d a : Fin 128) : WordInfo where
  uniform := true
  reads := if a.val ≤ 124 then regRun a.val 4 else []
  token := some d.val
  effect := true
  memory := true
  bad := if a.val ≤ 124 then none else some 0x02

/-- R301, R305, R308: an MVX for one group. -/
def State.startCall (s : State) (b : Bundle) (m : Member) (g : Group) (form : MvxForm) (d a : Fin 128) : State :=
  let words : Vector Word 4 := #v[g.uni a.val, g.uni (a.val + 1), g.uni (a.val + 2), g.uni (a.val + 3)]
  let x := MvxDesc.of words
  let mr := g.b[x.mrec]
  let vr := g.b[x.vsrc]
  let or_ := g.b[x.orec]
  let th := if x.vh then s.handleOf g x.vsrc else none
  let flow := th.bind fun q => s.flow q.1 q.2
  match g.mvxCheck x (th.map (·.2)) flow mr vr or_ with
  | .inr e => s.raise b m.slot (fun l => hasBit m.sel l) e.1 (if e.1 = 0x02 then [b.current, BitVec.ofNat 32 (b.idx + 1)] else e.2)
  | .inl p =>
    let s := s.releaseBy b 5
    let sg := g.segment (Rec.of mr)
    let (s, path) := s.choosePath form b.core g.ctx (s.steerOf g.ctx) p mr sg (List.range (x.nr + 1))
    let call : Call :=
      { token := d.val, desc := words, mrec := mr, vrec := vr, orec := or_, seg0 := g.seg[(0 : Fin 8)], seg4 := g.seg[(4 : Fin 8)]
        ctx := g.ctx, contract := g.contract, seed := g.seed, steer := s.steerOf g.ctx
        vbuf := if x.vh then some x.vsrc else none, vecs := none
        vtag := p.b.code, bank := path.getD false, banked := false, todo := List.range (x.nr + 1), partials := [], wait := none, fault := if path.isNone then some 0x02 else none
        poison := false, cvx := false, oob := (p.spans mr vr or_).any fun q => q.beyond.isSome, dropped := 0 }
    (s.modGroup b.core m.slot fun g => g.startToken d.val).addOp b m.slot m.sel (.mvx call)

/-- R300. -/
def execMvx (d a : Fin 128) (s : State) : Host.Outcome State Fault Refusal :=
  uniWord (mvxInfo d a) (fun b m g s => s.startCall b m g .guidon d a) s
/-- R300. -/
def execMvxC (d a : Fin 128) (s : State) : Host.Outcome State Fault Refusal :=
  uniWord (mvxInfo d a) (fun b m g s => s.startCall b m g .core d a) s
/-- R300. -/
def execMvxB (d a : Fin 128) (s : State) : Host.Outcome State Fault Refusal :=
  uniWord (mvxInfo d a) (fun b m g s => s.startCall b m g .bank d a) s

/-! ### Rows (R306, R311 to R313) -/

/-- The segment of a call's record. -/
def Call.seg (c : Call) (bits : BitVec 128) : BitVec 128 := if (Rec.of bits).seg = 4 then c.seg4 else c.seg0

/-- The plan of a call. -/
def Call.plan (c : Call) : Option MvxPlan := mvxPlan (MvxDesc.of c.desc) c.mrec c.orec c.vtag

/-- R357: who translates for a call. -/
def Call.agent (c : Call) (core : CoreId) : Agent := if c.bank then .board (chipOf core) else .core core

/-- R311, R312: where a call's reads enter the caches: through the chiplet's L2, or at the Board, whose directory writes back the dirty
copies of the lines that the bank units read. -/
def Call.port (c : Call) (core : CoreId) : Port := if c.bank then .board else corePort core

/-- R311, R312: where a call's outputs are written. -/
def Call.outPort (c : Call) (core : CoreId) : Port := if c.bank then .home else corePort core

/-- What reading a run of bytes gives. -/
inductive Fetched where
  | bytes (bs : List Byte) (poison : Bool)
  | page (va : Nat)
  | lost

/-- R306, R313: `n` bytes of a record of a call from byte `first` on; those beyond EXTENT read as zero. -/
def State.fetch (s : State) (op : Nat) (core : CoreId) (c : Call) (bits : BitVec 128) (first n : Nat) : State × Fetched :=
  let sg := c.seg bits
  let r := Rec.of bits
  let live := min n (r.extent - first)
  let va := fun i => recordVa bits sg (first + i)
  let lines := ((List.range live).map fun i => va i / 128).eraseDups
  let (s, walks) := s.translateLines (c.agent core) c.ctx false lines
  match walks.find? fun w => match w.2 with | .ok pa _ => s.peerRefuses pa | .failure => true | .page => false with
  | some _ => (s, .lost)
  | none => match walks.find? fun w => w.2 == .page with
    | some w => (s, .page (w.1 * 128))
    | none =>
      let ts := (List.range live).map fun i => match lookupLine walks (va i) with
        | .ok pa key => Target.phys (pa + va i % 128) key
        | _ => Target.phys 0 none
      let bad := ts.any s.poisonedTarget
      let got := (s.touchAll (c.port core) r.comp false ts).opRead op ts
      (got.1, .bytes (got.2 ++ List.replicate (n - live) 0) bad)

/-- R306: Round(value, OTAG, RND). -/
def outCode (f : Scalar) (x : Acc) (mode : RMode) (u : Nat) : Coded :=
  match f with
  | .float g => x.round g mode u
  | .int g => x.exact.integer g mode u
  | _ => ⟨0, false⟩

/-- R303, R424: a handle-fed call reads its vectors from the handle's buffer before its first row. -/
def State.readVectors (s : State) (o : Op) (c : Call) : State × Call :=
  match c.vbuf, c.plan, (s.group? o.core o.slot).bind fun g => s.team? g.team with
  | some n, some p, some t =>
    let ts := (List.range ((p.desc.nv + 1) * p.vb)).map fun i => Target.scratch t.core (t.base + t.handles[n].buf + i)
    let r := s.opRead o.id ts
    (r.1, { c with vbuf := none, vecs := some (r.2.zip (ts.map s.poisonedTarget)) })
  | _, _, _ => (s, c)

/-- R306, R311, R313: writes output element (j, i). -/
def State.mvxStore (s : State) (op : Nat) (core : CoreId) (c : Call) (p : MvxPlan) (j i code : Nat) (poison : Bool) : State × Written :=
  let off := (j * (p.desc.nr + 1) + i) * p.w
  let va := recordVa c.orec (c.seg c.orec) off
  let (s, w) := s.translate (c.agent core) c.ctx (va / 128 * 128) true
  match w with
  | .page => (s, .page va)
  | .failure => (s, .lost)
  | .ok pa key =>
    if s.peerRefuses pa then (s, .lost)
    else
      let at_ := pa + va % 128
      let comp := (Rec.of c.orec).comp
      let s := (s.touch (c.outPort core) key at_ comp true).opWrite op core (((List.range p.w).map fun x => Target.phys (at_ + x) key).zip (leBytes p.w code)) comp
      (if poison then s.markPoison (s.locOf at_) else s, .done)

/-- Some bytes of one vector. -/
def State.mvxVector (s : State) (op : Nat) (core : CoreId) (c : Call) (p : MvxPlan) (j first n : Nat) : State × Fetched :=
  match c.vecs with
  | some bs =>
    let xs := (bs.drop (j * p.vb + first)).take n
    (s, .bytes (xs.map (·.1)) (xs.any (·.2)))
  | none => s.fetch op core c c.vrec (j * p.vb + first) n

/-- R304: the values of a run of elements read by `get` from its bytes, with CVX and poison. -/
def readPart (get : Nat → Nat → State × Fetched) (g : Tag) (k a b : Nat) : State × Written × List Val × Bool × Bool :=
  let q := packedPart g k a b
  let r := get q.1 q.2.1
  match r.2 with
  | .lost => (r.1, .lost, [], false, false)
  | .page va => (r.1, .page va, [], false, false)
  | .bytes bs poison =>
    let d := decodePacked g (q.2.2 + (min b k - a)) bs
    (r.1, .done, d.1.drop q.2.2, d.2, poison)

/-- The accumulators of a row before its first chunk. -/
def MvxPlan.fresh (p : MvxPlan) : List (Acc × Bool) := List.replicate (p.desc.nv + 1) (.zero, false)

/-- R306, R314: where a row of the call stands: its next chunk, and for each vector the accumulator and whether poison was met. -/
def Call.partOf (c : Call) (p : MvxPlan) (i : Nat) : Nat × List (Acc × Bool) :=
  ((c.partials.find? fun x => x.1 == i).map (·.2)).getD (0, p.fresh)

/-- R39, R306: the sums of row elements from `a` up to `b` for the vectors from number `j` on, given their accumulators. -/
def State.mvxSums (s : State) (op : Nat) (core : CoreId) (p : MvxPlan) (m : List Val) (bad : Bool) (a b : Nat) :
    Nat → List (Acc × Bool) → Call → State × Call × List (Acc × Bool) × Written
  | _, [], c => (s, c, [], .done)
  | j, x :: rest, c =>
    let r := readPart (fun first n => s.mvxVector op core c p j first n) p.b p.desc.k a b
    match r.2.1 with
    | .done =>
      let y := sumRule (c.contract == 0) (p.a.isInteger && p.b.isInteger) x.1 ((m.zip r.2.2.1).map fun q => q.1.mul q.2)
      let z := r.1.mvxSums op core p m bad a b (j + 1) rest { c with cvx := c.cvx || r.2.2.2.1 || y.2 }
      (z.1, z.2.1, (y.1, x.2 || bad || r.2.2.2.2) :: z.2.2.1, z.2.2.2)
    | w => (r.1, c, [], w)

/-- R306: a row's sums go on from element `a` up to `b`. -/
def State.mvxSpan (s : State) (op : Nat) (core : CoreId) (c : Call) (p : MvxPlan) (i a b : Nat) (accs : List (Acc × Bool)) :
    State × Call × List (Acc × Bool) × Written :=
  let r := readPart (fun first n => s.fetch op core c c.mrec ((p.desc.row0 + i) * p.rp + first) n) p.a p.desc.k a b
  match r.2.1 with
  | .done => r.1.mvxSums op core p r.2.2.1 r.2.2.2.2 a b 0 accs { c with cvx := c.cvx || r.2.2.2.1 }
  | w => (r.1, c, [], w)

/-- R306: the output elements of a row for the vectors from number `j` on. The call carries CVX, poison and the dropped count. -/
def State.mvxOutputs (s : State) (op : Nat) (core : CoreId) (p : MvxPlan) (i : Nat) : Nat → List (Acc × Bool) → Call → State × Call × Written
  | _, [], c => (s, c, .done)
  | j, x :: rest, c =>
    let mode := (RMode.ofCode p.desc.rnd).getD .rne
    let y := outCode p.out x.1 mode (srValue mode c.seed (65536 * j + i))
    let c1 := { c with cvx := c.cvx || y.cvx, poison := c.poison || x.2 }
    if (Rec.of c.orec).extent < (j * (p.desc.nr + 1) + i + 1) * p.w then
      s.mvxOutputs op core p i (j + 1) rest { c1 with dropped := c1.dropped + 1 }
    else
      let w := s.mvxStore op core c p j i y.code x.2
      match w.2 with
      | .done => w.1.mvxOutputs op core p i (j + 1) rest c1
      | z => (w.1, c, z)

/-- R306: a row is computed: its outputs are written. -/
def State.mvxFinish (s : State) (op : Nat) (core : CoreId) (p : MvxPlan) (i : Nat) (accs : List (Acc × Bool)) (c : Call) : State × Call × Written :=
  let q := s.mvxOutputs op core p i 0 accs c
  match q.2.2 with
  | .done => (q.1, { q.2.1 with banked := c.banked || c.bank, partials := c.partials.filter (fun x => x.1 != i), todo := c.todo.filter (· != i) }, .done)
  | x => (q.1, c, x)

/-- R306: row `i` of a call, from its next chunk on. A row that meets a page fault is taken up again where it stood. -/
def State.mvxRow (s : State) (op : Nat) (core : CoreId) (c : Call) (p : MvxPlan) (i : Nat) : State × Call × Written :=
  let at_ := c.partOf p i
  let r := s.mvxSpan op core c p i (32 * at_.1) p.desc.k at_.2
  match r.2.2.2 with
  | .done => match r.1.mvxFinish op core p i r.2.2.1 { r.2.1 with partials := c.partials } with
    | (s, v, .done) => (s, v, .done)
    | (s, _, x) => (s, c, x)
  | x => (r.1, c, x)

/-- Rows of a call in ascending order, until they end or one cannot be finished; answers how many ended. -/
def State.mvxRows (s : State) (op : Nat) (core : CoreId) (p : MvxPlan) : List Nat → Call → Nat → State × Call × Nat × Written
  | [], c, n => (s, c, n, .done)
  | i :: rest, c, n =>
    let r := s.mvxRow op core c p i
    match r.2.2 with
    | .done => r.1.mvxRows op core p rest r.2.1 (n + 1)
    | x => (r.1, r.2.1, n, x)

/-- R306, R314: the next chunk of row `i` of a call: after the last one the row's outputs are written. Answers whether the row ended. -/
def State.mvxChunk (s : State) (op : Nat) (core : CoreId) (c : Call) (p : MvxPlan) (i : Nat) : State × Call × Bool × Written :=
  let at_ := c.partOf p i
  if p.desc.k ≤ 32 * (at_.1 + 1) then let r := s.mvxRow op core c p i; (r.1, r.2.1, r.2.2 == .done, r.2.2)
  else
    let r := s.mvxSpan op core c p i (32 * at_.1) (32 * (at_.1 + 1)) at_.2
    match r.2.2.2 with
    | .done => (r.1, { r.2.1 with partials := c.partials.filter (fun x => x.1 != i) ++ [(i, at_.1 + 1, r.2.2.1)] }, false, .done)
    | x => (r.1, c, false, x)

/-- R313: how a call goes on after its rows: the fault entry that it waits for, or its failure. -/
def State.mvxAfter (s : State) (o : Op) (c : Call) : Written → State
  | .done => s.modOp o.id fun o => { o with work := .mvx c }
  | .lost => s.modOp o.id fun o => { o with work := .mvx { c with fault := some 0x06 } }
  | .page va =>
    let id := s.nextId
    (s.addFault c.ctx o.core o.slot 0 va 4).modOp o.id fun o => { o with work := .mvx { c with wait := some id } }

/-- The entries of a call. -/
def State.callEntries (s : State) (c : CoreId) (op : Nat) : List Entry :=
  (s.quads[quadOf c]).entries.filter fun e => match e.job with
    | .rows x _ => x == op
    | _ => false

/-- R312: the first rows of some ascending rows that follow one another, at most `n`, and the others. -/
def takeRows : Nat → List Nat → List Nat × List Nat
  | 0, rows => ([], rows)
  | _, [] => ([], [])
  | _, [i] => ([i], [])
  | n + 1, i :: j :: rest => if j = i + 1 then let r := takeRows n (j :: rest); (i :: r.1, r.2) else ([i], j :: rest)

/-- R312: the call posts the entry of its next rows. -/
def execMvxEntryPost (op : Nat) (s : State) : Host.Outcome State Fault Refusal :=
  .next (match s.op? op with
    | some o => match o.work with
      | .mvx c => match s.group? o.core o.slot with
        | some g =>
          if !c.bank && !c.todo.isEmpty && !g.engineHeld && c.fault.isNone && decide ((s.callEntries o.core op).length < 4) && decide (0 < s.freeEntries o.core) then
            (s.postEntry o.core o.slot g.team none (.rows op (takeRows 64 c.todo).1)).modOp op fun o => { o with work := .mvx { c with todo := (takeRows 64 c.todo).2 } }
          else s
        | none => s
      | _ => s
    | none => s)

/-- R312: the rows of an entry of a call that are left; the entry goes once it has none. -/
def State.setRows (s : State) (q : QuadId) (id op : Nat) (rows : List Nat) : State :=
  s.modEntries q fun es => if rows.isEmpty then es.filter fun x => x.id != id else es.map fun x => if x.id = id then { x with job := .rows op rows } else x

/-- R312: the rows of an entry of a call. -/
def State.runRows (s : State) (q : QuadId) (e : Entry) (op : Nat) (rows : List Nat) : State :=
  match s.op? op with
  | none => s.setRows q e.id op []
  | some o => match o.work with
    | .mvx c => match c.plan with
      | none => s.setRows q e.id op []
      | some p =>
        if c.wait.isSome then s
        else if c.fault.isSome then s.setRows q e.id op []
        else
          let v := s.readVectors o c
          let r := v.1.mvxRows op o.core p rows v.2 0
          (r.1.mvxAfter o r.2.1 r.2.2.2).setRows q e.id op (match r.2.2.2 with | .page _ => rows.drop r.2.2.1 | _ => [])
    | _ => s.setRows q e.id op []

/-- R289, R312: a running pass ends. The rows of a call that a pre-emption holds are not started (R314). -/
def execPassComplete (q : QuadId) (entry : Nat) (s : State) : Host.Outcome State Fault Refusal :=
  .next (match (s.quads[q]).entries.find? fun e => e.id == entry && e.started with
    | none => s
    | some e => match e.job with
      | .drain => s
      | .pass var mcfg a b contrib view => (s.runPass e var mcfg a b contrib view).modEntries q fun es => es.filter fun x => x.id != entry
      | .rows op rows =>
        if s.engineHeld e.core e.slot then s.modEntries q fun es => es.map fun x => if x.id = entry then { x with started := false } else x
        else s.runRows q e op rows)

/-- R306, R314: one of a call's rows gets on by a chunk: one of its rows on the bank path, or of its running entry. -/
def State.chunk (s : State) (op row : Nat) : State :=
  match s.op? op with
  | none => s
  | some o => match o.work with
    | .mvx c =>
      let entry := (s.callEntries o.core op).find? fun e => e.started && match e.job with | .rows _ rows => rows.contains row | _ => false
      match c.plan with
      | some p =>
        if c.fault.isSome || c.wait.isSome || s.engineHeld o.core o.slot || !(entry.isSome || c.bank && c.todo.contains row) then s
        else
          let v := s.readVectors o c
          let r := v.1.mvxChunk op o.core v.2 p row
          let s := r.1.mvxAfter o r.2.1 r.2.2.2
          match entry with
          | some e => match e.job with
            | .rows _ rows => if r.2.2.2 = .lost then s.setRows (quadOf o.core) e.id op [] else if r.2.2.1 then s.setRows (quadOf o.core) e.id op (rows.filter (· != row)) else s
            | _ => s
          | none => s
      | none => s
    | _ => s

/-- R307: the status word of a call. -/
def Call.status (c : Call) : Word :=
  statusWord 1 (match c.fault with
    | some cls => cls
    | none => min c.dropped 16383 * 4 + c.oob.toNat * 2 + c.banked.toNat) c.fault.isSome c.poison c.cvx

/-- R307: the call completes; a bank-path call computes its rows first. -/
def execMvxComplete (op : Nat) (s : State) : Host.Outcome State Fault Refusal :=
  .next (match s.op? op with
    | none => s
    | some o => if s.engineHeld o.core o.slot then s else match o.work with
      | .mvx c => match c.plan with
        | none => s
        | some p =>
          let (s, c) :=
            if c.bank && c.fault.isNone && c.wait.isNone then
              let v := s.readVectors o c
              let r := v.1.mvxRows op o.core p c.todo v.2 0
              (r.1.mvxAfter o r.2.1 r.2.2.2, match r.2.2.2 with
                | .done => r.2.1
                | .lost => { r.2.1 with fault := some 0x06 }
                | .page _ => { r.2.1 with wait := some 0 })
            else (s, c)
          if c.wait.isNone && (c.fault.isSome || (c.todo.isEmpty && (s.callEntries o.core op).isEmpty)) then
            ((s.endTokenOf ((s.op? op).getD o) c.token c.status).modEntries (quadOf o.core) fun es => es.filter fun e => match e.job with
              | .rows x _ => x != op
              | _ => true).dropOp op
          else s
      | _ => s)

/-! ### Paths taken again (R310, R313, R314) -/

/-- The form of the word that issued a call. -/
def Op.form (o : Op) : MvxForm := if fieldOf o.word.toNat 7 4 = 1 then .core else if fieldOf o.word.toNat 7 4 = 2 then .bank else .guidon

/-- R310, R314: a call that resumes: its entries' rows are among those still to be computed, and the path of all of them is chosen again
under the steering word that the call was issued with. A forced bank path whose rows are no longer row-home goes on on the core path, as
R313 has it. -/
def State.rechoose (s : State) (c : CoreId) (op : Nat) : State :=
  match s.op? op with
  | none => s
  | some o => match o.work with
    | .mvx x => match x.plan with
      | none => s
      | some p =>
        let held := (s.callEntries c op).flatMap fun e => match e.job with | .rows _ rows => rows | _ => []
        let todo := (held ++ x.todo).mergeSort fun a b => decide (a ≤ b)
        let s := s.modEntries (quadOf c) fun es => es.filter fun e => match e.job with | .rows y _ => y != op | _ => true
        let r := s.choosePath o.form c x.ctx x.steer p x.mrec (x.seg x.mrec) todo
        r.1.modOp op fun o : Op => { o with work := .mvx { x with bank := r.2.getD false, todo := todo } }
    | _ => s

/-- R313, R371: after a switch of the region table, calls on the bank path whose rows no longer lie in row-home regions go on on the core
path. Rows of theirs in progress ended before it (`State.banksBusy`). -/
def State.leaveBanks (s : State) : State :=
  s.ops.foldl (fun s o => match o.work with
    | .mvx x => match x.plan with
      | some p =>
        if x.bank && !x.todo.isEmpty then
          let r := s.rowHome o.core x.ctx p x.mrec (x.seg x.mrec) x.todo
          if r.2 then r.1 else r.1.modOp o.id fun o : Op => { o with work := .mvx { x with bank := false } }
        else s
      | none => s
    | _ => s) s

/-- R313: a call on the bank path has rows in progress, which end before a switch of the region table. Rows of one that is held or waits
for a page make no request. -/
def State.banksBusy (s : State) : Bool :=
  s.ops.any fun o => match o.work with
    | .mvx x => x.bank && !x.partials.isEmpty && x.wait.isNone && x.fault.isNone && !s.engineHeld o.core o.slot
    | _ => false

end Sys2Proof.Machine
end

