-- ==== Sys2Proof/Machine/LaunchWords.lean ====
section
/-! DEFINITION. LAUNCH, RESV and TKT; the launch record and the kernel descriptor and their checks (R378 to R382, R392 to
R396). -/

namespace Sys2Proof.Machine

/-! ### Reading virtual memory -/

/-- Bytes of a context's virtual memory as an agent of the device that stands at the Board reads them. -/
def State.readVirtual (s : State) (ag : Agent) (ctx : Fin 64) (va n : Nat) (read : State → List Target → State × List Byte) : State × Fetched :=
  let at_ := fun i => (va + i) % 2 ^ 57
  let lines := ((List.range n).map fun i => at_ i / 128).eraseDups
  let (s, walks) := s.translateLines ag ctx false lines
  match walks.find? fun w => match w.2 with | .ok pa _ => s.peerRefuses pa | .failure => true | .page => false with
  | some _ => (s, .lost)
  | none => match walks.find? fun w => w.2 == .page with
    | some w => (s, .page (w.1 * 128))
    | none =>
      let ts := (List.range n).map fun i => match lookupLine walks (at_ i) with
        | .ok pa key => Target.phys (pa + at_ i % 128) key
        | _ => Target.phys 0 none
      let bad := ts.any s.poisonedTarget
      let r := read (s.touchAll .board false false ts) ts
      (r.1, .bytes r.2 bad)

/-- The byte at a virtual address as the tables stand, with no trace of the look; 0 where nothing is mapped. -/
def State.peek (s : State) (ctx : Fin 64) (va : Nat) : Byte :=
  match s.walkGo ctx (va % 2 ^ 57) s.board.roots[ctx] walkLevels with
  | .leaf e => let pa := e.pa + va % 2 ^ 57 % 2 ^ e.size; if s.unreachable pa then 0 else s.readPa e.key pa
  | _ => 0

/-- The 4-byte word at a virtual address, as the tables stand. -/
def State.peekWord (s : State) (ctx : Fin 64) (va : Nat) : Nat := leValue ((List.range 4).map fun i => s.peek ctx (va + i))

/-- R1: the Board among the 17 dies (log 3). -/
def boardDie : Fin 17 := 16

/-- The scheduler, or firmware, writes bytes of memory after a view; `rel`: with release ordering at a scope. -/
def State.boardWrite (s : State) (v : View) (rel : Option Nat) (bs : List (Target × Byte)) : State :=
  let s1 := (s.clockRelease (some boardDie) (rel.getD 0)).newWrite .device (rel.toList.map fun n => ⟨.device, s.reach n, v⟩) v
  match bs.head? with
  | some (.phys pa _, _) =>
    if s.peerLost pa then s1.logged (.dropped pa)
    else (if hostBase ≤ pa then s1 else s1.touchAll .board false true (bs.map (·.1))).standAll (some boardDie) false (s.known v) (bs.map fun b => (b.1.spot, b.2, s.nextId))
  | _ => s1

/-- The bytes of a structure of one line from a virtual address on, once its line has been translated. -/
def lineTargets (pa : Nat) (key : Option (Fin 8)) (va n : Nat) : List Target := (List.range n).map fun i => .phys (pa + va % 128 + i) key

/-- R355, R363: what the scheduler does for a launch at a structure of one line; it answers whether the scheduler goes on. A page fault holds
it, with one entry of KIND 4; a translation that cannot succeed loses the access, and the launch goes on without any further one (log 76). -/
def State.postFor (s : State) (l : Launch) (va n : Nat) (write : Bool) (go : State → List Target → State × Bool) : State × Bool :=
  if l.hold.isSome then (s, false)
  else if l.lost then (s, true)
  else
    let r := s.translate (.board 0) l.ctx (va / 128 * 128) write
    match r.2 with
    | .page => ((r.1.modLaunch l.id fun l => { l with hold := some r.1.nextId }).addFault l.ctx 0 0 0 va 4, false)
    | .failure => (r.1.modLaunch l.id fun l => { l with lost := true }, true)
    | .ok pa key => go r.1 (lineTargets pa key va n)

/-- R226, R355: what the scheduler's acquire read at `pkg` takes, and what it brings. -/
def State.boardRead (s : State) (v : View) (ts : List Target) : State × List Byte × View :=
  let s := s.touchAll .board false false ts
  let got := s.take (s.known v ++ s.spreadTo .device (s.reach 5) ts) none ts
  let took := (got.filterMap (·.2)).eraseDups
  let r := s.apply (some boardDie) (s.reach 5) took
  (r.1, got.map (·.1), (s.heard .device (s.reach 5) took).join r.2)

/-- R383: the scheduler adds to a word with release ordering at `pkg`: a read and a write that stand side by side. -/
def State.boardAdd (s : State) (v : View) (ts : List Target) (n : Nat) : State :=
  match ts with
  | [] => s
  | t :: _ =>
    let s := (s.touchAll .board false true ts).clockRelease (some boardDie) 5
    let p := t.spot.1
    let vs := s.versions p
    let as := ts.map fun t => t.spot.2
    let q := standAt s.fresh (as.headD 0) (places vs (s.known v ++ s.spreadTo .device (s.reach 5) ts) as) vs.length
    let x := leValue (as.map fun a => oldAt vs q a (s.byteNow p a))
    let took := (as.filterMap fun a => (sourceAt vs q a).map (·.2)).eraseDups
    let heads := ⟨.device, s.reach 5, v⟩ :: (took.filterMap s.info).flatMap (·.heads)
    (s.newWrite .device heads v).stand (some boardDie) true (some q) [] p
      ((as.zip (leBytes ts.length (x + n))).map fun b : Nat × Byte => (b.1, b.2, s.nextId))

/-! ### The kernel descriptor (R378) -/

/-- Word `i` of a structure given by its bytes. -/
def wordAt (bs : List Byte) (i : Nat) : Nat := leValue ((bs.drop (4 * i)).take 4)

/-- R378: a stream declaration, by its number among the twelve. -/
def streamAt (d : List Byte) (i : Nat) : Option Stream :=
  let x := wordAt d (20 + 2 * i)
  let y := wordAt d (21 + 2 * i)
  if x.testBit 0 then
    some { record := ⟨fieldOf x 1 5, Nat.mod_lt _ (by decide)⟩, tag := fieldOf x 6 6, first := fieldOf x 12 5, count := fieldOf x 17 6
           tile := 64 * fieldOf y 0 16, cast := fieldOf y 16 12 }
  else none

/-- R378: reads a descriptor. -/
def kernelAt (d : List Byte) : Kernel :=
  let w := wordAt d
  { contract := fieldOf (w 4) 0 3, groups := fieldOf (w 4) 4 4 + 1
    shape := (fieldOf (w 5) 0 10, fieldOf (w 5) 10 10, fieldOf (w 5) 20 10)
    priv := 4 * fieldOf (w 6) 0 15, stack := 4 * fieldOf (w 6) 16 11
    k := fieldOf (w 7) 0 8, a := fieldOf (w 7) 8 5, c := 1024 * fieldOf (w 7) 16 9
    roles := ((List.range 3).map fun i => (fieldOf (w (8 + i)) 0 4, fieldOf (w (8 + i)) 4 5, fieldOf (w (8 + i)) 16 8)).filter fun r => r.2.1 != 0
    records := (List.finRange 32).filterMap fun n : Fin 32 =>
      if (w 11).testBit n.val then some (n, ⟨fieldOf (leValue ((d.drop (48 + n.val)).take 1)) 0 5, Nat.mod_lt _ (by decide)⟩) else none
    inputs := Vector.ofFn fun i : Fin 8 => streamAt d i.val
    outputs := Vector.ofFn fun i : Fin 4 => streamAt d (8 + i.val)
    constBase := 0, constSize := w 3 }

/-- R378, reason 8: bits of the descriptor that must be zero. -/
def descriptorClean (d : List Byte) : Bool :=
  let w := wordAt d
  fieldOf (w 4) 8 24 == 0 && fieldOf (w 4) 3 1 == 0 && fieldOf (w 5) 30 2 == 0 && fieldOf (w 6) 27 5 == 0 && fieldOf (w 6) 15 1 == 0
  && fieldOf (w 7) 25 7 == 0 && fieldOf (w 7) 13 3 == 0
  && (List.range 3).all (fun i => fieldOf (w (8 + i)) 24 8 == 0 && fieldOf (w (8 + i)) 9 7 == 0)
  && (List.range 32).all (fun n => fieldOf (leValue ((d.drop (48 + n)).take 1)) 5 3 == 0)
  && (List.range 12).all (fun i => fieldOf (w (20 + 2 * i)) 23 9 == 0 && fieldOf (w (21 + 2 * i)) 28 4 == 0)
  && (List.range 4).all (fun i => w (44 + i) == 0)

/-- R113: a legal lane allotment. -/
def allotLegal (k : Nat) : Bool := decide (16 ≤ k) && decide (k ≤ 128) && k % 8 == 0

/-- The stream declarations with their direction. -/
def Kernel.streams (k : Kernel) : List (Bool × Stream) :=
  (k.inputs.toList.filterMap id).map (fun s => (false, s)) ++ (k.outputs.toList.filterMap id).map fun s => (true, s)

/-- R378, R84, reason 1: a field is outside its limit; a stream's handles must be among the 32. -/
def Kernel.fieldsBad (k : Kernel) (d : List Byte) : Bool :=
  let side := fun n => decide (n = 0 ∨ 512 < n)
  decide (4 < k.contract) || side k.shape.1 || side k.shape.2.1 || side k.shape.2.2 || decide (65536 < k.priv) || decide (4096 < k.stack)
  || !allotLegal k.k || decide (16 < k.a) || decide (327680 < k.c) || wordAt d 0 % 4 != 0 || wordAt d 2 % 4096 != 0
  || k.streams.any (fun s => decide (32 < s.2.first + s.2.count))
  || k.roles.any (fun r => decide (k.groups < r.1 + r.2.1) || !allotLegal r.2.2)
  || (List.range k.groups).any fun g => decide (1 < (k.roles.filter fun r => decide (r.1 ≤ g) && decide (g < r.1 + r.2.1)).length)

/-! ### The launch record (R379) -/

/-- R379: the record's fields, as a launch that nothing has checked. -/
def launchAt (r d : List Byte) (id : Nat) (ctx : Fin 64) (seg : Vector (BitVec 128) 8) : Launch :=
  let w := wordAt r
  let kdesc := w 0 + fieldOf (w 1) 0 25 * 2 ^ 32
  let k := kernelAt d
  { id := id, kernel := { k with constBase := (kdesc + wordAt d 2) % 2 ^ 57 }, code := List.replicate (wordAt d 1 / 4) 0
    codeVa := (kdesc + wordAt d 0) % 2 ^ 57
    teams := w 2, cw := fieldOf (w 3) 0 4, ch := fieldOf (w 3) 4 3, queue := ⟨fieldOf (w 3) 12 6, Nat.mod_lt _ (by decide)⟩
    det := (w 3).testBit 18, tkt := (w 3).testBit 19, part := 32768 * fieldOf (w 3) 20 4, dcores := fieldOf (w 4) 0 9
    waitoff := BitVec.ofNat 32 (w 5), waitval := BitVec.ofNat 32 (w 6), doneoff := BitVec.ofNat 32 (w 7), tktoff := BitVec.ofNat 32 (w 8)
    seed := BitVec.ofNat 64 (w 10 + w 11 * 2 ^ 32)
    uinit := Vector.ofFn fun i : Fin 4 => BitVec.ofNat 32 (w (12 + i.val))
    args := Vector.ofFn fun j : Fin 32 => BitVec.ofNat 128 (leValue ((r.drop (64 + 16 * j.val)).take 16))
    ctx := ctx
    seg := seg.set 6 (segOf (kdesc + wordAt d 2) k.constSize true)
    killed := none, runs := [], posts := [], next := 0, retired := 0, hold := none, lost := false, view := .none, did := .none }

/-- R379, reason 8: bits of the record that must be zero. -/
def recordClean (r : List Byte) : Bool :=
  let w := wordAt r
  fieldOf (w 1) 25 7 == 0 && fieldOf (w 3) 24 8 == 0 && fieldOf (w 3) 7 5 == 0 && fieldOf (w 4) 9 23 == 0 && w 9 == 0

/-- R379, reason 3. -/
def Launch.shapeBad (l : Launch) : Bool :=
  let c := l.cw * l.ch
  l.teams == 0 || decide (65536 < l.teams) || l.cw == 0 || decide (8 < l.cw) || l.ch == 0 || decide (6 < l.ch) || decide (12 < c)
  || c == 0 || l.teams % c != 0

/-- The record bound to a stream (R256); none where no `.record` binds it. -/
def Launch.bound (l : Launch) (d : Stream) : Option (BitVec 128) :=
  (l.kernel.records.find? fun r => r.1 == d.record).map fun r => l.args[r.2]

/-- R255, R344, R347, reason 4: a stream declaration is refused. DESIGN CHOICE (log 77): so is one that declares no handle. -/
def Launch.streamBad (l : Launch) (cells : Nat) (out : Bool) (d : Stream) : Bool :=
  match l.bound d, Tag.ofCode d.tag with
  | some bits, some tag =>
    let r := Rec.of bits
    let sg := l.seg[(⟨r.seg % 8, Nat.mod_lt _ (by decide)⟩ : Fin 8)]
    let t := tileElems bits d.tag d.tile
    d.count == 0 || d.tile == 0
    || (if out then d.cast != 0 else decide (2 ^ (l.cw * l.ch) ≤ d.cast))
    || !(r.legal false) || tag == .e8m0
    || !(r.seg == 0 || r.seg == 3 || r.seg == 4)
    || (r.seg == 3 && decide (r.base < 4 * cells) && r.extent != 0)
    || (out && (r.ro || segReadOnly sg))
    || (if copies r.tag d.tag then d.tile % r.elem != 0
        else r.tag == Tag.e8m0.code || !r.flat || t == 0 || t % (unitOf r.tag).1 != 0)
  | _, _ => true

/-- R255: handle ranges overlap. -/
def Kernel.handlesOverlap (k : Kernel) : Bool :=
  (List.range 32).any fun h => decide (1 < (k.streams.filter fun s => decide (s.2.first ≤ h) && decide (h < s.2.first + s.2.count)).length)

/-- R382, reason 7: a counter of `n` bytes at a seg3 offset. -/
def Launch.offsetBad (l : Launch) (cells n : Nat) (off : Word) : Bool :=
  decide (off.toNat % n ≠ 0) || decide (segLimit l.seg[(3 : Fin 8)] < off.toNat + n) || decide (off.toNat < 4 * cells)

/-- R382: the lowest reason for which a launch is refused; the descriptor's reasons only when it could be read. -/
def Launch.reason (l : Launch) (cells : Nat) (r : List Byte) (d : Option (List Byte)) : Option Nat :=
  let k := l.kernel
  if d.any k.fieldsBad || fieldOf (wordAt r 0) 0 6 != 0 then some 1
  else if d.any fun _ => (k.shape.1 * k.shape.2.1 * k.shape.2.2 != 32 * k.groups) then some 2
  else if l.shapeBad then some 3
  else if d.any (fun _ => k.handlesOverlap || k.streams.any fun s => l.streamBad cells s.1 s.2) then some 4
  else if decide (327680 < l.part) || d.any fun _ => decide (128 < k.groups * k.a) || decide (l.part < k.regionBytes) then some 5
  else if (if l.det then l.dcores == 0 || decide (384 < l.dcores) || l.dcores % (l.cw * l.ch) != 0 else l.dcores != 0) then some 6
  else if (l.waitoff != 0xFFFFFFFF && l.offsetBad cells 4 l.waitoff) || (l.doneoff != 0xFFFFFFFF && l.offsetBad cells 4 l.doneoff)
      || (l.tkt && l.offsetBad cells 8 l.tktoff) then some 7
  else if !recordClean r || d.any fun x => !descriptorClean x then some 8
  else if d.isNone then some 9
  else none

/-- How a launch record fares (R382). -/
inductive Admission where
  | accept (l : Launch) (desc : List Byte)
  | refuse (reason : Nat)
  | page (va : Nat)

/-- R382: reads and checks the record at a virtual address and its descriptor. `refused` says which lines firmware has refused to
map. -/
def State.admission (s : State) (ag : Agent) (ctx : Fin 64) (seg : Vector (BitVec 128) 8) (va : Nat) (refused : Nat → Bool)
    (read : State → List Target → State × List Byte) : State × Admission :=
  let r := s.readVirtual ag ctx va 576 read
  match r.2 with
  | .lost => (r.1, .refuse 9)
  | .page p => (r.1, if refused (p / 128) then .refuse 9 else .page p)
  | .bytes bs _ =>
    let kdesc := wordAt bs 0 + fieldOf (wordAt bs 1) 0 25 * 2 ^ 32
    let d := r.1.readVirtual ag ctx kdesc 192 read
    let check := fun (x : Option (List Byte)) =>
      let l := launchAt bs (x.getD []) d.1.nextId ctx seg
      match l.reason (d.1.cellCount ctx) bs x with
      | some n => Admission.refuse n
      | none => .accept l (x.getD [])
    match d.2 with
    | .lost => (d.1, check none)
    | .page p => (d.1, if refused (p / 128) then check none else .page p)
    | .bytes ds _ => (d.1, check (some ds))

/-- R384: a queue has room for another launch. -/
def State.queueRoom (s : State) (q : Fin 64) : Bool := decide ((s.board.queues[q]).length < 256)

/-- R426: while a job of the tenant runs, the digest of the launch's kernel (descriptor, code and constants) joins its list. -/
def State.noteKernel (s : State) (l : Launch) (desc : List Byte) : State :=
  match s.tenantOf l.ctx with
  | none => s
  | some n =>
    let v := s.board.vf[n]
    if v.job.isNone then s
    else
      let run := fun va len => (List.range len).map fun i => s.peek l.ctx (va + i)
      let d := leBytes 64 (Config.digest (desc ++ run l.codeVa (4 * l.code.length) ++ run l.kernel.constBase l.kernel.constSize)).toNat
      if v.kernels.contains d then s
      else { s with board := { s.board with vf := s.board.vf.set n { v with kernels := v.kernels ++ [d] } } }

/-- R382, R384: an accepted launch goes to the end of its queue. -/
def State.enqueue (s : State) (l : Launch) (desc : List Byte) : State :=
  let s := s.noteKernel l desc
  { s with launches := s.launches ++ [l], nextId := s.nextId + 1
           board := { s.board with queues := s.board.queues.set l.queue (s.board.queues[l.queue] ++ [l.id]) } }

/-! ### LAUNCH -/

/-- LAUNCH (R381). -/
def launchInfo (d a : Fin 128) : WordInfo where
  uniform := true
  reads := if a.val ≤ 126 then regRun a.val 2 else []
  token := some d.val
  tokenLast := true
  effect := true
  memory := true
  bad := if a.val ≤ 126 then none else some 0x02

/-- R381: LAUNCH. -/
def execLaunch (d a : Fin 128) (s : State) : Host.Outcome State Fault Refusal :=
  uniWord (launchInfo d a) (fun b m g s =>
    let o := (g.uni a.val).toNat + fieldOf (g.uni (a.val + 1)).toNat 0 25 * 2 ^ 32
    let va := (segBase g.seg[(0 : Fin 8)] + o) % 2 ^ 57
    let sel := fun l : Lane => hasBit m.sel l
    if o % 64 ≠ 0 then s.raise b m.slot sel 0x07 (vaDetail 0 va)
    else if segLimit g.seg[(0 : Fin 8)] < o + 576 then s.raise b m.slot sel 0x06 (vaDetail 0 va)
    else if g.pendingToken d.val then s.raise b m.slot sel 0x18 [BitVec.ofNat 32 d.val]
    else ((s.releaseBy b 5).modGroup b.core m.slot fun g => g.startToken d.val).addOp b m.slot m.sel (.launch d.val va)) s

/-- R226, R382: the scheduler accepts or refuses a launch, whose threads come after the LAUNCH word; a page fault is resolved while the token waits, and so does a full queue. -/
def execLaunchAccept (op : Nat) (s : State) : Host.Outcome State Fault Refusal :=
  .next (match s.op? op with
    | none => s
    | some o => if s.engineHeld o.core o.slot then s else match o.work, s.group? o.core o.slot with
      | .launch token va, some g =>
        let r := s.admission (.core o.core) g.ctx g.seg va g.refused.contains fun s ts => s.opRead op ts
        let finish := fun (s : State) (detail : Nat) (fault : Bool) =>
          ((s.endTokenOf ((s.op? op).getD o) token (statusWord 4 detail fault false false)).modGroup o.core o.slot fun g => { g with refused := [] }).dropOp op
        match r.2 with
        | .refuse n => finish r.1 (n * 256 + if n = 9 then 0x06 else 0x02) true
        | .accept l desc => if r.1.queueRoom l.queue then finish (r.1.enqueue { l with view := o.view } desc) 0 false else r.1
        | .page p =>
          if r.1.faults.any fun f => f.ctx == g.ctx && f.core == o.core && f.slot == o.slot && f.kind == 4 && f.va == p then r.1
          else r.1.addFault g.ctx o.core o.slot 0 p 4
      | _, _ => s)

/-! ### RESV (R392, R393) -/

/-- RESV. -/
def resvInfo (d a : Fin 128) : WordInfo where
  uniform := true
  reads := if a.val ≤ 125 then regRun a.val 3 else []
  writes := [d.val]
  effect := true
  memory := true
  bad := if a.val ≤ 125 then none else some 0x02

/-- R393: the access of the array of worst cases. BOUNDS is set once the word has its effect (R9). -/
def resvSource (record : BitVec 128) (t : Nat) : Access :=
  { record := record, kind := 0, size := 4, align := 4, poss := List.range t, fits := true, segs := groupSegs, cellOk := false, notes := false }

/-- R393: the access of the slot array. -/
def resvSlots (off t : Nat) : Access :=
  { record := ({ tag := Tag.raw.code, trapoob := false, ply := false, ro := false, comp := false, rowhome := false, faramo := false
                 swz := 0, stride := 0, extent := t, size := 4, seg := 3, base := off } : Rec).bits
    kind := 1, size := 16, align := 16, poss := List.range t, fits := true, segs := groupSegs, cellOk := true }

/-- R392: the slots of an array of worst cases from an origin, as (CURSOR, END). -/
def resvCursors : List Nat → Nat → List (Nat × Nat)
  | [], _ => []
  | w :: rest, c => (c, c + w) :: resvCursors rest (c + w)

/-- R392, R205: the threads of a group load the array of worst cases: its elements' values. -/
def State.resvLoad (s : State) (b : Bundle) (m : Member) (r : Rec) (t : Nat) (es : List (Elem × List Target)) : State × List Nat :=
  let cached := segCached r.seg
  let all := es.flatMap (·.2)
  let s := s.touchAll (corePort b.core) r.comp false (s.missing b.core cached all)
  let past := s.pastOf b.core m.slot m.sel
  let (s, ws) := (List.range t).foldl (fun (st : State × List Nat) p => match es.find? fun e => e.1.pos == p with
    | some e => let x := st.1.loadElem b.core m.slot m.sel past cached none e.1 e.2; (x.1, st.2 ++ [x.2.1])
    | none => (st.1, st.2 ++ [0])) (s, [])
  (if cached then s.fillAll b.core false all else s, ws)

/-- R392, R393: the threads of a group store the slots, at the bank ALUs. -/
def State.resvStore (s : State) (b : Bundle) (m : Member) (cs : List (Nat × Nat)) (es : List (Elem × List Target)) : State :=
  let first := s.nextId
  let s := s.atWrite b.core m.slot m.sel
  let past := s.pastOf b.core m.slot m.sel
  let s := s.touchAll .home false true (es.flatMap (·.2))
  es.foldl (fun s e =>
    let c := cs.getD e.1.pos (0, 0)
    (s.storeElem b.core m.slot m.sel past none (Way.past) (s.writesFrom first) e.1 e.2 (c.1 + c.2 * 2 ^ 32 + e.1.pos * 2 ^ 64)).1) s

/-- R392: RESV. -/
def execResv (d a : Fin 128) (r : Fin 32) (s : State) : Host.Outcome State Fault Refusal :=
  uniWord (resvInfo d a) (fun b m g s =>
    let t := (g.uni a.val).toNat
    let origin := (g.uni (a.val + 1)).toNat
    let off := (g.uni (a.val + 2)).toNat
    let sel := fun l : Lane => hasBit m.sel l
    let rec_ := Rec.of g.b[r]
    if t = 0 ∨ 65536 < t ∨ !rec_.legal false ∨ rec_.elem ≠ 4 then s.badOperand b m
    else if off % 16 ≠ 0 then s.raise b m.slot sel 0x07 (vaDetail 0 ((segBase g.seg[(3 : Fin 8)] + off) % 2 ^ 57))
    else if segLimit g.seg[(3 : Fin 8)] < off + 16 * t then s.raise b m.slot sel 0x06 (vaDetail 0 0)
    else if off < 4 * s.cellCount g.ctx then s.badOperand b m
    else match s.placeGroup b m r.val (resvSource g.b[r] t) 0 with
      | (s, none) => s
      | (s, some q) =>
        let bad := q.elems.find? fun e => e.2.any s.poisonedTarget
        let (s, ws) := s.resvLoad b m rec_ t q.elems
        match bad with
        | some e => s.raise b m.slot sel 0x08 (vaDetail 0 (g.byteVa rec_ 0 e.1.off 0))
        | none =>
          if 0xFFFFFFFF < origin + ws.sum then s.raise b m.slot sel 0x04 [BitVec.ofNat 32 r.val, 0]
          else match s.placeGroup b m 0 (resvSlots off t) 0 with
            | (s, none) => s
            | (s, some z) => ((s.resvStore b m (resvCursors ws origin) z.elems).noteBounds b m (!q.oob.isEmpty)).modGroup b.core m.slot fun g =>
                g.setUni d.val (BitVec.ofNat 32 (origin + ws.sum))) s

/-! ### TKT (R394 to R396) -/

/-- The virtual address of a launch's seg3 offset. -/
def Launch.counterVa (l : Launch) (off : Word) : Nat := (segBase l.seg[(3 : Fin 8)] + off.toNat) % 2 ^ 57

/-- R394: what a post of a team writes; a poisoned one sets BAD. -/
def ticketBytes (t : Nat) (poisoned : Bool) (bad : Nat) : List Byte :=
  leBytes 4 (t + 1) ++ if poisoned then leBytes 4 (if bad.testBit 0 then bad else t % 2 ^ 16 * 2 ^ 16 + 1) else []

/-- R395: the value of `tkt.wait` for a team: FIRSTBAD, POSTED and PPRED. -/
def ticketWord (team next bad : Nat) : Word :=
  BitVec.ofNat 32 (fieldOf bad 16 16 * 2 ^ 16 + (decide (team < next)).toNat * 2 + (bad.testBit 0 && decide (fieldOf bad 16 16 < team)).toNat)

/-- R395: threads of a group read the ticket word at its bytes, by an acquire read at `pkg`; where the turn of their team has come, the word
has its effect: `tkt.wait` writes a register, `tkt.post` (none) posts by a release write. Answers whether the turn has come. -/
def State.ticketGo (s : State) (c : CoreId) (k : Slot) (lanes : Word) (t : Team) (form : Option Nat) (ts : List Target) : State × Bool :=
  let s := (s.acquire c 5).touchAll (corePort c) false false ts
  let r := s.loadOf c k lanes (s.pastOf c k lanes) false (some (s.reach 5)) none ts
  let s := r.1
  let next := leValue (r.2.1.take 4)
  if next < t.index then (s, false)
  else match form with
    | some d => (s.modGroup c k fun g => g.setNamed d (ticketWord t.index next (leValue (r.2.1.drop 4))), true)
    | none =>
      if next = t.index then
        let s := ((s.release c 5).atWrite c k lanes).touchAll (corePort c) false true ts
        let w := s.storeOf c k lanes (s.pastOf c k lanes) (some (s.reach 5)) (Way.past) [] (ts.zip (ticketBytes t.index false 0))
        (w.1.modTeam t.key fun t => { t with posted := true }, true)
      else (s, true)

/-- R395: TKT for one group: the ticket word must translate; threads whose turn has not come wait at the word. -/
def State.ticketFor (s : State) (b : Bundle) (m : Member) (g : Group) (form : Option Nat) : State :=
  match s.team? g.team, s.launch? g.launch with
  | some t, some l =>
    if !l.tkt then s.badOperand b m
    else
      let va := l.counterVa l.tktoff
      match s.translate (.core b.core) l.ctx (va / 128 * 128) form.isNone with
      | (s, .failure) => s.raise b m.slot (fun x => hasBit m.sel x) 0x06 (vaDetail 5 va)
      | (s, .page) => s.park b m l.ctx (if form.isNone then 2 else 0) (((List.finRange 32).filter fun x : Lane => hasBit m.sel x).map fun x => (x, [va / 128]))
      | (s, .ok pa key) =>
        let r := s.ticketGo b.core m.slot m.sel t form (lineTargets pa key va 8)
        if r.2 then r.1
        else r.1.modGroup b.core m.slot fun g => g.mapThreads fun x th =>
          if hasBit m.sel x && th.run == .member then th.standAt b b.idx .tkt else th
  | _, _ => s

/-- R395: `tkt.wait`. -/
def execTktWait (d : Fin 128) (s : State) : Host.Outcome State Fault Refusal :=
  uniWord { plainUInfo [] [d.val] with memory := true } (fun b m g s => s.ticketFor b m g (some d.val)) s

/-- R395: `tkt.post`. -/
def execTktPost (s : State) : Host.Outcome State Fault Refusal :=
  uniWord { plainUInfo [] [] with memory := true, effect := true } (fun b m g s => s.ticketFor b m g none) s

/-- R395, R397: the TKT word at which a lane's thread waits, and whether it is a word of kernel code at which the thread waits while its group
is in handler mode. -/
def State.ticketWait (s : State) (g : Group) (l : Lane) : Option (Word × Bool) :=
  let t := g.threads[l]
  if t.run == .tkt then (codeAt (s.codeOf g) (t.waitWord false)).map fun w => (w, false)
  else (s.keptWait g 8 t).map fun w => (w, true)

/-- R395, R261: the threads of a group that wait at the TKT word of the lowest of them read the ticket word again, and resume at the word
after it once their turn has come. Where its page is gone, threads outside the handler park at the word or trap as its first issue does. -/
def State.ticketPoll (s : State) (c : CoreId) (k : Slot) : State :=
  match s.group? c k with
  | none => s
  | some g => match (List.finRange 32).findSome? fun l : Lane => s.ticketWait g l, s.team? g.team, s.launch? g.launch with
    | some (w, kept), some t, some l =>
      let lanes := laneMask fun x => s.ticketWait g x == some (w, kept)
      let d := fieldOf w.toNat 18 7
      let form := if fieldOf w.toNat 7 4 = 1 then none else some (if kept ∧ 124 ≤ d then d + 128 else d)
      let va := l.counterVa l.tktoff
      match s.translate (.core c) l.ctx (va / 128 * 128) form.isNone with
      | (s, .ok pa key) =>
        let r := s.ticketGo c k lanes t form (lineTargets pa key va 8)
        if r.2 then r.1.modGroup c k fun g => g.mapThreads fun x th => if hasBit lanes x then (if kept then r.1.keptPast g th else r.1.stepPast g th) else th
        else r.1
      | (s, .page) =>
        if kept then s
        else (s.modGroup c k fun g => g.mapThreads fun x th => if hasBit lanes x then { th with run := .parked [s.nextId] false } else th).addFault
          l.ctx c k lanes va (if form.isNone then 2 else 0)
      | (s, .failure) =>
        if kept then s
        else if g.handler.isSome then (s.killTeam g.team 0x06).logged (.killed c k 0x06)
        else
          ((s.modGroup c k fun g => g.mapThreads fun x th =>
            if hasBit lanes x then { th with run := .ready, trap := some ⟨0x06, th.waitWord false, vaDetail 5 va⟩ } else th).haltSlot c k).purge
    | _, _, _ => s

/-- R396: an automatic or poisoned post, held until NEXT reaches the team; the team's accesses come before it. -/
def execTicketAutoPost (launch team : Nat) (s : State) : Host.Outcome State Fault Refusal :=
  .next (match s.launch? launch with
    | none => s
    | some l => match l.posts.find? fun p => p.1 == team with
      | some p =>
        if l.killed.isSome then s
        else
          let r := s.postFor l (l.counterVa l.tktoff) 8 true fun s ts =>
            let x := s.boardRead .none ts
            if leValue (x.2.1.take 4) = team then (x.1.boardWrite (p.2.2.join x.2.2) (some 5) (ts.zip (ticketBytes team p.2.1 (leValue (x.2.1.drop 4)))), true)
            else (x.1, false)
          if r.2 then r.1.modLaunch launch fun l => { l with posts := l.posts.filter fun x => x.1 != team } else r.1
      | none => s)

end Sys2Proof.Machine
end

