-- ==== Sys2Proof/Machine/Images.lean ====
section
/-! DEFINITION. Engine images, what CTX and `eret.out` wait for, and the return of an image (R240, R298, R314, R334, R406 to R408, R411). -/

namespace Sys2Proof.Machine

/-- R334, R411: operations of a group that a context save does not keep, and that a pre-empted group completes first. -/
def Work.finishesFirst : Work → Bool
  | .uld _ _ _ => true
  | .xpld _ _ _ _ => true
  | .atomic _ _ _ => true
  | .report _ => true
  | .bred _ _ _ => true
  | .plyGet _ _ _ _ _ => true
  | _ => false

/-- R411: such operations still concern the group. -/
def State.outWaits (s : State) (b : Bundle) (m : Member) : Bool :=
  ((s.group? b.core m.slot).any fun g => g.handler.isSome) &&
    s.ops.any fun o => o.concerns b.core m.slot && o.work.finishesFirst

/-- R240, R406: a thread item that is the shadow of v0 or v1 waits for an old value that an atomic of kernel code will still write there. -/
def State.shadowWaits (item : Nat) (s : State) (b : Bundle) (m : Member) : Bool :=
  match s.group? b.core m.slot with
  | some g => g.handler.isSome && (item == 6 || item == 7) && s.ops.any fun o => o.core = b.core && o.apart g && match o.work with
      | .atomic es _ _ => es.any fun e => e.slot == m.slot && e.dst.any fun r => r.val == item - 6
      | _ => false
  | none => false

/-- R253, R408: the group is the team's lowest-numbered non-exited one; a group already out was not exited. -/
def State.lowestGroup (s : State) (g : Group) : Bool :=
  match s.team? g.team with
  | some t => ((s.teamGroups t).filter fun p => !p.2.allThreads fun _ x => x.gone).all (fun p => g.gid ≤ p.2.gid) && t.out.all fun o => g.gid ≤ o.gid
  | none => true

/-- Rounds up to a multiple of 64. -/
def up64 (n : Nat) : Nat := (n + 63) / 64 * 64

/-- R408, R314: bytes for a pending call: its rows in progress, and its vectors where a handle feeds it. -/
def Call.imageBytes (c : Call) : Nat :=
  up64 (256 + 320 * c.partials.length + match c.plan with
    | some p => if p.desc.vh then (p.desc.nv + 1) * p.vb else 0
    | none => 0)

/-- R408: ESIZE. -/
def State.esize (s : State) (c : CoreId) (k : Slot) (g : Group) : Nat :=
  let open_ := ((List.finRange 8).filter fun i : Fin 8 => (g.cv[i]).st == .open_ || (g.cv[i]).st == .postwait).length
  let calls := (s.ops.filterMap fun o => if o.core = c && o.slot == k then match o.work with
      | .mvx x => some x.imageBytes
      | _ => none else none).sum
  let region := if s.lowestGroup g then match s.kernelOf g, s.team? g.team with
      | some x, some t => up64 (x.regionBytes + 64 * (t.handles.toList.filter (·.declared)).length)
      | _, _ => 0 else 0
  8192 + g.tiles.length * (if g.contract = 0 then 163840 else 16384) + 16384 * open_ + calls + region

/-- R407: the access of an engine image of `n` bytes. -/
def imageAccess (kind n : Nat) (record : BitVec 128) : Access :=
  let r := Rec.of record
  { record := record, kind := kind, size := 1, align := 1, poss := List.range n
    fits := r.seg == 0 && r.size == 0 && decide (n ≤ r.extent), segs := [0], cellOk := false }

/-- R314, R407: the calls of a group that a handle feeds have read their vectors before they are saved. -/
def State.readCalls (s : State) (c : CoreId) (k : Slot) : State :=
  (s.ops.filter fun o => o.core == c && o.slot == k).foldl (fun s o => match o.work with
    | .mvx x => let r := s.readVectors o x; r.1.modOp o.id fun o => { o with work := .mvx r.2 }
    | _ => s) s

/-- R407: what an image of the group holds. -/
def State.imageOf (s : State) (c : CoreId) (k : Slot) (g : Group) : Image :=
  { id := s.nextId, size := s.esize c k g, chip := chipOf c, team := g.team, gid := g.gid, group := g
    ops := s.ops.filter fun o => o.core == c && o.slot == k
    entries := (s.quads[quadOf c]).entries.filter fun e => e.core == c && e.slot == k
    region := if s.lowestGroup g then (s.team? g.team).map fun t =>
        (((s.cores[c]).scratch.filter fun x => decide (t.base ≤ x.1) && decide (x.1 < t.base + t.size)).map fun x => (x.1 - t.base, x.2), t.handles)
      else none }

/-- A byte of virtual memory as its core's L1 and memory give it as the tables stand, if it is mapped. -/
def State.peekCached (s : State) (c : CoreId) (ctx : Fin 64) (known : List Nat) (va : Nat) : Option Byte :=
  match s.walkGo ctx (va % 2 ^ 57) s.board.roots[ctx] walkLevels with
  | .leaf e => let pa := e.pa + va % 2 ^ 57 % 2 ^ e.size
    if s.unreachable pa then none else (s.takeAs c true known none [.phys pa e.key]).head?.map (·.1)
  | _ => none

/-- R407: the image that a record holds, as far as its first `n` bytes say and it is one that this chiplet saved; none for all its bytes. -/
def State.imageAt (s : State) (c : CoreId) (k : Slot) (g : Group) (record : BitVec 128) (n : Option Nat) : Option Image :=
  let r := Rec.of record
  let known := s.known (s.pastOf c k 0xFFFFFFFF)
  let byte := fun i => s.peekCached c g.ctx known (segBase g.seg[(0 : Fin 8)] + r.offset i)
  s.board.saved.find? fun im => im.chip == chipOf c && decide (im.size ≤ r.extent) &&
    (List.range (min im.size (n.getD im.size))).all fun i => byte i == some (Config.imageByte im.id i)

/-- The image holds a granted allotment, or one that its group had asked for. -/
def Image.asked (im : Image) : Bool := im.group.allot.granted

/-- R407: `ctx.rest` waits for the allotment, whose request it posts, and for room in the reservation table. -/
def State.restReady (s : State) (b : Bundle) (m : Member) (r : Fin 32) : State × Bool :=
  match s.group? b.core m.slot with
  | none => (s, true)
  | some g => match g.handler, s.imageAt b.core m.slot g g.b[r] none with
    | some d, some im =>
      if d.cls = 0x17 ∧ d.restore then
        let q := quadOf b.core
        let posted := (s.quads[q]).acq.any fun x => x.1 == b.core && x.2 == m.slot
        if !im.asked || g.allot.granted then (s, decide (im.entries.length ≤ s.freeEntries b.core))
        else if posted then (s, false)
        else ({ s with quads := s.quads.set q { s.quads[q] with acq := (s.quads[q]).acq ++ [(b.core, m.slot)] } }.modGroup b.core m.slot
          fun g => { g with allot := { im.group.allot with granted := false } }, false)
      else (s, true)
    | _, _ => (s, true)

/-- R298, R314: an operation as a restore puts it back: fault entries that it waited for have been withdrawn. -/
def Op.rewait (o : Op) : Op :=
  { o with work := match o.work with
    | .mvx c => .mvx { c with wait := none }
    | .drain token tile z fmt rnd seed dst read out width _ fault cvx dropped =>
      .drain token tile z fmt rnd seed dst read out width none fault cvx dropped
    | w => w }

/-- R407: the engine state of an image comes back for the group in a slot. -/
def State.putBack (s : State) (c : CoreId) (k : Slot) (g : Group) (im : Image) : State :=
  let q := quadOf c
  let old := im.group
  let waiting := !old.allot.granted && old.threads.toList.any fun t => estateWait t.estate == 6
  let s := s.setGroup c k (some { g with tiles := old.tiles, mcfg := old.mcfg, cv := old.cv, tokens := old.tokens, tape := old.tape, allot := old.allot })
  let ids := im.ops.map (·.id)
  let s := { s with
    ops := (s.ops.filter fun o : Op => !ids.contains o.id) ++ im.ops.map fun o : Op => { o.rewait with core := c, slot := k }
    quads := s.quads.set q { s.quads[q] with
      entries := (s.quads[q]).entries ++ im.entries.map fun e : Entry =>
        { e with core := c, slot := k, team := g.team, started := false, posted := (s.cores[c]).cycles }
      acq := (s.quads[q]).acq ++ (if waiting && !((s.quads[q]).acq.any fun x => x.1 == c && x.2 == k) then [(c, k)] else []) } }
  let s := ids.foldl (fun s i => s.rechoose c i) s
  match im.region, s.team? g.team with
  | some (cells, hs), some t =>
    (s.resetScratch c t.base t.size cells).modTeam g.team fun t : Team => { t with handles := hs.map fun h : Handle => { h with wait := none } }
  | _, _ => s

/-- R407: the wait of `ctx.rest`. -/
def restWaits (r : Fin 32) (b : Bundle) (_ : Pfx) (s : State) : State × Bool :=
  (s.members b).foldl (fun (acc : State × Bool) m => let x := acc.1.restReady b m r; (x.1, acc.2 && x.2)) (s, true)

end Sys2Proof.Machine
end

