-- ==== Sys2Proof/Machine/IntLane.lean ====
section
/-! DEFINITION. Integer, logic, shift and bitfield lane words, the IUN group and the compares (R135 to R142). -/

namespace Sys2Proof.Machine

/-- R135. -/
def addElem (x : ElemIn) : Word := narrow x.mod (intOf x.mod x.a + intOf x.mod x.b)
/-- R135. -/
def subElem (x : ElemIn) : Word := narrow x.mod (intOf x.mod x.a - intOf x.mod x.b)
/-- R135. -/
def mulElem (x : ElemIn) : Word := narrow x.mod (intOf x.mod x.a * intOf x.mod x.b)
/-- R135. -/
def madElem (x : ElemIn) : Word := narrow x.mod (intOf x.mod x.a * intOf x.mod x.b + intOf x.mod x.c)
/-- R135: bits 63 to 32 of a product. -/
def highWord (x : Int) : Word := BitVec.ofInt 32 (x / (2 ^ 32 : Nat))

/-- R136: the quotient and the remainder of Z32 operands. -/
def divZ (a b : Word) : Word × Word :=
  if b = 0 then (if a.toInt < 0 then 0x80000000#32 else 0x7FFFFFFF#32, a)
  else if a = 0x80000000#32 ∧ b = 0xFFFFFFFF#32 then (0x80000000#32, 0)
  else (BitVec.ofInt 32 (a.toInt.tdiv b.toInt), BitVec.ofInt 32 (a.toInt.tmod b.toInt))

/-- R136: the quotient and the remainder of N32 operands. -/
def divN (a b : Word) : Word × Word :=
  if b = 0 then (0xFFFFFFFF#32, a) else (BitVec.ofNat 32 (a.toNat / b.toNat), BitVec.ofNat 32 (a.toNat % b.toNat))

/-- R138. -/
def shlWord (a n : Word) : Word := if n.toNat < 32 then a <<< n.toNat else 0
/-- R138. -/
def shrNWord (a n : Word) : Word := if n.toNat < 32 then a >>> n.toNat else 0
/-- R138. -/
def shrZWord (a n : Word) : Word :=
  if n.toNat < 32 then a.sshiftRight n.toNat else if a.msb then 0xFFFFFFFF#32 else 0
/-- R139. -/
def rolWord (a : Word) (n : Nat) : Word := (a <<< n) ||| (a >>> (32 - n))

/-- R140: the position and the cut length of the field that B describes. -/
def fieldPos (b : Word) : Nat := fieldOf b.toNat 0 5
/-- R140. -/
def fieldLen (b : Word) : Nat := min (fieldOf b.toNat 5 6) (32 - fieldPos b)

/-- R140. -/
def bfxN (a b : Word) : Word := BitVec.ofNat 32 (fieldOf a.toNat (fieldPos b) (fieldLen b))
/-- R140. -/
def bfxZ (a b : Word) : Word :=
  if fieldLen b = 0 then 0 else BitVec.ofInt 32 (signedOf (fieldLen b) (fieldOf a.toNat (fieldPos b) (fieldLen b)))
/-- R140. -/
def bfiWord (a b f : Word) : Word :=
  let p := fieldPos b
  let n := fieldLen b
  BitVec.ofNat 32 (f.toNat - fieldOf f.toNat p n * 2 ^ p + fieldOf a.toNat 0 n * 2 ^ p)

/-- R141: the number of 1 bits. -/
def popWord (a : Word) : Nat := ((List.range 32).filter fun i => a.getLsbD i).length
/-- R141: leading zeros. -/
def clzWord (a : Word) : Nat := if a = 0 then 32 else 31 - Nat.log2 a.toNat
/-- R141: trailing zeros. -/
def ctzWord (a : Word) : Nat := ((List.range 32).find? fun i => a.getLsbD i).getD 32
/-- R141: bits in reverse order. -/
def brevWord (a : Word) : Word :=
  (List.range 32).foldl (fun x i => if a.getLsbD i then x ||| oneBit (31 - i) else x) 0
/-- R141: bytes in reverse order. -/
def bswapWord (a : Word) : Word :=
  (a.extractLsb' 0 8) ++ (a.extractLsb' 8 8) ++ (a.extractLsb' 16 8) ++ (a.extractLsb' 24 8)
/-- R141: −A, saturated under MOD 1. -/
def negWord (mod : Nat) (a : Word) : Word := narrow mod (-a.toInt)
/-- R141: |A|, saturated under MOD 1. -/
def absWord (mod : Nat) (a : Word) : Word := narrow mod a.toInt.natAbs

/-- R135: IADD. -/
def execIadd (e : Ext) (d : Fin 128) (a : LaneSrc) (b : Fin 128) (s : State) : Host.Outcome State Fault Refusal :=
  pureWord (opAB e d a b) ruleSat 1 addElem s
/-- R135: ISUB. -/
def execIsub (e : Ext) (d : Fin 128) (a : LaneSrc) (b : Fin 128) (s : State) : Host.Outcome State Fault Refusal :=
  pureWord (opAB e d a b) ruleSat 1 subElem s
/-- R135: IMUL. -/
def execImul (e : Ext) (d : Fin 128) (a : LaneSrc) (b : Fin 128) (s : State) : Host.Outcome State Fault Refusal :=
  pureWord (opAB e d a b) ruleSat 2 mulElem s
/-- R135: IMAD. -/
def execImad (e : Ext) (d : Fin 128) (a : LaneSrc) (b : Fin 128) (s : State) : Host.Outcome State Fault Refusal :=
  pureWord (opAB e d a b) ruleSat4 2 madElem s
/-- R135: IADDI. -/
def execIaddi (e : Ext) (d : Fin 128) (a : LaneSrc) (m : BitVec 7) (s : State) : Host.Outcome State Fault Refusal :=
  pureWord (opAI e d a (imm7 m)) ruleSat 1 addElem s
/-- R139: ISHI, kind 0. -/
def execIshiShl (e : Ext) (d : Fin 128) (a : LaneSrc) (n : Fin 32) (s : State) : Host.Outcome State Fault Refusal :=
  pureWord (opA e d a) rulePlain 1 (fun x => x.a <<< n.val) s
/-- R139: ISHI, kind 1. -/
def execIshiShrN (e : Ext) (d : Fin 128) (a : LaneSrc) (n : Fin 32) (s : State) : Host.Outcome State Fault Refusal :=
  pureWord (opA e d a) rulePlain 1 (fun x => x.a >>> n.val) s
/-- R139: ISHI, kind 2. -/
def execIshiShrZ (e : Ext) (d : Fin 128) (a : LaneSrc) (n : Fin 32) (s : State) : Host.Outcome State Fault Refusal :=
  pureWord (opA e d a) rulePlain 1 (fun x => x.a.sshiftRight n.val) s
/-- R139: ISHI, kind 3. -/
def execIshiRol (e : Ext) (d : Fin 128) (a : LaneSrc) (n : Fin 32) (s : State) : Host.Outcome State Fault Refusal :=
  pureWord (opA e d a) rulePlain 1 (fun x => rolWord x.a n.val) s
/-- R138: AND. -/
def execAnd (e : Ext) (d : Fin 128) (a : LaneSrc) (b : Fin 128) (s : State) : Host.Outcome State Fault Refusal :=
  pureWord (opAB e d a b) rulePlain 1 (fun x => x.a &&& x.b) s
/-- R138: OR. -/
def execOr (e : Ext) (d : Fin 128) (a : LaneSrc) (b : Fin 128) (s : State) : Host.Outcome State Fault Refusal :=
  pureWord (opAB e d a b) rulePlain 1 (fun x => x.a ||| x.b) s
/-- R138: XOR. -/
def execXor (e : Ext) (d : Fin 128) (a : LaneSrc) (b : Fin 128) (s : State) : Host.Outcome State Fault Refusal :=
  pureWord (opAB e d a b) rulePlain 1 (fun x => x.a ^^^ x.b) s
/-- R138: SHL. -/
def execShl (e : Ext) (d : Fin 128) (a : LaneSrc) (b : Fin 128) (s : State) : Host.Outcome State Fault Refusal :=
  pureWord (opAB e d a b) rulePlain 1 (fun x => shlWord x.a x.b) s
/-- R138: SHR.N. -/
def execShrN (e : Ext) (d : Fin 128) (a : LaneSrc) (b : Fin 128) (s : State) : Host.Outcome State Fault Refusal :=
  pureWord (opAB e d a b) rulePlain 1 (fun x => shrNWord x.a x.b) s
/-- R138: SHR.Z. -/
def execShrZ (e : Ext) (d : Fin 128) (a : LaneSrc) (b : Fin 128) (s : State) : Host.Outcome State Fault Refusal :=
  pureWord (opAB e d a b) rulePlain 1 (fun x => shrZWord x.a x.b) s
/-- R137: IMIN.Z. -/
def execIminZ (e : Ext) (d : Fin 128) (a : LaneSrc) (b : Fin 128) (s : State) : Host.Outcome State Fault Refusal :=
  pureWord (opAB e d a b) rulePlain 1 (fun x => if x.b.slt x.a then x.b else x.a) s
/-- R137: IMAX.Z. -/
def execImaxZ (e : Ext) (d : Fin 128) (a : LaneSrc) (b : Fin 128) (s : State) : Host.Outcome State Fault Refusal :=
  pureWord (opAB e d a b) rulePlain 1 (fun x => if x.a.slt x.b then x.b else x.a) s
/-- R137: IMIN.N. -/
def execIminN (e : Ext) (d : Fin 128) (a : LaneSrc) (b : Fin 128) (s : State) : Host.Outcome State Fault Refusal :=
  pureWord (opAB e d a b) rulePlain 1 (fun x => if x.b.ult x.a then x.b else x.a) s
/-- R137: IMAX.N. -/
def execImaxN (e : Ext) (d : Fin 128) (a : LaneSrc) (b : Fin 128) (s : State) : Host.Outcome State Fault Refusal :=
  pureWord (opAB e d a b) rulePlain 1 (fun x => if x.a.ult x.b then x.b else x.a) s
/-- R135: IMULH.Z. -/
def execImulhZ (e : Ext) (d : Fin 128) (a : LaneSrc) (b : Fin 128) (s : State) : Host.Outcome State Fault Refusal :=
  pureWord (opAB e d a b) rulePlain 2 (fun x => highWord (x.a.toInt * x.b.toInt)) s
/-- R135: IMULH.N. -/
def execImulhN (e : Ext) (d : Fin 128) (a : LaneSrc) (b : Fin 128) (s : State) : Host.Outcome State Fault Refusal :=
  pureWord (opAB e d a b) rulePlain 2 (fun x => highWord ((x.a.toNat : Int) * x.b.toNat)) s
/-- R136: IDIV.Z. -/
def execIdivZ (e : Ext) (d : Fin 128) (a : LaneSrc) (b : Fin 128) (s : State) : Host.Outcome State Fault Refusal :=
  pureWord (opAB e d a b) ruleMod1 8 (fun x => if x.mod = 1 then (divZ x.a x.b).2 else (divZ x.a x.b).1) s
/-- R136: IDIV.N. -/
def execIdivN (e : Ext) (d : Fin 128) (a : LaneSrc) (b : Fin 128) (s : State) : Host.Outcome State Fault Refusal :=
  pureWord (opAB e d a b) ruleMod1 8 (fun x => if x.mod = 1 then (divN x.a x.b).2 else (divN x.a x.b).1) s
/-- R140: BFX.N. -/
def execBfxN (e : Ext) (d : Fin 128) (a : LaneSrc) (b : Fin 128) (s : State) : Host.Outcome State Fault Refusal :=
  pureWord (opAB e d a b) rulePlain 1 (fun x => bfxN x.a x.b) s
/-- R140: BFX.Z. -/
def execBfxZ (e : Ext) (d : Fin 128) (a : LaneSrc) (b : Fin 128) (s : State) : Host.Outcome State Fault Refusal :=
  pureWord (opAB e d a b) rulePlain 1 (fun x => bfxZ x.a x.b) s
/-- R140: BFI. -/
def execBfi (e : Ext) (d : Fin 128) (a : LaneSrc) (b : Fin 128) (s : State) : Host.Outcome State Fault Refusal :=
  pureWord (opAB e d a b) rulePlain4 1 (fun x => bfiWord x.a x.b x.c) s

/-- R141: IUN MOV. -/
def execIunMov (e : Ext) (d : Fin 128) (a : LaneSrc) (s : State) : Host.Outcome State Fault Refusal :=
  pureWord (opA e d a) rulePlain 1 (fun x => x.a) s
/-- R141: IUN NOT. -/
def execIunNot (e : Ext) (d : Fin 128) (a : LaneSrc) (s : State) : Host.Outcome State Fault Refusal :=
  pureWord (opA e d a) rulePlain 1 (fun x => ~~~x.a) s
/-- R141: IUN NEG. -/
def execIunNeg (e : Ext) (d : Fin 128) (a : LaneSrc) (s : State) : Host.Outcome State Fault Refusal :=
  pureWord (opA e d a) ruleMod1 1 (fun x => negWord x.mod x.a) s
/-- R141: IUN ABS. -/
def execIunAbs (e : Ext) (d : Fin 128) (a : LaneSrc) (s : State) : Host.Outcome State Fault Refusal :=
  pureWord (opA e d a) ruleMod1 1 (fun x => absWord x.mod x.a) s
/-- R141: IUN POPC. -/
def execIunPopc (e : Ext) (d : Fin 128) (a : LaneSrc) (s : State) : Host.Outcome State Fault Refusal :=
  pureWord (opA e d a) rulePlain 1 (fun x => BitVec.ofNat 32 (popWord x.a)) s
/-- R141: IUN CLZ. -/
def execIunClz (e : Ext) (d : Fin 128) (a : LaneSrc) (s : State) : Host.Outcome State Fault Refusal :=
  pureWord (opA e d a) rulePlain 1 (fun x => BitVec.ofNat 32 (clzWord x.a)) s
/-- R141: IUN CTZ. -/
def execIunCtz (e : Ext) (d : Fin 128) (a : LaneSrc) (s : State) : Host.Outcome State Fault Refusal :=
  pureWord (opA e d a) rulePlain 1 (fun x => BitVec.ofNat 32 (ctzWord x.a)) s
/-- R141: IUN BREV. -/
def execIunBrev (e : Ext) (d : Fin 128) (a : LaneSrc) (s : State) : Host.Outcome State Fault Refusal :=
  pureWord (opA e d a) rulePlain 1 (fun x => brevWord x.a) s
/-- R141: IUN BSWAP. -/
def execIunBswap (e : Ext) (d : Fin 128) (a : LaneSrc) (s : State) : Host.Outcome State Fault Refusal :=
  pureWord (opA e d a) rulePlain 1 (fun x => bswapWord x.a) s
/-- R141: IUN SEXT8. -/
def execIunSext8 (e : Ext) (d : Fin 128) (a : LaneSrc) (s : State) : Host.Outcome State Fault Refusal :=
  pureWord (opA e d a) rulePlain 1 (fun x => (x.a.extractLsb' 0 8).signExtend 32) s
/-- R141: IUN SEXT16. -/
def execIunSext16 (e : Ext) (d : Fin 128) (a : LaneSrc) (s : State) : Host.Outcome State Fault Refusal :=
  pureWord (opA e d a) rulePlain 1 (fun x => (x.a.extractLsb' 0 16).signExtend 32) s
/-- R141: IUN ZEXT8. -/
def execIunZext8 (e : Ext) (d : Fin 128) (a : LaneSrc) (s : State) : Host.Outcome State Fault Refusal :=
  pureWord (opA e d a) rulePlain 1 (fun x => (x.a.extractLsb' 0 8).zeroExtend 32) s
/-- R141: IUN ZEXT16. -/
def execIunZext16 (e : Ext) (d : Fin 128) (a : LaneSrc) (s : State) : Host.Outcome State Fault Refusal :=
  pureWord (opA e d a) rulePlain 1 (fun x => (x.a.extractLsb' 0 16).zeroExtend 32) s
/-- R141: IUN FNEG. -/
def execIunFneg (e : Ext) (d : Fin 128) (a : LaneSrc) (s : State) : Host.Outcome State Fault Refusal :=
  pureWord (opA e d a) rulePlain 1 (fun x => x.a ^^^ 0x80000000#32) s
/-- R141: IUN FABS. -/
def execIunFabs (e : Ext) (d : Fin 128) (a : LaneSrc) (s : State) : Host.Outcome State Fault Refusal :=
  pureWord (opA e d a) rulePlain 1 (fun x => x.a &&& 0x7FFFFFFF#32) s

/-- R142: a compare writes one predicate: `and_` is the and-mode bit. -/
def compareWord (p : Fin 64) (and_ : Bool) (a : LaneSrc) (b : Operand) (cond : Word → Word → Bool) (s : State) :
    Host.Outcome State Fault Refusal :=
  laneWord (compareInfo p a b)
    (fun _ _ g _ t =>
      let y := match b with
        | .lane n => t.lane g.ring n.val
        | .imm x => x
        | .none => 0
      let r := cond (g.src t a 0) y
      (t.setPred p.val (if and_ then t.pred p.val && r else r), false)) s

/-- R142: ICMP. -/
def execIcmp (c : Fin 8) (x : Bool) (p : Fin 64) (a : LaneSrc) (b : Fin 128) (s : State) : Host.Outcome State Fault Refusal :=
  compareWord p x a (.lane b) (intCond c.val) s
/-- R142: ICMPI. -/
def execIcmpi (c : Fin 8) (x : Bool) (p : Fin 64) (a : LaneSrc) (m : BitVec 7) (s : State) : Host.Outcome State Fault Refusal :=
  compareWord p x a (.imm (imm7 m)) (intCond c.val) s
/-- R142: FCMP. -/
def execFcmp (c : Fin 8) (x : Bool) (p : Fin 64) (a : LaneSrc) (b : Fin 128) (s : State) : Host.Outcome State Fault Refusal :=
  compareWord p x a (.lane b) (floatCond c.val) s

end Sys2Proof.Machine
end

