-- ==== Sys2Proof/Machine/PredLane.lean ====
section
/-! DEFINITION. The PRED group and MOVI (R122, R143). -/

namespace Sys2Proof.Machine

/-- R143: a word of the predicate layout. -/
def predWord (d a b : Fin 64) (f : Bool → Bool → Bool) (s : State) : Host.Outcome State Fault Refusal :=
  laneWord (predInfo d) (fun _ _ _ _ t => (t.setPred d.val (f (t.pred a.val) (t.pred b.val)), false)) s

/-- R143. -/
def execPredAnd (b d a : Fin 64) (s : State) : Host.Outcome State Fault Refusal := predWord d a b (· && ·) s
/-- R143. -/
def execPredOr (b d a : Fin 64) (s : State) : Host.Outcome State Fault Refusal := predWord d a b (· || ·) s
/-- R143. -/
def execPredXor (b d a : Fin 64) (s : State) : Host.Outcome State Fault Refusal := predWord d a b (· != ·) s
/-- R143. -/
def execPredAndn (b d a : Fin 64) (s : State) : Host.Outcome State Fault Refusal := predWord d a b (fun x y => x && !y) s
/-- R143. -/
def execPredOrn (b d a : Fin 64) (s : State) : Host.Outcome State Fault Refusal := predWord d a b (fun x y => x || !y) s
/-- R143. -/
def execPredNot (d a : Fin 64) (s : State) : Host.Outcome State Fault Refusal := predWord d a a (fun x _ => !x) s
/-- R143. -/
def execPredMov (d a : Fin 64) (s : State) : Host.Outcome State Fault Refusal := predWord d a a (fun x _ => x) s

/-- R143: what PRED.TOV needs to know of itself. -/
def tovInfo (d : Fin 128) : WordInfo := { blocks := [Block.one d], writesBlock := true, rule := rulePlain }

/-- R143: PRED.TOV. -/
def execPredTov (d : Fin 128) (a : Fin 64) (s : State) : Host.Outcome State Fault Refusal :=
  laneWord (tovInfo d) (fun _ _ g _ t => (t.setLane g.ring d.val (if t.pred a.val then 1 else 0), false)) s

/-- R143: PRED.FROMV. -/
def execPredFromv (d : Fin 64) (a : LaneSrc) (s : State) : Host.Outcome State Fault Refusal :=
  laneWord (compareInfo d a .none) (fun _ _ g _ t => (t.setPred d.val (g.src t a 0 != 0), false)) s

/-- R122: the value that MOVI writes. -/
def moviValue (mod : Nat) (m : BitVec 15) : Word := if mod = 1 then m.zeroExtend 32 <<< 17 else m.signExtend 32

/-- R122: MOVI. -/
def execMovi (e : Ext) (d : Fin 128) (m : BitVec 15) (s : State) : Host.Outcome State Fault Refusal :=
  laneWord (moviInfo e d)
    (fun _ p g _ t => (t.setBlock g.ring (Block.of e d).regs fun _ => moviValue p.mod m, false)) s

end Sys2Proof.Machine
end

