-- ==== Sys2Proof/Machine/Uniform.lean ====
section
/-! DEFINITION. Uniform arithmetic (R153, R154). -/

namespace Sys2Proof.Machine

/-- R153: `sD := f(sA, B)`, with B a register or the sign-extended immediate. -/
def uniAlu (d a : Fin 128) (b : USrc) (f : Word → Word → Word) (s : State) : Host.Outcome State Fault Refusal :=
  uniWrite (uniInfo d (a.val :: usrcReads b)) (fun g => g.setUni d.val (f (g.uni a.val) (g.usrc b))) s

/-- R153: UADD. -/
def execUadd (d a : Fin 128) (b : USrc) (s : State) : Host.Outcome State Fault Refusal :=
  uniAlu d a b (fun x y => narrow 0 (intOf 0 x + intOf 0 y)) s
/-- R153: UADDSATZ. -/
def execUaddSatz (d a : Fin 128) (b : USrc) (s : State) : Host.Outcome State Fault Refusal :=
  uniAlu d a b (fun x y => narrow 1 (intOf 1 x + intOf 1 y)) s
/-- R153: UADDSATN. -/
def execUaddSatn (d a : Fin 128) (b : USrc) (s : State) : Host.Outcome State Fault Refusal :=
  uniAlu d a b (fun x y => narrow 2 (intOf 2 x + intOf 2 y)) s
/-- R153: USUB. -/
def execUsub (d a : Fin 128) (b : USrc) (s : State) : Host.Outcome State Fault Refusal :=
  uniAlu d a b (fun x y => narrow 0 (intOf 0 x - intOf 0 y)) s
/-- R153: USUBSATZ. -/
def execUsubSatz (d a : Fin 128) (b : USrc) (s : State) : Host.Outcome State Fault Refusal :=
  uniAlu d a b (fun x y => narrow 1 (intOf 1 x - intOf 1 y)) s
/-- R153: USUBSATN. -/
def execUsubSatn (d a : Fin 128) (b : USrc) (s : State) : Host.Outcome State Fault Refusal :=
  uniAlu d a b (fun x y => narrow 2 (intOf 2 x - intOf 2 y)) s
/-- R153: UMUL. -/
def execUmul (d a : Fin 128) (b : USrc) (s : State) : Host.Outcome State Fault Refusal :=
  uniAlu d a b (fun x y => x * y) s
/-- R153: UMULHZ. -/
def execUmulhZ (d a : Fin 128) (b : USrc) (s : State) : Host.Outcome State Fault Refusal :=
  uniAlu d a b (fun x y => highWord (x.toInt * y.toInt)) s
/-- R153: UMULHN. -/
def execUmulhN (d a : Fin 128) (b : USrc) (s : State) : Host.Outcome State Fault Refusal :=
  uniAlu d a b (fun x y => highWord ((x.toNat : Int) * y.toNat)) s
/-- R153: UAND. -/
def execUand (d a : Fin 128) (b : USrc) (s : State) : Host.Outcome State Fault Refusal :=
  uniAlu d a b (fun x y => x &&& y) s
/-- R153: UOR. -/
def execUor (d a : Fin 128) (b : USrc) (s : State) : Host.Outcome State Fault Refusal :=
  uniAlu d a b (fun x y => x ||| y) s
/-- R153: UXOR. -/
def execUxor (d a : Fin 128) (b : USrc) (s : State) : Host.Outcome State Fault Refusal :=
  uniAlu d a b (fun x y => x ^^^ y) s
/-- R153: USHL. -/
def execUshl (d a : Fin 128) (b : USrc) (s : State) : Host.Outcome State Fault Refusal :=
  uniAlu d a b (fun x y => shlWord x y) s
/-- R153: USHRN. -/
def execUshrN (d a : Fin 128) (b : USrc) (s : State) : Host.Outcome State Fault Refusal :=
  uniAlu d a b (fun x y => shrNWord x y) s
/-- R153: USHRZ. -/
def execUshrZ (d a : Fin 128) (b : USrc) (s : State) : Host.Outcome State Fault Refusal :=
  uniAlu d a b (fun x y => shrZWord x y) s
/-- R153: UMINZ. -/
def execUminZ (d a : Fin 128) (b : USrc) (s : State) : Host.Outcome State Fault Refusal :=
  uniAlu d a b (fun x y => if y.slt x then y else x) s
/-- R153: UMAXZ. -/
def execUmaxZ (d a : Fin 128) (b : USrc) (s : State) : Host.Outcome State Fault Refusal :=
  uniAlu d a b (fun x y => if x.slt y then y else x) s
/-- R153: UMINN. -/
def execUminN (d a : Fin 128) (b : USrc) (s : State) : Host.Outcome State Fault Refusal :=
  uniAlu d a b (fun x y => if y.ult x then y else x) s
/-- R153: UMAXN. -/
def execUmaxN (d a : Fin 128) (b : USrc) (s : State) : Host.Outcome State Fault Refusal :=
  uniAlu d a b (fun x y => if x.ult y then y else x) s
/-- R153: UFMIN. -/
def execUfmin (d a b : Fin 128) (s : State) : Host.Outcome State Fault Refusal :=
  uniAlu d a (.reg b) fminWord s
/-- R153: UFMAX. -/
def execUfmax (d a b : Fin 128) (s : State) : Host.Outcome State Fault Refusal :=
  uniAlu d a (.reg b) fmaxWord s
/-- R153: UCMP with the ICMP condition FN. -/
def execUcmp (d a : Fin 128) (c : Fin 8) (b : USrc) (s : State) : Host.Outcome State Fault Refusal :=
  uniAlu d a b (fun x y => if intCond c.val x y then 1 else 0) s
/-- R154: UMOVHI. -/
def execUmovhi (d : Fin 128) (m : BitVec 14) (s : State) : Host.Outcome State Fault Refusal :=
  uniWrite (uniInfo d [d.val]) (fun g => g.setUni d.val (m ++ (g.uni d.val).extractLsb' 0 18)) s
/-- R154: UMOVLO. -/
def execUmovlo (d : Fin 128) (m : BitVec 18) (s : State) : Host.Outcome State Fault Refusal :=
  uniWrite (uniInfo d []) (fun g => g.setUni d.val (m.zeroExtend 32)) s

end Sys2Proof.Machine
end

