-- ==== Sys2Proof/Machine/Info.lean ====
section
/-! DEFINITION. What the bits of each word say about it, by constructor, and the static checks of a clause (R43 to R53, R67). -/

namespace Sys2Proof.Machine

/-- ERET: it must be the last word of its clause (R405), like a terminal word (R49). -/
def eretInfo : WordInfo := { plainUInfo [] [] with terminal := true, priv := true }

/-- R406: the number of indices of a group item; none for a number that the table does not list. -/
def ctxIndices (item : Nat) : Option Nat :=
  if item = 0x20 then some 136 else if item = 0x23 then some 4 else if item = 0x24 then some 1
  else if item = 0x25 then some 2 else if item = 0x29 then some 1 else none

/-- `ctx.rd` (R406). -/
def ctxRdInfo (d a : Fin 128) (b : USrc) : WordInfo :=
  { plainUInfo (usrcReads b) [d.val] with priv := true, bad := if (ctxIndices a.val).isSome then none else some 0x01 }

/-- `ctx.rdv` (R406). -/
def ctxRdvInfo (d a : Fin 128) : WordInfo :=
  { plainUInfo [] [] with priv := true, blocks := [Block.one d], writesBlock := true, bad := if a.val ≤ 7 then none else some 0x01 }

/-- `ctx.wr` (R406). -/
def ctxWrInfo (d a : Fin 128) (b : USrc) : WordInfo :=
  { plainUInfo (a.val :: usrcReads b) [] with priv := true, bad := if (ctxIndices d.val).isSome then none else some 0x01 }

/-- `ctx.wrv` (R406). -/
def ctxWrvInfo (d a : Fin 128) : WordInfo :=
  { plainUInfo [] [] with priv := true, blocks := [Block.one a], bad := if d.val ≤ 7 then none else some 0x01 }

/-- `ctx.save` and `ctx.rest` (R407). -/
def sealInfo : WordInfo := { plainUInfo [] [] with memory := true, priv := true }

/-- What issuing a word needs to know of it; a step without a word has none of it, and a PREFIX accepts no PREFIX before it. -/
def infoOf : Instr → WordInfo
  | .pfx _ _ _ _ _ _ _ => {}
  | .iadd e d a b => laneInfo (opAB e d a b) ruleSat 1
  | .isub e d a b => laneInfo (opAB e d a b) ruleSat 1
  | .imul e d a b => laneInfo (opAB e d a b) ruleSat 2
  | .imad e d a b => laneInfo (opAB e d a b) ruleSat4 2
  | .iaddi e d a m => laneInfo (opAI e d a (imm7 m)) ruleSat 1
  | .ishiShl e d a _ => laneInfo (opA e d a) rulePlain 1
  | .ishiShrN e d a _ => laneInfo (opA e d a) rulePlain 1
  | .ishiShrZ e d a _ => laneInfo (opA e d a) rulePlain 1
  | .ishiRol e d a _ => laneInfo (opA e d a) rulePlain 1
  | .and e d a b => laneInfo (opAB e d a b) rulePlain 1
  | .or e d a b => laneInfo (opAB e d a b) rulePlain 1
  | .xor e d a b => laneInfo (opAB e d a b) rulePlain 1
  | .shl e d a b => laneInfo (opAB e d a b) rulePlain 1
  | .shrN e d a b => laneInfo (opAB e d a b) rulePlain 1
  | .shrZ e d a b => laneInfo (opAB e d a b) rulePlain 1
  | .iminZ e d a b => laneInfo (opAB e d a b) rulePlain 1
  | .imaxZ e d a b => laneInfo (opAB e d a b) rulePlain 1
  | .iminN e d a b => laneInfo (opAB e d a b) rulePlain 1
  | .imaxN e d a b => laneInfo (opAB e d a b) rulePlain 1
  | .imulhZ e d a b => laneInfo (opAB e d a b) rulePlain 2
  | .imulhN e d a b => laneInfo (opAB e d a b) rulePlain 2
  | .idivZ e d a b => laneInfo (opAB e d a b) ruleMod1 8
  | .idivN e d a b => laneInfo (opAB e d a b) ruleMod1 8
  | .iunMov e d a => laneInfo (opA e d a) rulePlain 1
  | .iunNot e d a => laneInfo (opA e d a) rulePlain 1
  | .iunNeg e d a => laneInfo (opA e d a) ruleMod1 1
  | .iunAbs e d a => laneInfo (opA e d a) ruleMod1 1
  | .iunPopc e d a => laneInfo (opA e d a) rulePlain 1
  | .iunClz e d a => laneInfo (opA e d a) rulePlain 1
  | .iunCtz e d a => laneInfo (opA e d a) rulePlain 1
  | .iunBrev e d a => laneInfo (opA e d a) rulePlain 1
  | .iunBswap e d a => laneInfo (opA e d a) rulePlain 1
  | .iunSext8 e d a => laneInfo (opA e d a) rulePlain 1
  | .iunSext16 e d a => laneInfo (opA e d a) rulePlain 1
  | .iunZext8 e d a => laneInfo (opA e d a) rulePlain 1
  | .iunZext16 e d a => laneInfo (opA e d a) rulePlain 1
  | .iunFneg e d a => laneInfo (opA e d a) rulePlain 1
  | .iunFabs e d a => laneInfo (opA e d a) rulePlain 1
  | .bfxN e d a b => laneInfo (opAB e d a b) rulePlain 1
  | .bfxZ e d a b => laneInfo (opAB e d a b) rulePlain 1
  | .bfi e d a b => laneInfo (opAB e d a b) rulePlain4 1
  | .icmp _ _ p a b => compareInfo p a (.lane b)
  | .icmpi _ _ p a m => compareInfo p a (.imm (imm7 m))
  | .fcmp _ _ p a b => compareInfo p a (.lane b)
  | .predAnd _ d _ => predInfo d
  | .predOr _ d _ => predInfo d
  | .predXor _ d _ => predInfo d
  | .predAndn _ d _ => predInfo d
  | .predOrn _ d _ => predInfo d
  | .predNot d _ => predInfo d
  | .predMov d _ => predInfo d
  | .predTov d _ => tovInfo d
  | .predFromv d a => compareInfo d a .none
  | .fadd e d a b => laneInfo (opAB e d a b) ruleRnd1 1
  | .fsub e d a b => laneInfo (opAB e d a b) ruleRnd1 1
  | .fmul e d a b => laneInfo (opAB e d a b) ruleRnd1 1
  | .ffma e d a b => laneInfo (opAB e d a b) ruleRnd1F 1
  | .fmin e d a b => laneInfo (opAB e d a b) rulePlain 1
  | .fmax e d a b => laneInfo (opAB e d a b) rulePlain 1
  | .fdiv e d a b => laneInfo (opAB e d a b) ruleRnd1 4
  | .funRcp e d a => laneInfo (opA e d a) ruleRnd 4 true
  | .funRsqrt e d a => laneInfo (opA e d a) ruleRnd 4 true
  | .funSqrt e d a => laneInfo (opA e d a) ruleRnd 4 true
  | .funExp2 e d a => laneInfo (opA e d a) ruleRnd 4 true
  | .funLog2 e d a => laneInfo (opA e d a) ruleRnd 4 true
  | .funSinpi e d a => laneInfo (opA e d a) ruleRnd 4 true
  | .funCospi e d a => laneInfo (opA e d a) ruleRnd 4 true
  | .funTanh e d a => laneInfo (opA e d a) ruleRnd 4 true
  | .funLogistic e d a => laneInfo (opA e d a) ruleRnd 4 true
  | .hadd2 e d a b => laneInfo (opAB e d a b) ruleRnd1 1
  | .hmul2 e d a b => laneInfo (opAB e d a b) ruleRnd1 1
  | .hfma2 e d a b => laneInfo (opAB e d a b) ruleRndF 1
  | .bfma2 e d a b => laneInfo (opAB e d a b) ruleRndF 1
  | .ladd e d a b => laneInfo (opAB e d a b) ruleRnd1 2
  | .lmul e d a b => laneInfo (opAB e d a b) ruleRnd1 1
  | .cvtF16F32 e d a => laneInfo (opA e d a) (ruleCvt (cvtPacked (.float .f32) (.float .f16)) true) 1
  | .cvtBf16F32 e d a => laneInfo (opA e d a) (ruleCvt (cvtPacked (.float .f32) (.float .bf16)) true) 1
  | .cvtF32F16 e d a => laneInfo (opA e d a) (ruleCvt (cvtPacked (.float .f16) (.float .f32)) false) 1
  | .cvtF32Bf16 e d a => laneInfo (opA e d a) (ruleCvt (cvtPacked (.float .bf16) (.float .f32)) false) 1
  | .cvtE4m3F32 e d a => laneInfo (opA e d a) (ruleCvt (cvtPacked (.float .f32) (.float .e4m3)) true) 1
  | .cvtE5m2F32 e d a => laneInfo (opA e d a) (ruleCvt (cvtPacked (.float .f32) (.float .e5m2)) true) 1
  | .cvtF32E4m3 e d a => laneInfo (opA e d a) (ruleCvt (cvtPacked (.float .e4m3) (.float .f32)) false) 1
  | .cvtF32E5m2 e d a => laneInfo (opA e d a) (ruleCvt (cvtPacked (.float .e5m2) (.float .f32)) false) 1
  | .cvtZ32F32 e d a => laneInfo (opA e d a) (ruleCvt (cvtPacked (.float .f32) (.int ⟨32, true⟩)) true) 1
  | .cvtN32F32 e d a => laneInfo (opA e d a) (ruleCvt (cvtPacked (.float .f32) (.int ⟨32, false⟩)) true) 1
  | .cvtF32Z32 e d a => laneInfo (opA e d a) (ruleCvt (cvtPacked (.int ⟨32, true⟩) (.float .f32)) true) 1
  | .cvtF32N32 e d a => laneInfo (opA e d a) (ruleCvt (cvtPacked (.int ⟨32, false⟩) (.float .f32)) true) 1
  | .cvtZ16F32 e d a => laneInfo (opA e d a) (ruleCvt (cvtPacked (.float .f32) (.int ⟨16, true⟩)) true) 1
  | .cvtN16F32 e d a => laneInfo (opA e d a) (ruleCvt (cvtPacked (.float .f32) (.int ⟨16, false⟩)) true) 1
  | .cvtZ8F32 e d a => laneInfo (opA e d a) (ruleCvt (cvtPacked (.float .f32) (.int ⟨8, true⟩)) true) 1
  | .cvtN8F32 e d a => laneInfo (opA e d a) (ruleCvt (cvtPacked (.float .f32) (.int ⟨8, false⟩)) true) 1
  | .cvtF32Z8 e d a => laneInfo (opA e d a) (ruleCvt (cvtPacked (.int ⟨8, true⟩) (.float .f32)) false) 1
  | .cvtF32N8 e d a => laneInfo (opA e d a) (ruleCvt (cvtPacked (.int ⟨8, false⟩) (.float .f32)) false) 1
  | .cvtF32Z16 e d a => laneInfo (opA e d a) (ruleCvt (cvtPacked (.int ⟨16, true⟩) (.float .f32)) false) 1
  | .cvtF32N16 e d a => laneInfo (opA e d a) (ruleCvt (cvtPacked (.int ⟨16, false⟩) (.float .f32)) false) 1
  | .cvtZ16Z32 e d a => laneInfo (opA e d a) (ruleCvt (cvtPacked (.int ⟨32, true⟩) (.int ⟨16, true⟩)) false) 1
  | .cvtN16Z32 e d a => laneInfo (opA e d a) (ruleCvt (cvtPacked (.int ⟨32, true⟩) (.int ⟨16, false⟩)) false) 1
  | .cvtZ8Z32 e d a => laneInfo (opA e d a) (ruleCvt (cvtPacked (.int ⟨32, true⟩) (.int ⟨8, true⟩)) false) 1
  | .cvtN8Z32 e d a => laneInfo (opA e d a) (ruleCvt (cvtPacked (.int ⟨32, true⟩) (.int ⟨8, false⟩)) false) 1
  | .cvtL16F32 e d a => laneInfo (opA e d a) (ruleCvt (cvtPacked (.float .f32) (.log .l16)) true) 4 true
  | .cvtF32L16 e d a => laneInfo (opA e d a) (ruleCvt (cvtPacked (.log .l16) (.float .f32)) true) 4 true
  | .cvtL8F32 e d a => laneInfo (opA e d a) (ruleCvt (cvtPacked (.float .f32) (.log .l8)) true) 4 true
  | .cvtF32L8 e d a => laneInfo (opA e d a) (ruleCvt (cvtPacked (.log .l8) (.float .f32)) true) 4 true
  | .cvtZ8Tn5lo e d a => laneInfo (opA e d a) ruleTn5 1
  | .cvtZ8Tn5hi e d a => laneInfo (opA e d a) ruleTn5 1
  | .cvtTn5Z8 e d a => laneInfo (opA e d a) ruleTn5F 1
  | .qntMxp f d a => qntInfo d a true false (qntMx f).isSome
  | .qntMxu f d a => qntInfo d a false false (qntMx f).isSome
  | .qntAqp f d a => qntInfo d a true true (qntAq f).isSome
  | .qntAqu f d a => qntInfo d a false true (qntAq f).isSome
  | .ld e d _ w i => ldInfo e d w.val i
  | .st e d _ w i => stInfo e d w.val i
  | .lda e d _ t i => ldaInfo e d t i
  | .amoNAdd d _ w i => amoInfo 0 d w.val i
  | .amoNMin d _ w i => amoInfo 1 d w.val i
  | .amoNMax d _ w i => amoInfo 2 d w.val i
  | .amoNAnd d _ w i => amoInfo 3 d w.val i
  | .amoNOr d _ w i => amoInfo 4 d w.val i
  | .amoNXor d _ w i => amoInfo 5 d w.val i
  | .amoNXchg d _ w i => amoInfo 6 d w.val i
  | .amoNCas d _ w i => amoInfo 7 d w.val i
  | .amoFAdd d _ w i => amoInfo 0 d w.val i
  | .amoFMin d _ w i => amoInfo 1 d w.val i
  | .amoFMax d _ w i => amoInfo 2 d w.val i
  | .amoFAnd d _ w i => amoInfo 3 d w.val i
  | .amoFOr d _ w i => amoInfo 4 d w.val i
  | .amoFXor d _ w i => amoInfo 5 d w.val i
  | .amoFXchg d _ w i => amoInfo 6 d w.val i
  | .amoFCas d _ w i => amoInfo 7 d w.val i
  | .amoCAdd d _ w i => amoInfo 0 d w.val i
  | .amoCMin d _ w i => amoInfo 1 d w.val i
  | .amoCMax d _ w i => amoInfo 2 d w.val i
  | .amoCAnd d _ w i => amoInfo 3 d w.val i
  | .amoCOr d _ w i => amoInfo 4 d w.val i
  | .amoCXor d _ w i => amoInfo 5 d w.val i
  | .amoCXchg d _ w i => amoInfo 6 d w.val i
  | .amoCCas d _ w i => amoInfo 7 d w.val i
  | .amoRAdd d _ i => amoRInfo d i
  | .bredAdd d _ w i => bredInfo 0 d w.val i
  | .bredMin d _ w i => bredInfo 1 d w.val i
  | .bredMax d _ w i => bredInfo 2 d w.val i
  | .bredAnd d _ w i => bredInfo 3 d w.val i
  | .bredOr d _ w i => bredInfo 4 d w.val i
  | .bredXor d _ w i => bredInfo 5 d w.val i
  | .memcFence => fenceInfo
  | .memcFenceLd => fenceInfo
  | .memcFenceSt => fenceInfo
  | .memcPf d _ => cacheInfo (some d)
  | .memcPfl1 d _ => cacheInfo (some d)
  | .memcWbl d _ => cacheInfo (some d)
  | .memcInvl d _ => cacheInfo (some d)
  | .memcWbL1 => cacheInfo none
  | .memcInvL1 => cacheInfo none
  | .xlnBallot d _ => voteInfo (some d) none
  | .xlnAll d _ => voteInfo none (some d)
  | .xlnAny d _ => voteInfo none (some d)
  | .xlnCount d _ => voteInfo (some d) none
  | .xlnMatch e d a => xlnInfo e d a false
  | .xlnRadd e d a => xlnInfo e d a false
  | .xlnRminZ e d a => xlnInfo e d a false
  | .xlnRmaxZ e d a => xlnInfo e d a false
  | .xlnRminN e d a => xlnInfo e d a false
  | .xlnRmaxN e d a => xlnInfo e d a false
  | .xlnRand e d a => xlnInfo e d a false
  | .xlnRor e d a => xlnInfo e d a false
  | .xlnRxor e d a => xlnInfo e d a false
  | .xlnRfadd e d a => xlnInfo e d a true
  | .xlnRfmin e d a => xlnInfo e d a false
  | .xlnRfmax e d a => xlnInfo e d a false
  | .xlnIscanAdd e d a => xlnInfo e d a false
  | .xlnXscanAdd e d a => xlnInfo e d a false
  | .xlnIscanFadd e d a => xlnInfo e d a true
  | .xlnXscanFadd e d a => xlnInfo e d a true
  | .xlnIscanMinZ e d a => xlnInfo e d a false
  | .xlnIscanMaxZ e d a => xlnInfo e d a false
  | .xlnIscanOr e d a => xlnInfo e d a false
  | .shfl e d a b => shflInfo e d a b
  | .xbar e d a x => xbarInfo e d a x
  | .mma _ _ a b => mmaInfo a b
  | .mmaZ _ _ a b => mmaInfo a b
  | .maccZero _ => maccInfo [0, 1] false false
  | .maccRd e d w _ => maccBlockInfo e d w true
  | .maccWr e d w _ => maccBlockInfo e d w false
  | .maccDrs _ d _ => drainInfo d
  | .maccDrm _ d _ _ => drainInfo d
  | .maccDrsZ _ d _ => drainInfo d
  | .maccDrmZ _ d _ _ => drainInfo d
  | .movi e d _ => moviInfo e d
  | .plyPut e _ a => putInfo e a
  | .plyGet e d t _ => getInfo e d t
  | .plyBrx _ => { flowInfo [] with memory := true }
  | .br _ _ rec_ _ => brInfo rec_
  | .call _ => flowInfo []
  | .ret => flowInfo []
  | .bri a => flowInfo [Block.one a]
  | .exit => flowInfo []
  | .rcv => flowInfo []
  | .barTeam _ => { flowInfo [] with memory := true }
  | .barClu _ => { flowInfo [] with memory := true }
  | .yield => flowInfo []
  | .trapc _ _ _ => flowInfo []
  | .loopr c step o => looprInfo c step o
  | .uadd d a b => uniInfo d (a.val :: usrcReads b)
  | .uaddSatz d a b => uniInfo d (a.val :: usrcReads b)
  | .uaddSatn d a b => uniInfo d (a.val :: usrcReads b)
  | .usub d a b => uniInfo d (a.val :: usrcReads b)
  | .usubSatz d a b => uniInfo d (a.val :: usrcReads b)
  | .usubSatn d a b => uniInfo d (a.val :: usrcReads b)
  | .umul d a b => uniInfo d (a.val :: usrcReads b)
  | .umulhZ d a b => uniInfo d (a.val :: usrcReads b)
  | .umulhN d a b => uniInfo d (a.val :: usrcReads b)
  | .uand d a b => uniInfo d (a.val :: usrcReads b)
  | .uor d a b => uniInfo d (a.val :: usrcReads b)
  | .uxor d a b => uniInfo d (a.val :: usrcReads b)
  | .ushl d a b => uniInfo d (a.val :: usrcReads b)
  | .ushrN d a b => uniInfo d (a.val :: usrcReads b)
  | .ushrZ d a b => uniInfo d (a.val :: usrcReads b)
  | .uminZ d a b => uniInfo d (a.val :: usrcReads b)
  | .umaxZ d a b => uniInfo d (a.val :: usrcReads b)
  | .uminN d a b => uniInfo d (a.val :: usrcReads b)
  | .umaxN d a b => uniInfo d (a.val :: usrcReads b)
  | .ufmin d a b => uniInfo d [a.val, b.val]
  | .ufmax d a b => uniInfo d [a.val, b.val]
  | .ucmp d a _ b => uniInfo d (a.val :: usrcReads b)
  | .umovhi d _ => uniInfo d [d.val]
  | .umovlo d _ => uniInfo d []
  | .bra _ => { uniform := true, reads := [], terminal := true }
  | .braZ c _ => { uniform := true, reads := [c.val], terminal := true }
  | .braNz c _ => { uniform := true, reads := [c.val], terminal := true }
  | .uld d a _ => uldInfo d a 1
  | .uldZ8 d a _ => uldInfo d a 1
  | .uldN8 d a _ => uldInfo d a 1
  | .uldZ16 d a _ => uldInfo d a 1
  | .uldN16 d a _ => uldInfo d a 1
  | .uld64 d a _ => uldInfo d a 2
  | .uld128 d a _ => uldInfo d a 4
  | .ust d a _ => ustInfo d a 1
  | .ust8 d a _ => ustInfo d a 1
  | .ust16 d a _ => ustInfo d a 1
  | .ust64 d a _ => ustInfo d a 2
  | .ust128 d a _ => ustInfo d a 4
  | .sread d a => specialInfo a [d.val] []
  | .sreadV d a => specialInfo a [] [] [Block.one d]
  | .sreadClr d a b => specialInfo a [d.val] (usrcReads b)
  | .sreadXchg d a b => specialInfo a [d.val] [b.val]
  | .swrite d a => specialInfo d [] [a.val]
  | .segld _ a => quadReadInfo a true
  | .segrd d _ => quadWriteInfo d true
  | .recld _ a => quadReadInfo a
  | .recrd d _ => quadWriteInfo d
  | .recsetBase _ a b => recsetInfo [a.val, b.val]
  | .recsetExt _ b => recsetInfo (usrcReads b)
  | .recsetStride _ b => recsetInfo (usrcReads b)
  | .recsetSwz _ b => recsetInfo (usrcReads b)
  | .recsetTag _ b => recsetInfo (usrcReads b)
  | .recsetFlags _ b => recsetInfo (usrcReads b)
  | .recsetAdv _ b => recsetInfo (usrcReads b)
  | .recsetFmt _ b => recsetInfo (usrcReads b)
  | .acq => acqInfo []
  | .acqTry d => acqInfo [d.val]
  | .acqRel => acqInfo []
  | .cvset _ a => plainUInfo [a.val] []
  | .cvsetAll _ => plainUInfo [] []
  | .cvrd d _ => cvrdInfo d
  | .mcfg a => plainUInfo [a.val] []
  | .mcfgRd d => plainUInfo [] [d.val]
  | .hwaitFull d _ => plainUInfo [] [d.val]
  | .hwaitFree d _ => plainUInfo [] [d.val]
  | .hrel _ => handleInfo
  | .hcommit _ => handleInfo
  | .hqry d _ => plainUInfo [] [d.val]
  | .hqryBase d _ => plainUInfo [] [d.val]
  | .hqryTile d _ => plainUInfo [] [d.val]
  | .hqryScr d => plainUInfo [] [d.val]
  | .hqryCore d => plainUInfo [] [d.val]
  | .mvx d a => mvxInfo d a
  | .mvxC d a => mvxInfo d a
  | .mvxB d a => mvxInfo d a
  | .plycOpen _ => plycInfo [] (memory := true)
  | .plycOpenDrop _ => plycInfo [] (memory := true)
  | .plycClose => plycInfo []
  | .plycRev => plycInfo []
  | .plycMark d => plycInfo [d.val] (memory := true)
  | .plycStat d => plycInfo (regRun d.val 3) (if 125 < d.val then some 0x02 else none)
  | .xpld x a _ => xpldInfo x a
  | .tsyncAll => plainUInfo [] []
  | .tsyncPoll d a => pollInfo d a
  | .tsyncCount d => plainUInfo [] [d.val]
  | .tsyncPips d => plainUInfo [] [d.val]
  | .resv d a _ => resvInfo d a
  | .launch d a => launchInfo d a
  | .tktWait d => { plainUInfo [] [d.val] with memory := true }
  | .tktPost => { plainUInfo [] [] with memory := true, effect := true }
  | .trapImm _ => plainUInfo [] []
  | .trapReg b => plainUInfo [b.val] []
  | .eret => eretInfo
  | .eretStep => eretInfo
  | .eretKill => eretInfo
  | .eretOut => eretInfo
  | .ctxRd d a b => ctxRdInfo d a b
  | .ctxRdv d a => ctxRdvInfo d a
  | .ctxWr d a b => ctxWrInfo d a b
  | .ctxWrv d a => ctxWrvInfo d a
  | .ctxSave _ => sealInfo
  | .ctxRest _ => sealInfo
  | .pickerFormBundle _ _ => {}
  | .swapOut _ _ => {}
  | .groupStarved _ _ => {}
  | .starvedSwapIn _ _ => {}
  | .yieldExpiry _ _ _ => {}
  | .pipOperationComplete _ => {}
  | .groupRetire _ _ => {}
  | .acqGrant _ => {}
  | .l1DirtyWriteback _ _ => {}
  | .faultAnswerResume _ _ => {}
  | .faultAnswerFail _ _ => {}
  | .uldDataReturn _ => {}
  | .xpldDataReturn _ => {}
  | .atomicElementPerformed _ _ => {}
  | .atomicPoisonReport _ _ => {}
  | .bredUpdate _ _ => {}
  | .barrierTimeout _ _ _ _ => {}
  | .streamFillStart _ _ _ => {}
  | .streamFillComplete _ _ _ => {}
  | .outputDrainComplete _ _ _ => {}
  | .reservationPost _ _ _ => {}
  | .quorumTimeout _ _ _ => {}
  | .passStart _ _ => {}
  | .passComplete _ _ => {}
  | .matrixDrainStart _ _ => {}
  | .matrixDrainComplete _ _ => {}
  | .mvxEntryPost _ => {}
  | .mvxComplete _ => {}
  | .plyGetComplete _ => {}
  | .ldaComplete _ => {}
  | .launchAccept _ => {}
  | .clusterDispatch _ _ _ _ => {}
  | .spillWaitExpiry _ => {}
  | .launchComplete _ => {}
  | .ticketAutoPost _ _ => {}
  | .trapDelivery _ _ => {}
  | .watchdogExpiry _ _ => {}
  | .preemptionRequest _ _ => {}
  | .contextRestore _ _ => {}
  | .invalidationRequest _ => {}
  | .invalidationComplete => {}
  | .regionSwitch => {}
  | .regionSwitchComplete => {}
  | .mscBlockWriteback _ => {}
  | .uncorrectableEccError _ => {}
  | .sqtailDoorbell _ _ => {}
  | .cqheadDoorbell _ _ => {}
  | .submissionEntry _ => {}
  | .functionLevelReset _ => {}
  | .powerUpReset => {}
  | .powerDown => {}
  | .linkIntegrityFailure _ => {}
  | .peerLinkFailure _ => {}
  | .peerRequest _ _ _ => {}
  | .hostCxlMemAccess _ _ => {}
  | .hostSnoop _ => {}
  | .hostCxlioPostedWrite _ _ => {}
  | .hostCxlioRead _ _ => {}
  | .thermalThrottle _ _ => {}
  | .thermalIssueStop _ => {}
  | .thermalIssueResume _ => {}
  | .thermalPowerOff _ => {}
  | .unitRetire _ _ => {}
  | .keySlotInstall _ _ => {}
  | .healthRead _ => {}
  | .registerWrite _ _ _ => {}
  | .hostTranslationRequest _ _ _ => {}
  | .activationRequest _ => {}
  | .linkRetrainComplete _ => {}
  | .linkKeyEstablishment _ => {}

/-! ### The same from the bits of a word

An `Instr` cannot be built in compiled code (Decode), and the picker needs no instruction, only this. `infoAt w` is `infoOf` of the
decoded word. -/

/-- The rows of `buildsOf`, each giving what `infoOf` says of the instruction that it builds. -/
def infosOf : Nat → List (Nat → WordInfo)
  | 0x00 => [fun wd => laneInfo (opAB (fld wd 22 3) (fld wd 15 7) (srcOf wd 7) (fld wd 0 7)) ruleSat 1]
  | 0x01 => [fun wd => laneInfo (opAB (fld wd 22 3) (fld wd 15 7) (srcOf wd 7) (fld wd 0 7)) ruleSat 1]
  | 0x02 => [fun wd => laneInfo (opAB (fld wd 22 3) (fld wd 15 7) (srcOf wd 7) (fld wd 0 7)) ruleSat 2]
  | 0x03 => [fun wd => laneInfo (opAB (fld wd 22 3) (fld wd 15 7) (srcOf wd 7) (fld wd 0 7)) ruleSat4 2]
  | 0x04 => [fun wd => laneInfo (opAI (fld wd 22 3) (fld wd 15 7) (srcOf wd 7) (imm7 (bits wd 0 7))) ruleSat 1]
  | 0x05 => [fun wd => laneInfo (opA (fld wd 22 3) (fld wd 15 7) (srcOf wd 7)) rulePlain 1,
      fun wd => laneInfo (opA (fld wd 22 3) (fld wd 15 7) (srcOf wd 7)) rulePlain 1,
      fun wd => laneInfo (opA (fld wd 22 3) (fld wd 15 7) (srcOf wd 7)) rulePlain 1,
      fun wd => laneInfo (opA (fld wd 22 3) (fld wd 15 7) (srcOf wd 7)) rulePlain 1]
  | 0x06 => [fun wd => laneInfo (opAB (fld wd 22 3) (fld wd 15 7) (srcOf wd 7) (fld wd 0 7)) rulePlain 1]
  | 0x07 => [fun wd => laneInfo (opAB (fld wd 22 3) (fld wd 15 7) (srcOf wd 7) (fld wd 0 7)) rulePlain 1]
  | 0x08 => [fun wd => laneInfo (opAB (fld wd 22 3) (fld wd 15 7) (srcOf wd 7) (fld wd 0 7)) rulePlain 1]
  | 0x09 => [fun wd => laneInfo (opAB (fld wd 22 3) (fld wd 15 7) (srcOf wd 7) (fld wd 0 7)) rulePlain 1]
  | 0x0A => [fun wd => laneInfo (opAB (fld wd 22 3) (fld wd 15 7) (srcOf wd 7) (fld wd 0 7)) rulePlain 1]
  | 0x0B => [fun wd => laneInfo (opAB (fld wd 22 3) (fld wd 15 7) (srcOf wd 7) (fld wd 0 7)) rulePlain 1]
  | 0x0C => [fun wd => laneInfo (opAB (fld wd 22 3) (fld wd 15 7) (srcOf wd 7) (fld wd 0 7)) rulePlain 1]
  | 0x0D => [fun wd => laneInfo (opAB (fld wd 22 3) (fld wd 15 7) (srcOf wd 7) (fld wd 0 7)) rulePlain 1]
  | 0x0E => [fun wd => laneInfo (opAB (fld wd 22 3) (fld wd 15 7) (srcOf wd 7) (fld wd 0 7)) rulePlain 1]
  | 0x0F => [fun wd => laneInfo (opAB (fld wd 22 3) (fld wd 15 7) (srcOf wd 7) (fld wd 0 7)) rulePlain 1]
  | 0x10 => [fun wd => laneInfo (opAB (fld wd 22 3) (fld wd 15 7) (srcOf wd 7) (fld wd 0 7)) rulePlain 2]
  | 0x11 => [fun wd => laneInfo (opAB (fld wd 22 3) (fld wd 15 7) (srcOf wd 7) (fld wd 0 7)) rulePlain 2]
  | 0x12 => [fun wd => laneInfo (opAB (fld wd 22 3) (fld wd 15 7) (srcOf wd 7) (fld wd 0 7)) ruleMod1 8]
  | 0x13 => [fun wd => laneInfo (opAB (fld wd 22 3) (fld wd 15 7) (srcOf wd 7) (fld wd 0 7)) ruleMod1 8]
  | 0x14 => [fun wd => laneInfo (opA (fld wd 22 3) (fld wd 15 7) (srcOf wd 7)) rulePlain 1,
      fun wd => laneInfo (opA (fld wd 22 3) (fld wd 15 7) (srcOf wd 7)) rulePlain 1,
      fun wd => laneInfo (opA (fld wd 22 3) (fld wd 15 7) (srcOf wd 7)) ruleMod1 1,
      fun wd => laneInfo (opA (fld wd 22 3) (fld wd 15 7) (srcOf wd 7)) ruleMod1 1,
      fun wd => laneInfo (opA (fld wd 22 3) (fld wd 15 7) (srcOf wd 7)) rulePlain 1,
      fun wd => laneInfo (opA (fld wd 22 3) (fld wd 15 7) (srcOf wd 7)) rulePlain 1,
      fun wd => laneInfo (opA (fld wd 22 3) (fld wd 15 7) (srcOf wd 7)) rulePlain 1,
      fun wd => laneInfo (opA (fld wd 22 3) (fld wd 15 7) (srcOf wd 7)) rulePlain 1,
      fun wd => laneInfo (opA (fld wd 22 3) (fld wd 15 7) (srcOf wd 7)) rulePlain 1,
      fun wd => laneInfo (opA (fld wd 22 3) (fld wd 15 7) (srcOf wd 7)) rulePlain 1,
      fun wd => laneInfo (opA (fld wd 22 3) (fld wd 15 7) (srcOf wd 7)) rulePlain 1,
      fun wd => laneInfo (opA (fld wd 22 3) (fld wd 15 7) (srcOf wd 7)) rulePlain 1,
      fun wd => laneInfo (opA (fld wd 22 3) (fld wd 15 7) (srcOf wd 7)) rulePlain 1,
      fun wd => laneInfo (opA (fld wd 22 3) (fld wd 15 7) (srcOf wd 7)) rulePlain 1,
      fun wd => laneInfo (opA (fld wd 22 3) (fld wd 15 7) (srcOf wd 7)) rulePlain 1]
  | 0x15 => [fun wd => laneInfo (opAB (fld wd 22 3) (fld wd 15 7) (srcOf wd 7) (fld wd 0 7)) rulePlain 1]
  | 0x16 => [fun wd => laneInfo (opAB (fld wd 22 3) (fld wd 15 7) (srcOf wd 7) (fld wd 0 7)) rulePlain 1]
  | 0x17 => [fun wd => laneInfo (opAB (fld wd 22 3) (fld wd 15 7) (srcOf wd 7) (fld wd 0 7)) rulePlain4 1]
  | 0x18 => [fun wd => compareInfo (fld wd 15 6) (srcOf wd 7) (.lane (fld wd 0 7))]
  | 0x19 => [fun wd => compareInfo (fld wd 15 6) (srcOf wd 7) (.imm (imm7 (bits wd 0 7)))]
  | 0x1A => [fun wd => compareInfo (fld wd 15 6) (srcOf wd 7) (.lane (fld wd 0 7))]
  | 0x1B => [fun wd => predInfo (fld wd 13 6),
      fun wd => predInfo (fld wd 13 6),
      fun wd => predInfo (fld wd 13 6),
      fun wd => predInfo (fld wd 13 6),
      fun wd => predInfo (fld wd 13 6),
      fun wd => predInfo (fld wd 13 6),
      fun wd => predInfo (fld wd 13 6),
      fun wd => tovInfo (fld wd 15 7),
      fun wd => compareInfo (fld wd 15 6) (srcOf wd 7) .none]
  | 0x1C => [fun wd => laneInfo (opAB (fld wd 22 3) (fld wd 15 7) (srcOf wd 7) (fld wd 0 7)) ruleRnd1 1]
  | 0x1D => [fun wd => laneInfo (opAB (fld wd 22 3) (fld wd 15 7) (srcOf wd 7) (fld wd 0 7)) ruleRnd1 1]
  | 0x1E => [fun wd => laneInfo (opAB (fld wd 22 3) (fld wd 15 7) (srcOf wd 7) (fld wd 0 7)) ruleRnd1 1]
  | 0x1F => [fun wd => laneInfo (opAB (fld wd 22 3) (fld wd 15 7) (srcOf wd 7) (fld wd 0 7)) ruleRnd1F 1]
  | 0x20 => [fun wd => laneInfo (opAB (fld wd 22 3) (fld wd 15 7) (srcOf wd 7) (fld wd 0 7)) rulePlain 1]
  | 0x21 => [fun wd => laneInfo (opAB (fld wd 22 3) (fld wd 15 7) (srcOf wd 7) (fld wd 0 7)) rulePlain 1]
  | 0x22 => [fun wd => laneInfo (opAB (fld wd 22 3) (fld wd 15 7) (srcOf wd 7) (fld wd 0 7)) ruleRnd1 4]
  | 0x23 => [fun wd => laneInfo (opA (fld wd 22 3) (fld wd 15 7) (srcOf wd 7)) ruleRnd 4 true,
      fun wd => laneInfo (opA (fld wd 22 3) (fld wd 15 7) (srcOf wd 7)) ruleRnd 4 true,
      fun wd => laneInfo (opA (fld wd 22 3) (fld wd 15 7) (srcOf wd 7)) ruleRnd 4 true,
      fun wd => laneInfo (opA (fld wd 22 3) (fld wd 15 7) (srcOf wd 7)) ruleRnd 4 true,
      fun wd => laneInfo (opA (fld wd 22 3) (fld wd 15 7) (srcOf wd 7)) ruleRnd 4 true,
      fun wd => laneInfo (opA (fld wd 22 3) (fld wd 15 7) (srcOf wd 7)) ruleRnd 4 true,
      fun wd => laneInfo (opA (fld wd 22 3) (fld wd 15 7) (srcOf wd 7)) ruleRnd 4 true,
      fun wd => laneInfo (opA (fld wd 22 3) (fld wd 15 7) (srcOf wd 7)) ruleRnd 4 true,
      fun wd => laneInfo (opA (fld wd 22 3) (fld wd 15 7) (srcOf wd 7)) ruleRnd 4 true]
  | 0x24 => [fun wd => laneInfo (opAB (fld wd 22 3) (fld wd 15 7) (srcOf wd 7) (fld wd 0 7)) ruleRnd1 1]
  | 0x25 => [fun wd => laneInfo (opAB (fld wd 22 3) (fld wd 15 7) (srcOf wd 7) (fld wd 0 7)) ruleRnd1 1]
  | 0x26 => [fun wd => laneInfo (opAB (fld wd 22 3) (fld wd 15 7) (srcOf wd 7) (fld wd 0 7)) ruleRndF 1]
  | 0x27 => [fun wd => laneInfo (opAB (fld wd 22 3) (fld wd 15 7) (srcOf wd 7) (fld wd 0 7)) ruleRndF 1]
  | 0x28 => [fun wd => laneInfo (opAB (fld wd 22 3) (fld wd 15 7) (srcOf wd 7) (fld wd 0 7)) ruleRnd1 2]
  | 0x29 => [fun wd => laneInfo (opAB (fld wd 22 3) (fld wd 15 7) (srcOf wd 7) (fld wd 0 7)) ruleRnd1 1]
  | 0x2A => [fun wd => laneInfo (opA (fld wd 22 3) (fld wd 15 7) (srcOf wd 7)) (ruleCvt (cvtPacked (.float .f32) (.float .f16)) true) 1,
      fun wd => laneInfo (opA (fld wd 22 3) (fld wd 15 7) (srcOf wd 7)) (ruleCvt (cvtPacked (.float .f32) (.float .bf16)) true) 1,
      fun wd => laneInfo (opA (fld wd 22 3) (fld wd 15 7) (srcOf wd 7)) (ruleCvt (cvtPacked (.float .f16) (.float .f32)) false) 1,
      fun wd => laneInfo (opA (fld wd 22 3) (fld wd 15 7) (srcOf wd 7)) (ruleCvt (cvtPacked (.float .bf16) (.float .f32)) false) 1,
      fun wd => laneInfo (opA (fld wd 22 3) (fld wd 15 7) (srcOf wd 7)) (ruleCvt (cvtPacked (.float .f32) (.float .e4m3)) true) 1,
      fun wd => laneInfo (opA (fld wd 22 3) (fld wd 15 7) (srcOf wd 7)) (ruleCvt (cvtPacked (.float .f32) (.float .e5m2)) true) 1,
      fun wd => laneInfo (opA (fld wd 22 3) (fld wd 15 7) (srcOf wd 7)) (ruleCvt (cvtPacked (.float .e4m3) (.float .f32)) false) 1,
      fun wd => laneInfo (opA (fld wd 22 3) (fld wd 15 7) (srcOf wd 7)) (ruleCvt (cvtPacked (.float .e5m2) (.float .f32)) false) 1,
      fun wd => laneInfo (opA (fld wd 22 3) (fld wd 15 7) (srcOf wd 7)) (ruleCvt (cvtPacked (.float .f32) (.int ⟨32, true⟩)) true) 1,
      fun wd => laneInfo (opA (fld wd 22 3) (fld wd 15 7) (srcOf wd 7)) (ruleCvt (cvtPacked (.float .f32) (.int ⟨32, false⟩)) true) 1,
      fun wd => laneInfo (opA (fld wd 22 3) (fld wd 15 7) (srcOf wd 7)) (ruleCvt (cvtPacked (.int ⟨32, true⟩) (.float .f32)) true) 1,
      fun wd => laneInfo (opA (fld wd 22 3) (fld wd 15 7) (srcOf wd 7)) (ruleCvt (cvtPacked (.int ⟨32, false⟩) (.float .f32)) true) 1,
      fun wd => laneInfo (opA (fld wd 22 3) (fld wd 15 7) (srcOf wd 7)) (ruleCvt (cvtPacked (.float .f32) (.int ⟨16, true⟩)) true) 1,
      fun wd => laneInfo (opA (fld wd 22 3) (fld wd 15 7) (srcOf wd 7)) (ruleCvt (cvtPacked (.float .f32) (.int ⟨16, false⟩)) true) 1,
      fun wd => laneInfo (opA (fld wd 22 3) (fld wd 15 7) (srcOf wd 7)) (ruleCvt (cvtPacked (.float .f32) (.int ⟨8, true⟩)) true) 1,
      fun wd => laneInfo (opA (fld wd 22 3) (fld wd 15 7) (srcOf wd 7)) (ruleCvt (cvtPacked (.float .f32) (.int ⟨8, false⟩)) true) 1,
      fun wd => laneInfo (opA (fld wd 22 3) (fld wd 15 7) (srcOf wd 7)) (ruleCvt (cvtPacked (.int ⟨8, true⟩) (.float .f32)) false) 1,
      fun wd => laneInfo (opA (fld wd 22 3) (fld wd 15 7) (srcOf wd 7)) (ruleCvt (cvtPacked (.int ⟨8, false⟩) (.float .f32)) false) 1,
      fun wd => laneInfo (opA (fld wd 22 3) (fld wd 15 7) (srcOf wd 7)) (ruleCvt (cvtPacked (.int ⟨16, true⟩) (.float .f32)) false) 1,
      fun wd => laneInfo (opA (fld wd 22 3) (fld wd 15 7) (srcOf wd 7)) (ruleCvt (cvtPacked (.int ⟨16, false⟩) (.float .f32)) false) 1,
      fun wd => laneInfo (opA (fld wd 22 3) (fld wd 15 7) (srcOf wd 7)) (ruleCvt (cvtPacked (.int ⟨32, true⟩) (.int ⟨16, true⟩)) false) 1,
      fun wd => laneInfo (opA (fld wd 22 3) (fld wd 15 7) (srcOf wd 7)) (ruleCvt (cvtPacked (.int ⟨32, true⟩) (.int ⟨16, false⟩)) false) 1,
      fun wd => laneInfo (opA (fld wd 22 3) (fld wd 15 7) (srcOf wd 7)) (ruleCvt (cvtPacked (.int ⟨32, true⟩) (.int ⟨8, true⟩)) false) 1,
      fun wd => laneInfo (opA (fld wd 22 3) (fld wd 15 7) (srcOf wd 7)) (ruleCvt (cvtPacked (.int ⟨32, true⟩) (.int ⟨8, false⟩)) false) 1,
      fun wd => laneInfo (opA (fld wd 22 3) (fld wd 15 7) (srcOf wd 7)) (ruleCvt (cvtPacked (.float .f32) (.log .l16)) true) 4 true,
      fun wd => laneInfo (opA (fld wd 22 3) (fld wd 15 7) (srcOf wd 7)) (ruleCvt (cvtPacked (.log .l16) (.float .f32)) true) 4 true,
      fun wd => laneInfo (opA (fld wd 22 3) (fld wd 15 7) (srcOf wd 7)) (ruleCvt (cvtPacked (.float .f32) (.log .l8)) true) 4 true,
      fun wd => laneInfo (opA (fld wd 22 3) (fld wd 15 7) (srcOf wd 7)) (ruleCvt (cvtPacked (.log .l8) (.float .f32)) true) 4 true,
      fun wd => laneInfo (opA (fld wd 22 3) (fld wd 15 7) (srcOf wd 7)) ruleTn5 1,
      fun wd => laneInfo (opA (fld wd 22 3) (fld wd 15 7) (srcOf wd 7)) ruleTn5 1,
      fun wd => laneInfo (opA (fld wd 22 3) (fld wd 15 7) (srcOf wd 7)) ruleTn5F 1]
  | 0x2B => [fun wd => qntInfo (fld wd 15 7) (srcOf wd 7) true false (qntMx (fld wd 22 3)).isSome,
      fun wd => qntInfo (fld wd 15 7) (srcOf wd 7) false false (qntMx (fld wd 22 3)).isSome,
      fun wd => qntInfo (fld wd 15 7) (srcOf wd 7) true true (qntAq (fld wd 22 3)).isSome,
      fun wd => qntInfo (fld wd 15 7) (srcOf wd 7) false true (qntAq (fld wd 22 3)).isSome]
  | 0x2C => [fun wd => ldInfo (fld wd 22 3) (fld wd 15 7) (fld wd 7 3).val (fld wd 0 7)]
  | 0x2D => [fun wd => stInfo (fld wd 22 3) (fld wd 15 7) (fld wd 7 3).val (fld wd 0 7)]
  | 0x2E => [fun wd => ldaInfo (fld wd 22 3) (fld wd 15 7) (fld wd 7 3) (fld wd 0 7)]
  | 0x2F => [fun wd => amoInfo 0 (fld wd 15 7) (fld wd 7 3).val (fld wd 0 7),
      fun wd => amoInfo 1 (fld wd 15 7) (fld wd 7 3).val (fld wd 0 7),
      fun wd => amoInfo 2 (fld wd 15 7) (fld wd 7 3).val (fld wd 0 7),
      fun wd => amoInfo 3 (fld wd 15 7) (fld wd 7 3).val (fld wd 0 7),
      fun wd => amoInfo 4 (fld wd 15 7) (fld wd 7 3).val (fld wd 0 7),
      fun wd => amoInfo 5 (fld wd 15 7) (fld wd 7 3).val (fld wd 0 7),
      fun wd => amoInfo 6 (fld wd 15 7) (fld wd 7 3).val (fld wd 0 7),
      fun wd => amoInfo 7 (fld wd 15 7) (fld wd 7 3).val (fld wd 0 7)]
  | 0x30 => [fun wd => amoInfo 0 (fld wd 15 7) (fld wd 7 3).val (fld wd 0 7),
      fun wd => amoInfo 1 (fld wd 15 7) (fld wd 7 3).val (fld wd 0 7),
      fun wd => amoInfo 2 (fld wd 15 7) (fld wd 7 3).val (fld wd 0 7),
      fun wd => amoInfo 3 (fld wd 15 7) (fld wd 7 3).val (fld wd 0 7),
      fun wd => amoInfo 4 (fld wd 15 7) (fld wd 7 3).val (fld wd 0 7),
      fun wd => amoInfo 5 (fld wd 15 7) (fld wd 7 3).val (fld wd 0 7),
      fun wd => amoInfo 6 (fld wd 15 7) (fld wd 7 3).val (fld wd 0 7),
      fun wd => amoInfo 7 (fld wd 15 7) (fld wd 7 3).val (fld wd 0 7)]
  | 0x31 => [fun wd => amoInfo 0 (fld wd 15 7) (fld wd 7 3).val (fld wd 0 7),
      fun wd => amoInfo 1 (fld wd 15 7) (fld wd 7 3).val (fld wd 0 7),
      fun wd => amoInfo 2 (fld wd 15 7) (fld wd 7 3).val (fld wd 0 7),
      fun wd => amoInfo 3 (fld wd 15 7) (fld wd 7 3).val (fld wd 0 7),
      fun wd => amoInfo 4 (fld wd 15 7) (fld wd 7 3).val (fld wd 0 7),
      fun wd => amoInfo 5 (fld wd 15 7) (fld wd 7 3).val (fld wd 0 7),
      fun wd => amoInfo 6 (fld wd 15 7) (fld wd 7 3).val (fld wd 0 7),
      fun wd => amoInfo 7 (fld wd 15 7) (fld wd 7 3).val (fld wd 0 7)]
  | 0x32 => [fun wd => amoRInfo (fld wd 15 7) (fld wd 0 7)]
  | 0x33 => [fun wd => bredInfo 0 (fld wd 15 7) (fld wd 7 3).val (fld wd 0 7),
      fun wd => bredInfo 1 (fld wd 15 7) (fld wd 7 3).val (fld wd 0 7),
      fun wd => bredInfo 2 (fld wd 15 7) (fld wd 7 3).val (fld wd 0 7),
      fun wd => bredInfo 3 (fld wd 15 7) (fld wd 7 3).val (fld wd 0 7),
      fun wd => bredInfo 4 (fld wd 15 7) (fld wd 7 3).val (fld wd 0 7),
      fun wd => bredInfo 5 (fld wd 15 7) (fld wd 7 3).val (fld wd 0 7)]
  | 0x34 => [fun _ => fenceInfo,
      fun _ => fenceInfo,
      fun _ => fenceInfo,
      fun wd => cacheInfo (some (fld wd 15 7)),
      fun wd => cacheInfo (some (fld wd 15 7)),
      fun wd => cacheInfo (some (fld wd 15 7)),
      fun wd => cacheInfo (some (fld wd 15 7)),
      fun _ => cacheInfo none,
      fun _ => cacheInfo none]
  | 0x35 => [fun wd => voteInfo (some (fld wd 15 7)) none,
      fun wd => voteInfo none (some (fld wd 15 6)),
      fun wd => voteInfo none (some (fld wd 15 6)),
      fun wd => voteInfo (some (fld wd 15 7)) none,
      fun wd => xlnInfo (fld wd 22 3) (fld wd 15 7) (srcOf wd 7) false,
      fun wd => xlnInfo (fld wd 22 3) (fld wd 15 7) (srcOf wd 7) false,
      fun wd => xlnInfo (fld wd 22 3) (fld wd 15 7) (srcOf wd 7) false,
      fun wd => xlnInfo (fld wd 22 3) (fld wd 15 7) (srcOf wd 7) false,
      fun wd => xlnInfo (fld wd 22 3) (fld wd 15 7) (srcOf wd 7) false,
      fun wd => xlnInfo (fld wd 22 3) (fld wd 15 7) (srcOf wd 7) false,
      fun wd => xlnInfo (fld wd 22 3) (fld wd 15 7) (srcOf wd 7) false,
      fun wd => xlnInfo (fld wd 22 3) (fld wd 15 7) (srcOf wd 7) false,
      fun wd => xlnInfo (fld wd 22 3) (fld wd 15 7) (srcOf wd 7) false,
      fun wd => xlnInfo (fld wd 22 3) (fld wd 15 7) (srcOf wd 7) true,
      fun wd => xlnInfo (fld wd 22 3) (fld wd 15 7) (srcOf wd 7) false,
      fun wd => xlnInfo (fld wd 22 3) (fld wd 15 7) (srcOf wd 7) false,
      fun wd => xlnInfo (fld wd 22 3) (fld wd 15 7) (srcOf wd 7) false,
      fun wd => xlnInfo (fld wd 22 3) (fld wd 15 7) (srcOf wd 7) false,
      fun wd => xlnInfo (fld wd 22 3) (fld wd 15 7) (srcOf wd 7) true,
      fun wd => xlnInfo (fld wd 22 3) (fld wd 15 7) (srcOf wd 7) true,
      fun wd => xlnInfo (fld wd 22 3) (fld wd 15 7) (srcOf wd 7) false,
      fun wd => xlnInfo (fld wd 22 3) (fld wd 15 7) (srcOf wd 7) false,
      fun wd => xlnInfo (fld wd 22 3) (fld wd 15 7) (srcOf wd 7) false]
  | 0x36 => [fun wd => shflInfo (fld wd 22 3) (fld wd 15 7) (srcOf wd 7) (fld wd 0 7)]
  | 0x37 => [fun wd => xbarInfo (fld wd 22 3) (fld wd 15 7) (srcOf wd 7) (fld wd 0 4)]
  | 0x38 => [fun wd => mmaInfo (srcOf wd 8) (srcOf wd 0),
      fun wd => mmaInfo (srcOf wd 8) (srcOf wd 0)]
  | 0x39 => [fun _ => maccInfo [0, 1] false false,
      fun wd => maccBlockInfo (fld wd 22 3) (fld wd 15 7) (fld wd 11 4) true,
      fun wd => maccBlockInfo (fld wd 22 3) (fld wd 15 7) (fld wd 11 4) false,
      fun wd => drainInfo (fld wd 15 7),
      fun wd => drainInfo (fld wd 15 7),
      fun wd => drainInfo (fld wd 15 7),
      fun wd => drainInfo (fld wd 15 7)]
  | 0x3A => [fun wd => moviInfo (fld wd 22 3) (fld wd 15 7)]
  | 0x3B => [fun wd => putInfo (fld wd 22 3) (srcOf wd 7),
      fun wd => getInfo (fld wd 22 3) (fld wd 15 7) (fld wd 10 3),
      fun _ => { flowInfo [] with memory := true }]
  | 0x3C => [fun wd => brInfo (flag wd 17)]
  | 0x3D => [fun _ => flowInfo [],
      fun _ => flowInfo [],
      fun wd => flowInfo [Block.one (fld wd 15 7)],
      fun _ => flowInfo [],
      fun _ => flowInfo [],
      fun _ => { flowInfo [] with memory := true },
      fun _ => { flowInfo [] with memory := true },
      fun _ => flowInfo [],
      fun _ => flowInfo []]
  | 0x3E => [fun wd => looprInfo (fld wd 18 7) (fld wd 15 3) (bits wd 0 15)]
  | 0x3F => [fun _ => {}]
  | 0x40 => [fun wd => uniInfo (fld wd 18 7) ((fld wd 11 7).val :: usrcReads (usrcOf wd)),
      fun wd => uniInfo (fld wd 18 7) ((fld wd 11 7).val :: usrcReads (usrcOf wd)),
      fun wd => uniInfo (fld wd 18 7) ((fld wd 11 7).val :: usrcReads (usrcOf wd))]
  | 0x41 => [fun wd => uniInfo (fld wd 18 7) ((fld wd 11 7).val :: usrcReads (usrcOf wd)),
      fun wd => uniInfo (fld wd 18 7) ((fld wd 11 7).val :: usrcReads (usrcOf wd)),
      fun wd => uniInfo (fld wd 18 7) ((fld wd 11 7).val :: usrcReads (usrcOf wd))]
  | 0x42 => [fun wd => uniInfo (fld wd 18 7) ((fld wd 11 7).val :: usrcReads (usrcOf wd)),
      fun wd => uniInfo (fld wd 18 7) ((fld wd 11 7).val :: usrcReads (usrcOf wd)),
      fun wd => uniInfo (fld wd 18 7) ((fld wd 11 7).val :: usrcReads (usrcOf wd))]
  | 0x43 => [fun wd => uniInfo (fld wd 18 7) ((fld wd 11 7).val :: usrcReads (usrcOf wd))]
  | 0x44 => [fun wd => uniInfo (fld wd 18 7) ((fld wd 11 7).val :: usrcReads (usrcOf wd))]
  | 0x45 => [fun wd => uniInfo (fld wd 18 7) ((fld wd 11 7).val :: usrcReads (usrcOf wd))]
  | 0x46 => [fun wd => uniInfo (fld wd 18 7) ((fld wd 11 7).val :: usrcReads (usrcOf wd))]
  | 0x47 => [fun wd => uniInfo (fld wd 18 7) ((fld wd 11 7).val :: usrcReads (usrcOf wd)),
      fun wd => uniInfo (fld wd 18 7) ((fld wd 11 7).val :: usrcReads (usrcOf wd))]
  | 0x48 => [fun wd => uniInfo (fld wd 18 7) ((fld wd 11 7).val :: usrcReads (usrcOf wd)),
      fun wd => uniInfo (fld wd 18 7) ((fld wd 11 7).val :: usrcReads (usrcOf wd)),
      fun wd => uniInfo (fld wd 18 7) ((fld wd 11 7).val :: usrcReads (usrcOf wd)),
      fun wd => uniInfo (fld wd 18 7) ((fld wd 11 7).val :: usrcReads (usrcOf wd)),
      fun wd => uniInfo (fld wd 18 7) [(fld wd 11 7).val, (fld wd 0 7).val],
      fun wd => uniInfo (fld wd 18 7) [(fld wd 11 7).val, (fld wd 0 7).val]]
  | 0x49 => [fun wd => uniInfo (fld wd 18 7) ((fld wd 11 7).val :: usrcReads (usrcOf wd))]
  | 0x4A => [fun wd => uniInfo (fld wd 18 7) [(fld wd 18 7).val]]
  | 0x4B => [fun wd => uniInfo (fld wd 18 7) []]
  | 0x4C => [fun _ => { uniform := true, reads := [], terminal := true },
      fun wd => { uniform := true, reads := [(fld wd 18 7).val], terminal := true },
      fun wd => { uniform := true, reads := [(fld wd 18 7).val], terminal := true }]
  | 0x4D => [fun wd => uldInfo (fld wd 18 7) (fld wd 11 7) 1,
      fun wd => uldInfo (fld wd 18 7) (fld wd 11 7) 1,
      fun wd => uldInfo (fld wd 18 7) (fld wd 11 7) 1,
      fun wd => uldInfo (fld wd 18 7) (fld wd 11 7) 1,
      fun wd => uldInfo (fld wd 18 7) (fld wd 11 7) 1,
      fun wd => uldInfo (fld wd 18 7) (fld wd 11 7) 2,
      fun wd => uldInfo (fld wd 18 7) (fld wd 11 7) 4]
  | 0x4E => [fun wd => ustInfo (fld wd 18 7) (fld wd 11 7) 1,
      fun wd => ustInfo (fld wd 18 7) (fld wd 11 7) 1,
      fun wd => ustInfo (fld wd 18 7) (fld wd 11 7) 1,
      fun wd => ustInfo (fld wd 18 7) (fld wd 11 7) 2,
      fun wd => ustInfo (fld wd 18 7) (fld wd 11 7) 4]
  | 0x4F => [fun wd => specialInfo (fld wd 11 7) [(fld wd 18 7).val] [],
      fun wd => specialInfo (fld wd 11 7) [] [] [Block.one (fld wd 18 7)],
      fun wd => specialInfo (fld wd 11 7) [(fld wd 18 7).val] (usrcReads (usrcOf wd)),
      fun wd => specialInfo (fld wd 11 7) [(fld wd 18 7).val] [(fld wd 0 7).val]]
  | 0x50 => [fun wd => specialInfo (fld wd 18 7) [] [(fld wd 11 7).val]]
  | 0x51 => [fun wd => quadReadInfo (fld wd 11 7) true,
      fun wd => quadWriteInfo (fld wd 18 7) true]
  | 0x52 => [fun wd => quadReadInfo (fld wd 11 7),
      fun wd => quadWriteInfo (fld wd 18 7)]
  | 0x53 => [fun wd => recsetInfo [(fld wd 11 7).val, (fld wd 0 7).val],
      fun wd => recsetInfo (usrcReads (usrcOf wd)),
      fun wd => recsetInfo (usrcReads (usrcOf wd)),
      fun wd => recsetInfo (usrcReads (usrcOf wd)),
      fun wd => recsetInfo (usrcReads (usrcOf wd)),
      fun wd => recsetInfo (usrcReads (usrcOf wd)),
      fun wd => recsetInfo (usrcReads (usrcOf wd)),
      fun wd => recsetInfo (usrcReads (usrcOf wd))]
  | 0x54 => [fun _ => acqInfo [],
      fun wd => acqInfo [(fld wd 18 7).val],
      fun _ => acqInfo []]
  | 0x55 => [fun wd => plainUInfo [(fld wd 11 7).val] [],
      fun _ => plainUInfo [] [],
      fun wd => cvrdInfo (fld wd 18 7)]
  | 0x56 => [fun wd => plainUInfo [(fld wd 11 7).val] [],
      fun wd => plainUInfo [] [(fld wd 18 7).val]]
  | 0x57 => [fun wd => plainUInfo [] [(fld wd 18 7).val],
      fun wd => plainUInfo [] [(fld wd 18 7).val]]
  | 0x58 => [fun _ => handleInfo]
  | 0x59 => [fun _ => handleInfo]
  | 0x5A => [fun wd => plainUInfo [] [(fld wd 18 7).val],
      fun wd => plainUInfo [] [(fld wd 18 7).val],
      fun wd => plainUInfo [] [(fld wd 18 7).val],
      fun wd => plainUInfo [] [(fld wd 18 7).val],
      fun wd => plainUInfo [] [(fld wd 18 7).val]]
  | 0x5B => [fun wd => mvxInfo (fld wd 18 7) (fld wd 11 7),
      fun wd => mvxInfo (fld wd 18 7) (fld wd 11 7),
      fun wd => mvxInfo (fld wd 18 7) (fld wd 11 7)]
  | 0x5C => [fun _ => plycInfo [] (memory := true),
      fun _ => plycInfo [] (memory := true),
      fun _ => plycInfo [],
      fun _ => plycInfo [],
      fun wd => plycInfo [(fld wd 18 7).val] (memory := true),
      fun wd => plycInfo (regRun (fld wd 18 7).val 3) (if 125 < (fld wd 18 7).val then some 0x02 else none)]
  | 0x5D => [fun wd => xpldInfo (fld wd 18 4) (fld wd 11 7)]
  | 0x5E => [fun _ => plainUInfo [] [],
      fun wd => pollInfo (fld wd 18 7) (fld wd 11 7),
      fun wd => plainUInfo [] [(fld wd 18 7).val],
      fun wd => plainUInfo [] [(fld wd 18 7).val]]
  | 0x5F => [fun wd => resvInfo (fld wd 18 7) (fld wd 11 7)]
  | 0x60 => [fun wd => launchInfo (fld wd 18 7) (fld wd 11 7)]
  | 0x61 => [fun wd => { plainUInfo [] [(fld wd 18 7).val] with memory := true },
      fun _ => { plainUInfo [] [] with memory := true, effect := true }]
  | 0x62 => [fun _ => plainUInfo [] [],
      fun wd => plainUInfo [(fld wd 0 7).val] []]
  | 0x63 => [fun _ => eretInfo,
      fun _ => eretInfo,
      fun _ => eretInfo,
      fun _ => eretInfo]
  | 0x64 => [fun wd => ctxRdInfo (fld wd 18 7) (fld wd 11 7) (usrcOf wd),
      fun wd => ctxRdvInfo (fld wd 18 7) (fld wd 11 7),
      fun wd => ctxWrInfo (fld wd 18 7) (fld wd 11 7) (usrcOf wd),
      fun wd => ctxWrvInfo (fld wd 18 7) (fld wd 11 7),
      fun _ => sealInfo,
      fun _ => sealInfo]
  | _ => []

/-- What the bits of a word say about it; none for a word that no instruction has. -/
def infoAt (w : Nat) : Option WordInfo :=
  match rowOfWord w with
  | some n => ((infosOf (majorOf w))[n]?).map fun f => f w
  | none => none

/-! ### The static checks of a clause (R53) -/

/-- R66: the fields of a PREFIX word. -/
def pfxOfWord (w : Word) : Option Pfx :=
  let x := w.toNat
  if majorOf x = 0x3F then
    some { mask := fieldOf x 19 6, sense := flag x 18, rnd := fieldOf x 15 3, zero := flag x 14, fourth := fieldOf x 7 7
           mod := fieldOf x 4 3, scope := fieldOf x 0 4 }
  else none

/-- R67: a PREFIX may stand before the word, as far as its set and major say. -/
def prefixable (w : Word) : Bool := !w.msb && !([0x3C, 0x3D, 0x3E, 0x3F].contains (fieldOf w.toNat 25 6))

/-- R53, R67: the class that a PREFIX raises before a word that has no decoding: where it holds a value that every word of the major
refuses. -/
def pfxAlone (p : Pfx) (w : Nat) : Option Nat :=
  match infosOf (majorOf w) with
  | [] => none
  | f :: rest => if (f :: rest).all fun f => ((f w).rule.check p true).isSome then (f w).rule.check p true else none

/-- R49, R53, R58, R67: the check that a word fails, under the PREFIX before it: whether it lies in the PREFIX, and the class. -/
def wordFault (p : Option Pfx) (last : Bool) (w : Word) : Option (Bool × Nat) :=
  match infoAt w.toNat with
  | none => match p.bind fun p => if prefixable w then pfxAlone p w.toNat else some 0x01 with
    | some c => some (true, c)
    | none => some (false, 0x01)
  | some i =>
    if (pfxOfWord w).isSome then (if p.isSome then some (true, 0x01) else if last then some (false, 0x01) else none)
    else match i.static p with
      | some (true, c) => some (true, c)
      | r => if i.terminal && !last then some (false, 0x01) else r

/-- R53: the index and class of the first failing word; `n` is the index of the first word of the list. -/
def wordsFault (p : Option Pfx) (n : Nat) : List Word → Option (Nat × Nat)
  | [] => none
  | w :: rest =>
    match wordFault p rest.isEmpty w with
    | some (inPfx, c) => some (if inPfx then n - 1 else n, c)
    | none => wordsFault (pfxOfWord w) (n + 1) rest

/-- R47: the word is pip-tracked. -/
def pipTracked (w : Word) : Bool := match infoAt w.toNat with | some i => i.pip | none => false

/-- R45, R47: the fields SETA and SETB of a header. -/
def setA (h : Word) : Nat := fieldOf h.toNat 11 4
/-- R45. -/
def setB (h : Word) : Nat := fieldOf h.toNat 7 4

/-- R47: the pip fields of a header fail its checks. DESIGN CHOICE (log 79): a pip-tracked word under SETA = 0b1111 fails at index 0, as a
failure of the header. -/
def headerFault (h : Word) (ws : List Word) : Bool :=
  let bad := fun n => decide (12 ≤ n) && decide (n ≤ 14)
  bad (setA h) || bad (setB h) || (setA h == 15 && setB h != 15) || (setA h == 15 && ws.any pipTracked)

/-- R53: the index (0 for the header) and class of the static check that a clause fails. -/
def clauseFault (h : Word) (ws : List Word) : Option (Nat × Nat) :=
  if headerFault h ws then some (0, 0x01) else wordsFault none 1 ws

/-- What the next word of a bundle needs to issue. -/
def Bundle.nextInfo (b : Bundle) : WordInfo := (infoAt b.current.toNat).getD {}

/-- The waits of the rows under each value of bits 31 to 25 whose words wait for something of their own (R106, R115, R240, R262, R281, R285,
R293, R320, R325, R327, R407, R411), in the order of `infosOf`. -/
def waitsOf : Nat → List (Nat → Bundle → Pfx → State → State × Bool)
  | 0x38 => [fun w => mmaReady ⟨0, fld w 19 4, fld w 16 3, srcOf w 8, srcOf w 0⟩, fun w => mmaReady ⟨1, fld w 19 4, fld w 16 3, srcOf w 8, srcOf w 0⟩]
  | 0x39 => [fun w => untilNone (State.tileBusy (fieldOf w 7 4)), fun w => untilNone (State.tileBusy (fieldOf w 7 4)),
      fun w => untilNone (State.tileBusy (fieldOf w 7 4)), fun w => drainFree (fieldOf w 7 4) (112 + fieldOf w 22 3),
      fun w => drainFree (fieldOf w 7 4) (112 + fieldOf w 22 3), fun w => drainFree (fieldOf w 7 4) (112 + fieldOf w 22 3),
      fun w => drainFree (fieldOf w 7 4) (112 + fieldOf w 22 3)]
  | 0x3B => [fun w => putReady (fld w 22 3) (fld w 15 3) (srcOf w 7), fun _ => getReady, fun _ => brxReady]
  | 0x3C => [fun w => brReady (fld w 19 6) (flag w 18) (flag w 17)]
  | 0x54 => [fun _ => alwaysReady, fun _ => alwaysReady, fun _ => untilNone State.relWaits]
  | 0x55 => [fun w => untilNone (State.cvBusy (fld w 18 3)), fun w => untilNone (State.cvBusy (fld w 18 3)), fun _ => alwaysReady]
  | 0x58 => [fun w => untilNone fun s => s.hrelWaits (fld w 0 5)]
  | 0x5C => [fun w => openReady (fld w 0 5) false, fun w => openReady (fld w 0 5) true, fun _ => alwaysReady, fun _ => alwaysReady, fun _ => markReady]
  | 0x5E => [fun _ => untilNone State.tokensPending]
  | 0x63 => [fun _ => alwaysReady, fun _ => alwaysReady, fun _ => alwaysReady, fun _ => untilNone State.outWaits]
  | 0x64 => [fun _ => alwaysReady, fun w => untilNone (State.shadowWaits (fieldOf w 11 7)), fun _ => alwaysReady,
      fun w => untilNone (State.shadowWaits (fieldOf w 18 7)), fun _ => untilNone State.outWaits, fun w => restWaits (fld w 0 5)]
  | _ => []

/-- The wait of a word of its own. -/
def waitAt (w : Nat) : Bundle → Pfx → State → State × Bool :=
  match rowOfWord w with
  | some n => match (waitsOf (majorOf w))[n]? with
    | some f => f w
    | none => alwaysReady
  | none => alwaysReady

/-- The next word of a bundle waits for nothing of its own, and what it asks for where it does. -/
def State.ownWait (s : State) (b : Bundle) : State × Bool := waitAt b.current.toNat b (b.pfx.getD {}) s

/-- R106, R115: the bundle's next word is a `tsync.all` or an `acq.rel` that a pending token, or for `acq.rel` a pip, of the group holds. -/
def Group.syncStall (g : Group) (b : Bundle) : Bool :=
  (b.current == 0xBC000000#32 && g.pendingCount != 0)
  || (b.current == 0xA8000100#32 && g.allot.granted && (g.pendingCount != 0 || (List.finRange 12).any fun n : Fin 12 => g.pip[n] != 0))

/-- R95, R96: the next word of a bundle can issue. -/
def State.canIssue (s : State) (b : Bundle) : Bool := !s.stalls b b.nextInfo && (s.ownWait b).2

end Sys2Proof.Machine
end

