-- ==== Sys2Proof/Machine/Picker.lean ====
section
/-! DEFINITION. Forming bundles, the active set and starvation (R43 to R53, R91 to R98, R107 to R110, R163, R365). -/

namespace Sys2Proof.Machine

/-- R66: a PREFIX word. -/
def execPfx (m : Fin 64) (sense : Bool) (r : Fin 8) (z : Bool) (f : Fin 128) (o : Fin 8) (c : Fin 16) (s : State) :
    Host.Outcome State Fault Refusal :=
  issuePfx { mask := m.val, sense := sense, rnd := r.val, zero := z, fourth := f.val, mod := o.val, scope := c.val } s

/-! ### The active set (R91, R93, R107, R110) -/

/-- R91: the ACTIVE groups of a core. -/
def State.activeSlots (s : State) (c : CoreId) : List Slot :=
  (List.finRange 32).filter fun k : Slot => match s.group? c k with | some g => g.st == .active | none => false

/-- R93, R110: a PENDING group that a swap may bring in: it is ready. -/
def State.swapReady (s : State) (g : Group) : Bool := g.st == .pending && s.groupReady g

/-- R93: the better of two PENDING groups: ready, then priority, then the longest wait, then the lowest slot. DESIGN CHOICE (log 68): a
group has waited for the cycles for which it has been ready without issuing a word. -/
def State.betterPending (s : State) (c : CoreId) (best : Option Slot) (k : Slot) : Option Slot :=
  match best with
  | none => some k
  | some j =>
    let key := fun x : Slot => ((match s.group? c x with | some g => s.swapReady g | none => false).toNat * 4 + s.priority c x,
      ((s.cores[c]).sched[x]).starve)
    if (key j).1 < (key k).1 ∨ ((key j).1 = (key k).1 ∧ (key j).2 < (key k).2) then some k else some j

/-- R93: the PENDING group that comes next. -/
def State.nextPending (s : State) (c : CoreId) (test : Group → Bool) : Option Slot :=
  ((List.finRange 32).filter fun k : Slot => match s.group? c k with | some g => g.st == .pending && test g | none => false).foldl
    (s.betterPending c) none

/-- Sets the state of a group. -/
def State.setSlotState (s : State) (c : CoreId) (k : Slot) (x : SlotState) : State := s.modGroup c k fun g => { g with st := x }

/-- R91: PENDING groups become ACTIVE while there is room. -/
def State.fillActive (s : State) (c : CoreId) : State :=
  (List.range 8).foldl (fun s _ =>
    if (s.activeSlots c).length < 8 then match s.nextPending c fun _ => true with
      | some k => s.setSlotState c k .active
      | none => s
    else s) s

/-- R93: threads of the group stand in an open bundle whose next word can issue. -/
def State.canGo (s : State) (c : CoreId) (k : Slot) : Bool :=
  s.bundles.any fun b => b.core = c && b.members.any (fun m => m.slot == k && m.sel ||| m.skip != 0) && s.canIssue b

/-- R93: an open bundle of the lane is held by a pending token, at an operand or at `tsync.all` (R106), or by a group of it that is not ACTIVE
(log 44). -/
def State.tokenHeld (s : State) (c : CoreId) (k : Slot) (l : Lane) : Bool :=
  s.bundles.any fun b => b.core = c && b.members.any (fun m => m.slot == k && hasBit (m.sel ||| m.skip) l)
    && b.members.any fun m => match s.group? c m.slot with
      | some g => g.st != .active || g.tokenStall b.nextInfo || (g.syncStall b && g.pendingCount != 0)
      | none => false

/-- R93: a thread is held for one of the reasons for which a group is swapped out. -/
def State.swapReason (s : State) (c : CoreId) (k : Slot) (g : Group) (l : Lane) : Bool :=
  match (g.threads[l]).run with
  | .ready => !s.standsReady g g.threads[l]
  | .member => s.tokenHeld c k l
  | .parked _ _ => true
  | .bar _ _ => true
  | .hwait _ _ => true
  | .acq => true
  | .mma _ => true
  | .tkt => true
  | _ => false

/-- R93: the group has neither a ready thread nor one in a bundle whose next word can issue, for these reasons: no thread is in a YIELD or
in a bundle that waits for anything else. -/
def State.blocked (s : State) (c : CoreId) (k : Slot) (g : Group) : Bool :=
  !g.mustHalt && !s.groupReady g && !s.canGo c k
    && (g.allThreads fun l t => match t.run with
      | .yield _ => false
      | .member => s.tokenHeld c k l
      | _ => true)
    && g.anyThread fun l _ => s.swapReason c k g l

/-- R93: an ACTIVE group qualifies for a swap. -/
def State.swappable (s : State) (c : CoreId) (k : Slot) : Bool :=
  match s.group? c k with
  | some g => g.st == .active && decide (32 ≤ ((s.cores[c]).sched[k]).idle) && s.blocked c k g
  | none => false

/-- R93: the group leaves the active set for the ready PENDING group of highest priority. -/
def execSwapOut (core : CoreId) (slot : Slot) (s : State) : Host.Outcome State Fault Refusal :=
  .next (if s.swappable core slot then match s.nextPending core s.swapReady with
      | some k => (s.setSlotState core slot .pending).setSlotState core k .active
      | none => s
    else s)

/-- R107: a ready group that has issued no word for 1,536 cycles. -/
def execGroupStarved (core : CoreId) (slot : Slot) (s : State) : Host.Outcome State Fault Refusal :=
  .next (match s.group? core slot with
    | some g =>
      if s.groupReady g && decide (1536 ≤ ((s.cores[core]).sched[slot]).starve) then s.modCore core fun x =>
        { x with sched := x.sched.set slot { x.sched[slot] with starved := true } }
      else s
    | none => s)

/-- R110: the ACTIVE group that a STARVED one displaces: one that qualifies for a swap, else the one of lowest priority that is
not STARVED; ties go to a group without an open bundle that can issue, then to the highest slot. -/
def State.displaced (s : State) (c : CoreId) : Option Slot :=
  let act := s.activeSlots c
  match act.find? (s.swappable c) with
  | some k => some k
  | none =>
    (act.filter fun k => !((s.cores[c]).sched[k]).starved).foldl (fun (best : Option Slot) k => match best with
      | none => some k
      | some j => if s.priority c k * 2 + (s.canGo c k).toNat ≤ s.priority c j * 2 + (s.canGo c j).toNat then some k else best) none

/-- R110: a PENDING group that is STARVED comes into the active set. -/
def execStarvedSwapIn (core : CoreId) (slot : Slot) (s : State) : Host.Outcome State Fault Refusal :=
  .next (match s.group? core slot with
    | some g =>
      if g.st == .pending && s.groupReady g && ((s.cores[core]).sched[slot]).starved then
        if (s.activeSlots core).length < 8 then s.setSlotState core slot .active
        else match s.displaced core with
          | some k => (s.setSlotState core k .pending).setSlotState core slot .active
          | none => s
      else s
    | none => s)

/-- R163: 32 cycles after its YIELD a thread is ready again. -/
def execYieldExpiry (core : CoreId) (slot : Slot) (lane : Lane) (s : State) : Host.Outcome State Fault Refusal :=
  .next (s.modGroup core slot fun g => g.modThread lane fun t => match t.run with
    | .yield n => if n ≤ (s.cores[core]).cycles then { t with run := .ready } else t
    | _ => t)

/-! ### Candidates (R92, R94, R98) -/

/-- R92, R94, R414: the thread is a candidate for a new bundle. -/
def State.formable (s : State) (g : Group) (l : Lane) : Bool :=
  g.st == .active && !g.mustHalt && !g.stepping && s.threadReady g g.threads[l]

/-- R94: the lead thread. -/
def State.lead (s : State) (c : CoreId) : Option (Slot × Lane) :=
  (List.finRange 32).foldl (fun (best : Option (Slot × Lane)) (k : Slot) => match s.group? c k with
    | none => best
    | some g => match (List.finRange 32).find? fun l : Lane => s.formable g l with
      | none => best
      | some l => match best with
        | none => some (k, l)
        | some b => if s.priority c b.1 < s.priority c k then some (k, l) else best) none

/-- R94, R173: the threads of one group that join a bundle at a header, given the home lanes taken. -/
def State.joiners (s : State) (g : Group) (pc : Word) (taken : Word) : Word :=
  let need := fun l : Lane => s.isGather g pc && s.gatherUnion g pc l
  if (List.finRange 32).any fun l : Lane => need l && hasBit taken l then 0
  else laneMask fun l => s.formable g l && (g.threads[l]).inside.isNone && (g.threads[l]).pc == pc && !hasBit taken l

/-- R94: the threads of a new bundle at a header, by slot: of one launch, and all in handler mode or none. -/
def State.gathered (s : State) (c : CoreId) (launch : Nat) (handler : Bool) (pc : Word) : List (Slot × Word) :=
  ((List.finRange 32).foldl (fun (acc : List (Slot × Word) × Word) (k : Slot) => match s.group? c k with
    | none => acc
    | some g =>
      if g.launch = launch ∧ g.handler.isSome = handler then
        let w := s.joiners g pc acc.2
        if w = 0 then acc else (acc.1 ++ [(k, w)], acc.2 ||| w)
      else acc) ([], 0)).1

/-! ### Fetching a clause (R44, R51, R365, R401) -/

/-- How a fetch ends: a page fault at an address, or class 0x06 with a cause. -/
inductive CodeFetch where
  | ok | page (va : Nat) | fail (cause va : Nat)
  deriving DecidableEq, Repr

/-- R51: words of a launch's code image are read as memory holds them (log 8). -/
def State.fetchRun (s : State) (c : CoreId) (l : Launch) (first n : Nat) : State × CodeFetch :=
  let va := fun i => (l.codeVa + 4 * i) % 2 ^ 57
  let lines := ((List.range n).map fun i => va (first + i) / 128).eraseDups
  let r := s.translateLines (.core c) l.ctx false lines
  let s := r.1
  match r.2.find? fun w => match w.2 with | .failure => true | .ok pa _ => s.peerRefuses pa | .page => false with
  | some w => (s, .fail 5 (w.1 * 128))
  | none => match r.2.find? fun w => w.2 == .page with
    | some w => (s, .page (w.1 * 128))
    | none =>
      let s := r.2.foldl (fun s w => match w.2 with | .ok pa key => s.touch (corePort c) key pa false false | _ => s) s
      let byte := fun a => match lookupLine r.2 a with
        | .ok pa key => s.readPa key (pa + a % 128)
        | _ => 0
      let ws := (List.range n).map fun i => BitVec.ofNat 32 (leValue ((List.range 4).map fun j => byte (va (first + i) + j)))
      (s.modLaunch l.id fun l => { l with code := l.code.take first ++ ws ++ l.code.drop (first + n) }, .ok)

/-- R44: the clause at a header is fetched: header, then its words. -/
def State.fetchClause (s : State) (c : CoreId) (g : Group) (pc : Word) : State × CodeFetch :=
  if g.handler.isSome then (s, if (clauseWords s.board.handler pc).isSome then .ok else .fail 3 0)
  else match s.launch? g.launch with
    | none => (s, .fail 3 0)
    | some l =>
      match codeAt l.code pc with
      | none => (s, .fail 3 0)
      | some _ =>
        let r := s.fetchRun c l (pc.toNat / 4) 1
        match r.2 with
        | .ok => match r.1.launch? g.launch with
          | none => (r.1, .fail 3 0)
          | some l => match clauseWords l.code pc with
            | none => (r.1, .fail 3 0)
            | some ws => r.1.fetchRun c l (pc.toNat / 4 + 1) ws.length
        | x => (r.1, x)

/-- R397, R398, R402: a trap for ready threads that stand outside any bundle, at the word where they stand: their group halts. -/
def State.raiseReady (s : State) (c : CoreId) (k : Slot) (lanes : Word) (cls : Nat) (detail : List Word) : State :=
  match s.group? c k with
  | none => s
  | some g =>
    if g.handler.isSome then (s.killTeam g.team cls).logged (.killed c k cls)
    else ((s.setGroup c k (some (g.mapThreads fun l t =>
      if hasBit lanes l && !t.gone then { t with trap := some (t.trap.getD ⟨cls, t.waitWord false, detail⟩) } else t))).haltSlot c k).purge

/-- R365: the threads of the bundle that was about to form park, with one entry for each group. -/
def State.parkReady (s : State) (c : CoreId) (va : Nat) (ms : List (Slot × Word)) : State :=
  ms.foldl (fun s m => match s.group? c m.1 with
    | none => s
    | some g =>
      let id := s.nextId
      (s.addFault g.ctx c m.1 m.2 va 3).modGroup c m.1 fun g => g.mapThreads fun l t =>
        if hasBit m.2 l then { t with run := .parked [id] false } else t) s

/-! ### Opening a bundle -/

/-- R172: the masks of cv0 to cv3 as they stand. -/
def Group.setsOf (g : Group) : Vector Word 4 := Vector.ofFn fun i : Fin 4 => (g.cv[(⟨i.val, by omega⟩ : Fin 8)]).mask

/-- R48, R172, R284: the guard readings of one group's threads at a header: the threads selected become members; the others go to the
next header, or with an MMA word in the clause stay for it. -/
def Group.enter (g : Group) (lanes pc after : Word) (guard : Nat) (sense mma : Bool) : Group :=
  g.mapThreads fun l t =>
    if hasBit lanes l then
      let hit := t.pred guard != sense
      if hit || mma then { t with run := .member, pc := pc, inside := none, guard := hit, sets := g.setsOf }
      else { t with run := .ready, pc := after, inside := none }
    else t

/-- R109: the group issues a clause: one outside the range of the branch that it watches ends the watch, one outside the range of the
marked branch clears the mark. -/
def Sched.left (x : Sched) (pc : Word) : Sched :=
  let out := fun k : Option (Word × Word) => match k with | some k => outsideRange k pc | none => false
  let y := if out x.branch then { x with branch := none, taken := 0, quiet := true } else x
  if out x.floor then { y with floor := none } else y

/-- R45, R48, R53: the bundle of these threads opens at a header, unless a static check fails. -/
def State.openAt (s : State) (c : CoreId) (g0 : Group) (pc : Word) (ms : List (Slot × Word)) : State :=
  match codeAt (s.codeOf g0) pc, clauseWords (s.codeOf g0) pc with
  | some h, some ws =>
    match clauseFault h ws with
    | some (i, cls) =>
      let word := if i = 0 then h else ws.getD (i - 1) 0
      ms.foldl (fun s m => s.raiseReady c m.1 m.2 cls [word, BitVec.ofNat 32 i]) s
    | none =>
      let mma := ws.any fun w => fieldOf w.toNat 25 7 == 0x38
      let after := pc + BitVec.ofNat 32 (4 * (ws.length + 1))
      let s := ms.foldl (fun s m => (s.modGroup c m.1 fun g =>
        g.enter m.2 pc after (fieldOf h.toNat 1 6) (h.getLsbD 0) mma).modCore c fun x =>
          { x with sched := x.sched.set m.1 ((x.sched[m.1]).left pc) }) s
      let members := ms.filterMap fun m => match s.group? c m.1 with
        | none => none
        | some g =>
          let sel := laneMask fun l => hasBit m.2 l && (g.threads[l]).run == .member && (g.threads[l]).guard
          let skip := laneMask fun l => hasBit m.2 l && (g.threads[l]).run == .member && !(g.threads[l]).guard
          if sel ||| skip = 0 then none else some (⟨m.1, sel, skip⟩ : Member)
      if members.isEmpty then s
      else { s with bundles := s.bundles ++ [⟨c, pc, g0.handler.isSome, ws, 0, setA h, setB h, true, members, none, false, s.nextId⟩], nextId := s.nextId + 1 }
  | _, _ => s

/-- R98: a bundle of threads of one group that resume at the same word inside a clause. -/
def State.resumeAt (s : State) (c : CoreId) (k : Slot) (g : Group) (pc : Word) (i : Nat) (lanes : Word) (step : Bool) : State :=
  match codeAt (s.codeOf g) pc, clauseWords (s.codeOf g) pc with
  | some h, some ws =>
    let sel := laneMask fun l => hasBit lanes l && (g.threads[l]).guard
    let skip := laneMask fun l => hasBit lanes l && !(g.threads[l]).guard
    let s := s.setGroup c k (some (g.mapThreads fun l t => if hasBit lanes l then { t with run := .member, inside := none } else t))
    { s with bundles := s.bundles ++ [⟨c, pc, g.handler.isSome, ws, i, setA h, setB h, !(ws.take i).any pipTracked, [⟨k, sel, skip⟩], none, step, s.nextId⟩]
             nextId := s.nextId + 1 }
  | _, _ => s.raiseReady c k lanes 0x06 (vaDetail 3 0)

/-- R424: of threads gathered at a header, those whose guard is a poisoned predicate. -/
def State.badGuards (s : State) (c : CoreId) (g0 : Group) (pc : Word) (ms : List (Slot × Word)) : List (Slot × Word) :=
  match codeAt (s.codeOf g0) pc with
  | none => []
  | some h => (ms.map fun m => (m.1, laneMask fun l => hasBit m.2 l && s.ecc.any fun e => match e with
      | .pred d k x q => d == c && k == m.1 && x == l && q.val == fieldOf h.toNat 1 6 && q != 0
      | _ => false)).filter fun m => m.2 != 0

/-- R53, R424: the bundle of these threads opens; those whose guard is poisoned raise class 0x08 at the header. -/
def State.openGood (s : State) (c : CoreId) (g : Group) (pc : Word) (ms : List (Slot × Word)) : State :=
  let bad := if s.ecc.isEmpty then [] else s.badGuards c g pc ms
  let s := bad.foldl (fun s m => s.raiseReady c m.1 m.2 0x08 [0, 0, 0]) s
  let rest := (ms.map fun m => (m.1, m.2 &&& ~~~ (((bad.find? fun x => x.1 == m.1).map (·.2)).getD 0))).filter fun m => m.2 != 0
  if rest.isEmpty then s else s.openAt c g pc rest

/-- R94, R365: the picker forms a bundle at the header where a group's lead thread stands. -/
def State.formAt (s : State) (c : CoreId) (g : Group) (pc : Word) : State :=
  let r := s.fetchClause c g pc
  let ms := r.1.gathered c g.launch g.handler.isSome pc
  match r.2 with
  | .ok => r.1.openGood c g pc ms
  | .page va => r.1.parkReady c va ms
  | .fail cause va => ms.foldl (fun s m => s.raiseReady c m.1 m.2 0x06 (vaDetail cause va)) r.1

/-- R93: which groups stand so that only a swap moves them on, for the step that follows. -/
def State.noteGo (s : State) : State :=
  s.teams.foldl (fun s t => s.modCore t.core fun x => { x with sched := Vector.ofFn fun k : Fin 32 =>
    { x.sched[k] with held := match s.group? t.core k with | some g => g.st == .active && s.blocked t.core k g | none => false } }) s

/-- R94: the core's picker forms a bundle. DESIGN CHOICE (log 44): threads that became ready at a word inside a clause in different cycles may
share one bundle as well as those that became ready in one. `share` names the home lanes that share a bundle with the lead thread where it resumes
inside a clause (R98); at a gathering word the whole set does (R173). -/
def execPickerFormBundle (core : CoreId) (share : BitVec 32) (s : State) : Host.Outcome State Fault Refusal :=
  .next (if (s.cores[core]).stopped then s
    else
      let s := s.fillActive core
      match s.lead core with
      | none => s
      | some (k, l) => match s.group? core k with
        | none => s
        | some g =>
          let t := g.threads[l]
          match t.inside with
          | none => s.formAt core g t.pc
          | some i =>
            let lanes := laneMask fun x => s.formable g x && (g.threads[x]).inside == some i && (g.threads[x]).pc == t.pc
              && (x == l || hasBit share x || ((clauseWords (s.codeOf g) t.pc).bind fun ws => gatherAt ws i).isSome)
            s.resumeAt core k g t.pc i lanes false)

end Sys2Proof.Machine
end

