-- ==== Sys2Proof/Machine/Traps.lean ====
section
/-! DEFINITION. Traps, the handler, pre-emption and debug: TRAP, ERET, CTX, delivery, and the events that raise traps (R169 to
R171, R397 to R414). -/

namespace Sys2Proof.Machine

/-! ### TRAP (R404) -/

/-- R404: TRAP with an argument. -/
def trapWord (reads : List Nat) (arg : Group → Nat) (s : State) : Host.Outcome State Fault Refusal :=
  uniWord (plainUInfo reads []) (fun b m g s =>
    s.raise b m.slot (fun l => hasBit m.sel l) 0x16 [BitVec.ofNat 32 (arg g)] (after := true)) s

/-- R404: `trap n`. -/
def execTrapImm (n : Fin 128) (s : State) : Host.Outcome State Fault Refusal := trapWord [] (fun _ => n.val) s

/-- R404: `trap sB`. -/
def execTrapReg (b : Fin 128) (s : State) : Host.Outcome State Fault Refusal :=
  trapWord [b.val] (fun g => fieldOf (g.uni b.val).toNat 0 8) s

/-! ### Delivery (R397 to R401) -/

/-- R406: the wait of a thread as ESTATE codes it, with the barrier's index. -/
def State.waitCode (s : State) (g : Group) (t : Thread) : Nat × Nat :=
  match t.run with
  | .rcv => (1, 0)
  | .bar false n => (2, n.val)
  | .bar true n => (3, n.val)
  | .hwait _ _ => (5, 0)
  | .acq => (6, 0)
  | .mma _ => (7, 0)
  | .tkt => (8, 0)
  | .ready => if t.inside.isNone && s.isGather g t.pc && !s.gatherFull g t.pc then (4, 0) else (0, 0)
  | _ => (0, 0)

/-- R406: ESTATE of a thread as its group enters the handler, without ECLASS. -/
def State.estateOf (s : State) (g : Group) (t : Thread) : Word :=
  if t.gone then 1
  else
    let w := s.waitCode g t
    let parked := match t.run with | .parked _ _ => true | _ => false
    BitVec.ofNat 32 (w.2 * 2 ^ 8 + w.1 * 2 ^ 4 + (t.inside.isSome && t.guard).toNat * 8 + t.inside.isSome.toNat * 4 + parked.toNat * 2)

/-- The classes that a group's threads hold. -/
def Group.classes (g : Group) : List Nat := (List.finRange 32).filterMap fun l : Lane => (g.threads[l]).trap.map (·.cls)

/-- R399: CLASS. -/
def Group.deliveryClass (g : Group) : Nat :=
  if g.preempt then 0x17
  else if g.expired then 0x10
  else g.classes.foldl min 0xFF

/-- R399: the delivery record. -/
def Group.record (g : Group) (k : Slot) (wdlim : Word) : List Word :=
  let cls := g.deliveryClass
  let low := (List.finRange 32).find? fun l : Lane => ((g.threads[l]).trap.map (·.cls)) == some cls
  let detail := if cls = 0x10 then [wdlim]
    else if cls = 0x17 then []
    else match low.bind fun l => (g.threads[l]).trap with
      | some t => t.detail.take 132
      | none => []
  let fword := if cls = 0x10 ∨ cls = 0x17 then 0
    else match low with
      | some l => if cls = 0x13 ∨ cls = 0x16 then ((g.threads[l]).trap.map (·.fword)).getD 0 else (g.threads[l]).waitWord false
      | none => 0
  [BitVec.ofNat 32 (k.val * 2 ^ 16 + (decide (1 < g.classes.eraseDups.length)).toNat * 2 ^ 8 + cls),
    laneMask fun l => (g.threads[l]).trap.isSome, fword, BitVec.ofNat 32 detail.length] ++ detail

/-- R401, R105: a pending or completed token of kernel code among s124 to s127 is set aside with the register. -/
def Token.aside (t : Token) : Token := if 124 ≤ t.reg ∧ t.reg < 128 then { t with reg := t.reg + 128 } else t

/-- R401: it comes back; a token of the handler's there is gone (log 84). -/
def Group.tokensBack (g : Group) : List Token :=
  (g.tokens.filter fun t => !(decide (124 ≤ t.reg) && decide (t.reg < 128))).map fun t => if 128 ≤ t.reg then { t with reg := t.reg - 128 } else t

/-- R401: the group enters the handler with a record; `entry` is `%hentry`. -/
def Group.enterHandler (g : Group) (cls : Nat) (record : List Word) (restore : Bool) (entry : Word) (estate : Thread → Word) : Group :=
  let shadow : Vector Word 4 := #v[g.uni 124, g.uni 125, g.uni 126, g.uni 127]
  { g.mapThreads (fun _ t =>
      let e := estate t
      if t.gone then { t with estate := e }
      else { t with epc := t.waitWord false, estate := e, sv0 := t.v[0], sv1 := t.v[1], run := .ready, pc := entry, inside := none }) with
    handler := some ⟨record, cls, restore, shadow⟩
    tokens := g.tokens.map Token.aside
    stepping := false
    preempt := g.preempt && cls != 0x17
    expired := g.expired && cls != 0x10 }

/-- R334, R397, R410: the group has come to rest: its pips are zero, and before class 0x17 none of its passes is running and none of its
replay reads is in flight. -/
def State.atRest (s : State) (c : CoreId) (k : Slot) (g : Group) : Bool :=
  (List.finRange 12).all (fun n : Fin 12 => g.pip[n] == 0)
  && !(g.preempt && ((s.quads[quadOf c]).entries.any (fun e => e.core == c && e.slot == k && e.started && match e.job with
      | .pass _ _ _ _ _ _ => true
      | _ => false)
    || s.ops.any fun o => o.core == c && o.slot == k && match o.work with
      | .plyGet _ _ _ _ _ => true
      | _ => false))

/-- R398 to R401: the delivery of the group in a slot. -/
def State.deliver (s : State) (c : CoreId) (k : Slot) : State :=
  match s.group? c k with
  | none => s
  | some g =>
    let x := s.cores[c]
    s.setGroup c k (some (g.enterHandler g.deliveryClass (g.record k x.wdlim) false x.hentry (s.estateOf g)))

/-- R398: a halted group at rest is delivered to the handler. -/
def execTrapDelivery (core : CoreId) (slot : Slot) (s : State) : Host.Outcome State Fault Refusal :=
  .next (match s.group? core slot with
    | some g =>
      if g.mustHalt && (g.anyThread fun _ t => !t.gone) && s.atRest core slot g then ((s.haltSlot core slot).purge).deliver core slot else s
    | none => s)

/-! ### ERET (R405, R409, R414) -/

/-- R397, R405, R406: what a thread does that resumes in a wait at HWAIT, at an MMA word or in TKT: it waits on at its word, unless there is
no such word there, or nothing is left to wait for. -/
def resumeWait (wait : Nat) (word : Option Word) (cv : Vector Cv 8) : Run :=
  match word with
  | none => .ready
  | some w =>
    let n : Fin 8 := ⟨fieldOf w.toNat 16 3, Nat.mod_lt _ (by decide)⟩
    match wait, fieldOf w.toNat 25 7 with
    | 5, 0x57 => .hwait (w.getLsbD 7) ⟨fieldOf w.toNat 0 5, Nat.mod_lt _ (by decide)⟩
    | 7, 0x38 => if (cv[n]).st == .open_ || (cv[n]).st == .postwait then .mma n else .ready
    | 8, 0x61 => .tkt
    | _, _ => .ready

/-- R405, R406: a thread stands again where EPC and ESTATE say. `parked` holds the fault entries that still name it, with whether another
was answered with fail, or none for a thread that stays parked until a pre-emption that is pending has saved it (R366); `acq` says that
its group's request still waits. -/
def Thread.resume (t : Thread) (code : List Word) (cv : Vector Cv 8) (parked : List Nat) (failed preempt acq : Bool) : Thread :=
  if t.gone then t
  else
    let e := t.estate.toNat
    let n : Fin 16 := ⟨fieldOf e 8 4, Nat.mod_lt _ (by decide)⟩
    let w := estateWait t.estate
    let run : Run :=
      if e.testBit 1 then (if parked.isEmpty && !preempt then .ready else .parked parked failed)
      else if w = 1 then .rcv
      else if w = 2 then .bar false n
      else if w = 3 then .bar true n
      else if w = 6 ∧ acq then .acq
      else resumeWait w (codeAt code t.epc) cv
    let t := { t with run := run, noBp := true, v := (t.v.set 0 t.sv0).set 1 t.sv1 }
    match (if e.testBit 2 then locate code code.length 0 (t.epc.toNat / 4) else none) with
    | some (h, i) => { t with pc := BitVec.ofNat 32 (4 * h), inside := some i, guard := e.testBit 3 }
    | none => { t with pc := t.epc, inside := none }

/-- R405: the group in a slot leaves the handler. -/
def State.leaveHandler (s : State) (c : CoreId) (k : Slot) : State :=
  match s.group? c k with
  | none => s
  | some g => match g.handler with
    | none => s
    | some d =>
      let g0 := { g with handler := none }
      let code := s.codeOf g0
      let acq := (s.quads[quadOf c]).acq.any fun r => r.1 == c && r.2 == k
      let named := fun l : Lane => s.faults.filter fun f => f.core == c && f.slot == k && hasBit f.lanes l
      let g1 := g0.mapThreads fun l t =>
        let t := { t with sets := if d.restore then g.setsOf else t.sets }.resume code g.cv ((named l).map fun f : FaultEntry => f.id)
          ((named l).any fun f => hasBit f.refused l) (g.preempt && t.trap.isNone) acq
        if (t.trap.map fun x : Trap => x.cls) == some d.cls then { t with trap := none } else t
      let g2 := (List.finRange 4).foldl (fun (g : Group) (i : Fin 4) => g.setUni (124 + i.val) d.shadow[i]) { g1 with tokens := g.tokensBack }
      let restart := match s.team? g.team with
        | some t => t.wdHit && (s.teamGroups t).any fun p => (p.2.handler.map fun d : Delivery => d.cls) == some 0x10
        | none => false
      let s := s.setGroup c k (some g2)
      let s := { s with bundles := s.bundles.map fun b : Bundle => if b.core = c then { b with members := b.members.filter fun m => m.slot != k } else b }
      let s := if restart then s.modTeam g.team fun t => { t with wd := 0, wdHit := false } else s
      match s.team? g.team with
      | some t => (List.finRange 32).foldl (fun s n => s.hwaitGroup c n t.handles[n] k) s
      | none => s

/-- R405: `eret`. -/
def execEret (s : State) : Host.Outcome State Fault Refusal :=
  uniWord eretInfo (fun b m g s => s.privileged b m g fun s => s.leaveHandler b.core m.slot) s

/-- R414: the thread cannot be stepped: class 0x12 with STEPBLK. -/
def State.stepBlocked (s : State) (c : CoreId) (k : Slot) (l : Lane) (lane : Nat) (pc : Option Word) : State :=
  s.modGroup c k fun g => g.modThread l fun t =>
    let t := match pc with
      | some x => { t with pc := x, inside := none }
      | none => t
    { t with trap := some (t.trap.getD ⟨0x12, t.waitWord false, [BitVec.ofNat 32 (if pc.isSome then lane else lane + 2 ^ 8)]⟩) }

/-- R172, R414: word `i` of a clause, or the word that its PREFIX precedes, gathers more than one thread of the group. -/
def Group.gathersMany (g : Group) (ws : List Word) (i : Nat) : Bool :=
  let w := ws.getD i 0
  let pfx := fieldOf w.toNat 25 7 == 0x3F
  let mods := if pfx then gathersOf (some w) ((ws.drop (i + 1)).take 1) else gathersOf none [w]
  mods.any fun mod => decide (1 < ((List.finRange 32).filter fun l : Lane => g.gatherSet mod l).length)

/-- R414: a thread of a group that has left the handler issues one word alone. At a header its clause is fetched and checked as for any bundle
(R53, R172, R365). DESIGN CHOICE (log 91): a thread whose clause lies in a page that faults parks, and reports STEPBLK. -/
def State.stepThread (s : State) (c : CoreId) (k : Slot) (g : Group) (l : Lane) : State :=
  let t := g.threads[l]
  let s := s.modGroup c k fun g => { g with stepping := true }
  if t.run != .ready then s.stepBlocked c k l l.val none
  else
    let r := if t.inside.isSome then (s, .ok) else s.fetchClause c g t.pc
    match r.2 with
    | .page va => (r.1.parkReady c va [(k, oneBit l.val)]).stepBlocked c k l l.val none
    | .fail cause va => r.1.raiseReady c k (oneBit l.val) 0x06 (vaDetail cause va)
    | .ok =>
      let s := r.1
      match clauseWords (s.codeOf g) t.pc, codeAt (s.codeOf g) t.pc with
      | some ws, some h =>
        if t.inside.isSome then
          if g.gathersMany ws (t.inside.getD 0) then s.stepBlocked c k l l.val none
          else s.resumeAt c k g t.pc (t.inside.getD 0) (oneBit l.val) true
        else if !g.waitMet h then s.stepBlocked c k l l.val none
        else match clauseFault h ws with
          | some (i, cls) => s.raiseReady c k (oneBit l.val) cls [if i = 0 then h else ws.getD (i - 1) 0, BitVec.ofNat 32 i]
          | none =>
            if t.pred (fieldOf h.toNat 1 6) == h.getLsbD 0 then
              s.stepBlocked c k l l.val (some (t.pc + BitVec.ofNat 32 (4 * (ws.length + 1))))
            else if g.gathersMany ws 0 then s.stepBlocked c k l l.val none
            else s.resumeAt c k (g.modThread l fun t => { t with guard := true, sets := g.setsOf }) t.pc 0 (oneBit l.val) true
      | _, _ => s.raiseReady c k (oneBit l.val) 0x06 (vaDetail 3 0)

/-- R414: the thread that `%step` names is stepped, if it is a thread of this group that has not exited; else the group's lowest thread
reports STEPBLK. -/
def State.stepNamed (s : State) (c : CoreId) (k : Slot) : State :=
  match s.group? c k with
  | none => s
  | some g =>
    if g.mustHalt || g.handler.isSome then s
    else
      let x := (s.cores[c]).step.toNat
      let l : Lane := ⟨fieldOf x 0 5, Nat.mod_lt _ (by decide)⟩
      if fieldOf x 8 5 = k.val ∧ !(g.threads[l]).gone then s.stepThread c k g l
      else match (List.finRange 32).find? fun l : Lane => !(g.threads[l]).gone with
        | some low => s.stepBlocked c k low l.val none
        | none => s

/-- R414: `eret.step`. -/
def execEretStep (s : State) : Host.Outcome State Fault Refusal :=
  match s.bundles, execEret s with
  | b :: _, .next s' => .next ((s.members b).foldl (fun s' m =>
      if ((s.group? b.core m.slot).map fun g => g.handler.isSome) == some true && ((s'.group? b.core m.slot).map fun g => g.handler.isNone) == some true
      then s'.stepNamed b.core m.slot else s') s')
  | _, r => r

/-- R405: `eret.kill`. -/
def execEretKill (s : State) : Host.Outcome State Fault Refusal :=
  uniWord eretInfo (fun b m g s => s.privileged b m g fun s =>
    let cls := (g.handler.map (·.cls)).getD 0
    (s.killTeam g.team cls).logged (.killed b.core m.slot cls)) s

/-- R411: a team none of whose groups is resident any more, some of them through `eret.out`, is suspended. What it has written is there
when it is restored. -/
def State.suspendTeam (s : State) (key : Nat) : State :=
  match s.team? key with
  | some t =>
    if (s.teamGroups t).isEmpty && !t.out.isEmpty then
      let s := s.release t.core 5
      { s with teams := s.teams.filter fun u => u.key != key, board := { s.board with suspended := s.board.suspended ++ [t] } }
    else s
  | none => s

/-- R363: a transfer or the scheduler still waits for a fault entry, whatever becomes of the group in its slot. -/
def State.awaitedFault (s : State) (f : FaultEntry) : Bool :=
  (s.teams.any fun t => t.handles.toList.any fun h => h.wait == some f.id) || (s.launches.any fun l => l.hold == some f.id)
    || s.board.vf.toList.any fun v => v.wait == some f.id

/-- R363, R410: what a group leaves behind in a slot is taken away: its operations, reservation entries, ACQ request and fault
entries. Its accesses are its team's (R383). -/
def State.clearSlot (s : State) (c : CoreId) (k : Slot) : State :=
  let s := match s.group? c k with
    | some g => s.modTeam g.team fun t : Team => { t with did := View.joins (t.did :: s.viewOf c k 0xFFFFFFFF :: g.tokens.map fun x : Token => x.did) }
    | none => s
  let q := quadOf c
  let x := s.quads[q]
  let s := { s with
    ops := s.ops.filter fun o => !(o.core == c && o.slot == k)
    rereads := s.rereads.filter fun r => !(r.core == c && r.slot == k)
    faults := s.faults.filter fun f => !(f.core == c && f.slot == k) || s.awaitedFault f
    quads := s.quads.set q { x with entries := x.entries.filter fun e => !(e.core == c && e.slot == k)
                                    acq := x.acq.filter fun r => !(r.1 == c && r.2 == k) } }
  s.modCore c fun y => { y with slots := y.slots.set k none, sched := y.sched.set k .reset }

/-- R405, R411: `eret.out`. -/
def execEretOut (s : State) : Host.Outcome State Fault Refusal :=
  uniWordWhen eretInfo State.outWaits (fun b m g s => s.privileged b m g fun s =>
    match g.handler with
    | some d =>
      if d.cls = 0x17 ∧ !d.restore then
        let away : Away := ⟨g.gid, laneMask fun l => (g.threads[l]).gone, g.lanes, g.tiles.length⟩
        ((s.clearSlot b.core m.slot).modTeam g.team fun t => { t with out := t.out ++ [away] }).suspendTeam g.team
      else s.badOperand b m
    | none => s) s

/-! ### CTX (R406) -/

/-- R406: a thread's item. -/
def Thread.item (t : Thread) (item : Nat) : Word :=
  match item with
  | 0 => t.epc
  | 1 => (t.estate &&& 0xFFF#32) ||| BitVec.ofNat 32 (((t.trap.map (·.cls)).getD 0) * 2 ^ 16)
  | 2 => BitVec.ofNat 32 t.depth
  | 3 => BitVec.ofNat 32 t.turn
  | 4 => t.q.extractLsb' 0 32 ||| 1
  | 5 => t.q.extractLsb' 32 32
  | 6 => t.sv0
  | _ => t.sv1

/-- R406: a write of a thread's item. `ring` is N. DESIGN CHOICE (log 43): a TURN of N or more is taken modulo N, and is 0 where N is 0. -/
def Thread.setItem (t : Thread) (ring item : Nat) (x : Word) : Thread :=
  match item with
  | 0 => { t with epc := x }
  | 1 =>
    let cls := fieldOf x.toNat 16 8
    { t with
      estate := (t.estate &&& 1) ||| (x &&& 0xFFE#32)
      trap := if cls = 0 then none else if (t.trap.map (·.cls)) == some cls then t.trap else some ⟨cls, t.epc, []⟩ }
  | 2 => { t with depth := x.toNat }
  | 3 => { t with turn := if ring = 0 then 0 else x.toNat % ring }
  | 4 => { t with q := t.q.extractLsb' 32 32 ++ ((x &&& ~~~ 1#32) ||| (t.q.extractLsb' 0 32 &&& 1#32)) }
  | 5 => { t with q := x ++ t.q.extractLsb' 0 32 }
  | 6 => { t with sv0 := x }
  | _ => { t with sv1 := x }

/-- R406: a group item. -/
def State.groupItem (s : State) (c : CoreId) (k : Slot) (g : Group) (item idx : Nat) : Word :=
  match g.handler with
  | none => 0
  | some d =>
    match item with
    | 0x20 => d.record.getD idx 0
    | 0x23 => d.shadow[(⟨idx % 4, Nat.mod_lt _ (by decide)⟩ : Fin 4)]
    | 0x24 => g.sticky
    | 0x25 => g.seed.extractLsb' (32 * idx) 32
    | _ => BitVec.ofNat 32 (s.esize c k g)

/-- R406: the index of a form, register or immediate as it stands. -/
def Group.ctxIndex (g : Group) : USrc → Nat
  | .reg n => (g.uni n.val).toNat
  | .imm x => x.toNat

/-- R406: `ctx.rd`. -/
def execCtxRd (d a : Fin 128) (b : USrc) (s : State) : Host.Outcome State Fault Refusal :=
  uniWord (ctxRdInfo d a b) (fun bn m g s => s.privileged bn m g fun s =>
    let idx := g.ctxIndex b
    if idx < (ctxIndices a.val).getD 0 then s.setGroup bn.core m.slot (some (g.setUni d.val (s.groupItem bn.core m.slot g a.val idx)))
    else s.badOperand bn m) s

/-- R406: `ctx.rdv`. -/
def execCtxRdv (d a : Fin 128) (s : State) : Host.Outcome State Fault Refusal :=
  uniWordWhen (ctxRdvInfo d a) (State.shadowWaits a.val) (fun b m g s => s.privileged b m g fun s =>
    if g.inAllot d.val then
      s.setGroup b.core m.slot (some (g.mapThreads fun _ t => if t.gone then t else t.setLane g.ring d.val (t.item a.val)))
    else s.badOperand b m) s

/-- R406: `ctx.wr`. -/
def execCtxWr (d a : Fin 128) (b : USrc) (s : State) : Host.Outcome State Fault Refusal :=
  uniWord (ctxWrInfo d a b) (fun bn m g s => s.privileged bn m g fun s =>
    let idx := g.ctxIndex b
    let x := g.uni a.val
    if (ctxIndices d.val).getD 0 ≤ idx then s.badOperand bn m
    else match d.val, g.handler with
      | 0x23, some y => s.setGroup bn.core m.slot (some { g with
          handler := some { y with shadow := y.shadow.set (⟨idx % 4, Nat.mod_lt _ (by decide)⟩ : Fin 4) x } })
      | 0x24, _ => s.setGroup bn.core m.slot (some { g with sticky := x &&& 7 })
      | 0x25, _ => s.setGroup bn.core m.slot (some { g with
          seed := if idx = 0 then g.seed.extractLsb' 32 32 ++ x else x ++ g.seed.extractLsb' 0 32 })
      | _, _ => s.badOperand bn m) s

/-- R156: the call-stack limit of a group's kernel, in entries. -/
def State.depthLimit (s : State) (g : Group) : Nat := ((s.kernelOf g).map (·.stack)).getD 0 / 4

/-- R406: `ctx.wrv`. -/
def execCtxWrv (d a : Fin 128) (s : State) : Host.Outcome State Fault Refusal :=
  uniWordWhen (ctxWrvInfo d a) (State.shadowWaits d.val) (fun b m g s => s.privileged b m g fun s =>
    let value := fun t : Thread => t.lane g.ring a.val
    if !g.inAllot a.val || (d.val == 2 && g.anyThread fun _ t => !t.gone && decide (s.depthLimit g < (value t).toNat)) then s.badOperand b m
    else s.setGroup b.core m.slot (some (g.mapThreads fun _ t => if t.gone then t else t.setItem g.ring d.val (value t)))) s

/-! ### Engine images (R407, R408) -/

/-- R407: `ctx.save`. -/
def execCtxSave (r : Fin 32) (s : State) : Host.Outcome State Fault Refusal :=
  uniWordWhen sealInfo State.outWaits (fun b m g s => s.privileged b m g fun s =>
    match g.handler with
    | some d =>
      if d.cls = 0x17 ∧ !d.restore then
        let s := s.readCalls b.core m.slot
        let n := s.esize b.core m.slot g
        match s.placeGroup b m r.val (imageAccess 1 n g.b[r]) 0 with
        | (s, none) => s
        | (s, some q) =>
          let im := s.imageOf b.core m.slot g
          let s := { s with nextId := s.nextId + 1, board := { s.board with saved := im :: s.board.saved } }.atWrite b.core m.slot m.sel
          let past := s.pastOf b.core m.slot m.sel
          q.elems.foldl (fun s e => (s.storeElem b.core m.slot m.sel past none (s.storeWay b.core (Rec.of g.b[r]) {}) [] e.1 e.2
            (Config.imageByte im.id e.1.n).toNat).1) s
      else s.badOperand b m
    | none => s) s

/-- R407: threads of a group read an image of a number from the bytes of a record: it is there unchanged. -/
def State.imageRead (s : State) (b : Bundle) (m : Member) (im : Image) (es : List (Elem × List Target)) : State × Bool :=
  let ts := es.flatMap (·.2)
  let s := s.touchAll (corePort b.core) false false (s.missing b.core true ts)
  let r := s.loadOf b.core m.slot m.sel (s.pastOf b.core m.slot m.sel) true none none ts
  (r.1, !ts.any s.poisonedTarget && r.2.1 == (List.range im.size).map (Config.imageByte im.id))

/-- R407: `ctx.rest` for one group. -/
def State.restFor (s : State) (b : Bundle) (m : Member) (g : Group) (r : Fin 32) : State :=
  let n := s.esize b.core m.slot g
  let bad := fun s : State => s.raise b m.slot (fun l => hasBit m.sel l) 0x06 (vaDetail 0 0)
  match s.placeGroup b m r.val (imageAccess 0 n g.b[r]) 0 with
  | (s, none) => s
  | (s, some _) => match (s.imageAt b.core m.slot g g.b[r] none).orElse fun _ => s.imageAt b.core m.slot g g.b[r] (some n) with
    | none => bad s
    | some im => match s.placeGroup b m r.val (imageAccess 0 im.size g.b[r]) 0 with
      | (s, none) => s
      | (s, some q) =>
        let x := s.imageRead b m im q.elems
        if x.2 then match x.1.group? b.core m.slot with
          | some g => x.1.putBack b.core m.slot g im
          | none => x.1
        else bad x.1

/-- R407: `ctx.rest`. -/
def execCtxRest (r : Fin 32) (s : State) : Host.Outcome State Fault Refusal :=
  issueWhen sealInfo (restWaits r)
    (fun b _ s => s.eachMember b fun m s => match s.group? b.core m.slot with
      | none => s
      | some g => s.privileged b m g fun s => match g.handler with
        | none => s
        | some d => if d.cls = 0x17 ∧ d.restore then s.restFor b m g r else s.badOperand b m) s

/-! ### Barrier time-out (R169, R170) -/

/-- R170: WHY for a thread of a group; `stalled` says that its open bundle is stalled on a pip or token. -/
def State.why (s : State) (g : Group) (stalled : Bool) (t : Thread) : Nat :=
  if g.handler.isSome || g.mustHalt then 7
  else match t.run with
    | .parked _ _ => 4
    | .bar _ _ => 1
    | .rcv => 2
    | .hwait _ _ => 5
    | .acq => 6
    | .mma _ => 9
    | .tkt => 10
    | .yield _ => 11
    | .member => if stalled then 8 else 0
    | _ => if (s.waitCode g t).1 = 4 || !s.insideFull g t then 3 else if s.threadReady g t then 0 else 8

/-- R170: PC for a thread: the word at which it waits or has parked, or its clause header. -/
def State.reportPc (s : State) (g : Group) (t : Thread) : Nat :=
  if g.handler.isSome then
    let e := t.estate.toNat
    let code := s.codeOf { g with handler := none }
    if e.testBit 1 || estateWait t.estate != 0 then (if estateWait t.estate = 6 then (t.epc - 4).toNat else t.epc.toNat)
    else match (if e.testBit 2 then locate code code.length 0 (t.epc.toNat / 4) else none) with
      | some (h, _) => 4 * h
      | none => t.epc.toNat
  else match t.run with
    | .acq => (t.waitWord false - 4).toNat
    | .ready => if s.insideFull g t then t.pc.toNat else (t.waitWord false).toNat
    | .member => t.pc.toNat
    | .yield _ => t.pc.toNat
    | _ => (t.waitWord false).toNat

/-- Counts a key in a list kept in ascending order. -/
def tally : List (Nat × Nat) → Nat → List (Nat × Nat)
  | [], x => [(x, 1)]
  | (y, n) :: rest, x => if x < y then (x, 1) :: (y, n) :: rest else if x = y then (y, n + 1) :: rest else (y, n) :: tally rest x

/-- R170: the open bundle of a thread is stalled on a pip or a token of one of its groups: its next word's operands, its pip, or what
`tsync.all` and `acq.rel` wait for. -/
def State.memberStalled (s : State) (c : CoreId) (k : Slot) (l : Lane) : Bool :=
  s.bundles.any fun b => b.core = c && (b.members.any fun m => m.slot == k && hasBit (m.sel ||| m.skip) l)
    && b.members.any fun m => match s.group? c m.slot with
      | some g => g.tokenStall b.nextInfo || g.pipStall b b.nextInfo || g.syncStall b
      | none => false

/-- R170: the diagnostic record of a barrier of a team. -/
def State.barRecord (s : State) (t : Team) (clu : Bool) (n : Fin 16) : List Word :=
  let keys := (s.teamGroups t).flatMap fun p => (List.finRange 32).filterMap fun l : Lane =>
    let x := p.2.threads[l]
    if x.gone || x.waitsAt p.2.handler.isSome clu n then none
    else some (s.reportPc p.2 x * 16 + s.why p.2 (s.memberStalled t.core p.1 l) x)
  let entries := keys.foldl tally []
  let listed := entries.take 64
  let late := if clu then ((s.clusterOf t).filter fun u => decide (s.arrived u clu n < s.expected u)).foldl (fun w u => w ||| 2 ^ u.rank) 0 else 0
  let head := [0x09 + clu.toNat * 2 ^ 8 + n.val * 2 ^ 10 + (decide (64 < (entries.map fun e => e.1 / 16).eraseDups.length)).toNat * 2 ^ 14 + listed.length * 2 ^ 16,
    s.arrived t clu n + s.expected t * 2 ^ 16, late, 0]
  (head ++ listed.flatMap fun e : Nat × Nat => [e.1 / 16, e.2 + e.1 % 16 * 2 ^ 16]).map (BitVec.ofNat 32)

/-- R169: the waiting threads of one group raise class 0x09, and their arrivals are withdrawn. -/
def Group.barTimeout (g : Group) (clu : Bool) (n : Fin 16) (detail : List Word) : Group :=
  let h := g.handler.isSome
  g.mapThreads fun _ t =>
    if t.waitsAt h clu n then
      let t := { t with trap := some (t.trap.getD ⟨0x09, t.waitWord h, detail⟩) }
      if h then { t with estate := t.estate &&& ~~~ (0xFF0#32) } else { t with run := .ready }
    else t

/-- R169: a barrier's count reaches its limit. -/
def execBarrierTimeout (core : CoreId) (slot : Slot) (clu : Bool) (bar : Fin 16) (s : State) : Host.Outcome State Fault Refusal :=
  .next (match (s.group? core slot).bind fun g => s.team? g.team with
    | none => s
    | some t =>
      let lim := (if clu then (s.cores[core]).barlimc else (s.cores[core]).barlimt).toNat
      if lim ≠ 0 ∧ lim ≤ t.bars[barIx clu bar] ∧ s.arrived t clu bar ≠ 0 then
        let detail := s.barRecord t clu bar
        let s1 := (s.teamGroups t).foldl (fun s p =>
          let s := s.modGroup core p.1 fun g => g.barTimeout clu bar detail
          match s.group? core p.1 with
          | some g => if g.mustHalt then s.haltSlot core p.1 else s
          | none => s) s
        (s1.modTeam t.key fun t => { t with bars := t.bars.set (barIx clu bar) 0 }).purge
      else s)

/-! ### Watchdog and pre-emption (R409, R410) -/

/-- R409: the team's count reaches its limit: every group of the team halts for class 0x10. -/
def execWatchdogExpiry (core : CoreId) (slot : Slot) (s : State) : Host.Outcome State Fault Refusal :=
  .next (match (s.group? core slot).bind fun g => s.team? g.team with
    | none => s
    | some t =>
      let lim := (s.cores[core]).wdlim.toNat
      if lim ≠ 0 ∧ lim ≤ t.wd ∧ !t.wdHit then
        (((s.teamGroups t).foldl (fun s p => (s.modGroup core p.1 fun g =>
          if g.allThreads fun _ x => x.gone then g else { g with expired := true }).haltSlot core p.1) s).modTeam t.key
            fun t => { t with wdHit := true }).purge
      else s)

/-- R366, R410: the context's fault entries are withdrawn: operations, transfers and the scheduler's writes that waited for one translate
again, and so do handler threads that had parked. -/
def State.withdrawFaults (s : State) (ctx : Fin 64) : State :=
  let ids := (s.faults.filter fun f => f.ctx == ctx).map (·.id)
  let free := fun w : Option Nat => match w with | some i => if ids.contains i then none else some i | none => none
  { s with
    faults := s.faults.filter fun f => f.ctx != ctx
    ops := s.ops.map fun o => match (match o.work with
        | .mvx c => c.wait
        | .drain _ _ _ _ _ _ _ _ _ _ w _ _ _ => w
        | _ => none) with
      | some i => if ids.contains i then o.rewait else o
      | none => o
    teams := s.teams.map fun t => { t with handles := t.handles.map fun h => { h with wait := free h.wait } }
    launches := s.launches.map fun l => { l with hold := free l.hold }
    cores := s.cores.map fun x => { x with slots := x.slots.map fun g => match g with
      | some g => some (if g.ctx == ctx && g.handler.isSome then g.mapThreads fun _ t => match t.run with
          | .parked _ _ => { t with run := .ready }
          | _ => t else g)
      | none => none } }

/-- R410: pre-emption of the context of the group in a slot. -/
def execPreemptionRequest (core : CoreId) (slot : Slot) (s : State) : Host.Outcome State Fault Refusal :=
  .next (match s.group? core slot with
    | none => s
    | some g0 =>
      let hit := (List.finRange 384).flatMap fun c : CoreId => ((List.finRange 32).filter fun k : Slot => match s.group? c k with
        | some g => g.ctx == g0.ctx && g.anyThread fun _ t => !t.gone
        | none => false).map fun k => (c, k)
      let s := (s.withdrawFaults g0.ctx)
      (hit.foldl (fun (s : State) (p : CoreId × Slot) =>
        let s := s.modGroup p.1 p.2 fun g => { g with preempt := true }
        match s.group? p.1 p.2 with
        | some g => if g.mustHalt then s.haltSlot p.1 p.2 else s
        | none => s) s).purge)

end Sys2Proof.Machine
end

