-- ==== Sys2Proof/Machine/Streams.lean ====
section
/-! DEFINITION. Stream transfers and the retirement of teams (R91, R255 to R258, R263 to R266, R299, R344 to R348, R396). -/

namespace Sys2Proof.Machine

/-! ### Retirement of a team -/

/-- R91, R266: the team's last group has retired and its output instances are FREE. -/
def State.teamDone (s : State) (t : Team) : Bool :=
  (s.teamGroups t).isEmpty && t.out.isEmpty && t.handles.toList.all fun h => !h.declared || !h.out || h.st == .free

/-- R91, R258, R383, R396: a team retires: its accesses and those of its drains happen before what follows, its region and private area are
free, what its input instances held back goes FREE, its launch counts it, and where it has posted no ticket an automatic post waits for its
turn. A fault entry that no other team's transfer waits for goes (R265). -/
def State.retireTeam (s : State) (key : Nat) : State :=
  match s.team? key with
  | none => s
  | some t =>
    if s.teamDone t then
      let s := s.release t.core 5
      let rest := s.teams.filter fun u => u.key != key
      let waited := fun (u : Team) (id : Nat) => u.handles.toList.any fun h => h.wait == some id
      let did := View.joins (t.did :: (t.handles.toList.filter fun h => h.declared && h.out).map (·.view))
      let s := { s with teams := rest
                        faults := s.faults.filter fun f => !waited t f.id || rest.any fun u => waited u f.id }.modLaunch t.launch fun l =>
        { l with retired := l.retired + 1, did := l.did.join did
                 posts := if l.tkt && !t.posted && l.killed.isNone then l.posts ++ [(t.index, t.killed, did)] else l.posts }
      s.freeRest (s.clusterOf t)
    else s

/-! ### Where a transfer stands -/

/-- R266: a pre-emption stops the team, or has taken it away. -/
def State.stopped (s : State) (t : Team) : Bool := !t.out.isEmpty || (s.teamGroups t).any fun p => p.2.engineHeld

/-- The context of a team's launch. -/
def State.ctxOf (s : State) (t : Team) : Option (Fin 64) := (s.launch? t.launch).map (·.ctx)

/-- R266: the team's transfers are stopped by a pre-emption of its context. Those of a team whose threads have all exited go on once every
other team of the context is back (log 92). -/
def State.streamHeld (s : State) (t : Team) : Bool :=
  s.stopped t || ((s.teamGroups t).all fun p => p.2.allThreads fun _ x => x.gone)
    && ((s.teams.any fun u => s.ctxOf u == s.ctxOf t && s.stopped u) || s.board.suspended.any fun u => s.ctxOf u == s.ctxOf t)

/-- The first team with a group's slot on a core whose instance of the handle satisfies a test. -/
def State.transfer? (s : State) (c : CoreId) (k : Slot) (n : Fin 32) (test : Team → Handle → Flow → Bool) : Option (Team × Flow) :=
  (s.teams.filter fun t => t.core = c && t.slots.contains k).findSome? fun t =>
    match s.flow t t.handles[n] with
    | some f => if t.handles[n].declared && !s.streamHeld t && test t t.handles[n] f then some (t, f) else none
    | none => none

/-- R257: the next tile of the stream goes to this handle, and every receiving instance is FREE. -/
def State.fillReady (s : State) (t : Team) (n : Fin 32) (h : Handle) (f : Flow) : Bool :=
  let us := s.receivers t h
  let k := t.nextIn h
  !h.out && decide (f.decl.first + k % f.decl.count = n.val) && f.hasTile (f.tile k)
  && (us.any fun u => u.key == t.key) && us.all fun u => (u.handles[n]).st == .free && !s.streamHeld u

/-- R257: the next tile of a stream begins to fill a handle of every receiving instance. -/
def State.startFill (s : State) (t : Team) (n : Fin 32) (f : Flow) : State :=
  let h := t.handles[n]
  let i : Fin 8 := ⟨h.stream % 8, Nat.mod_lt _ (by decide)⟩
  let tile := f.tile (t.nextIn h)
  (s.receivers t h).foldl (fun s u => (s.modHandle u.key n fun h => h.begin .filling tile).modTeam u.key fun u =>
    { u with inNext := u.inNext.set i (u.inNext[i] + 1) }) s

/-- R257: a fill starts. -/
def execStreamFillStart (core : CoreId) (slot : Slot) (handle : Fin 32) (s : State) : Host.Outcome State Fault Refusal :=
  .next (match s.transfer? core slot handle fun t h f => s.fillReady t handle h f with
    | none => s
    | some (t, f) => s.startFill t handle f)

/-! ### Reading and writing a stream's memory -/

/-- How a part of a transfer ends. -/
inductive Moved where
  | done
  /-- The virtual address of a line without a page. -/
  | page (va : Nat)
  | lost
  deriving DecidableEq, Repr

/-- The segment of a stream's record. -/
def Flow.segment (f : Flow) : BitVec 128 := f.launch.seg[(⟨(Rec.of f.record).seg % 8, Nat.mod_lt _ (by decide)⟩ : Fin 8)]

/-- The virtual address of a byte offset of the segment. -/
def Flow.va (f : Flow) (off : Nat) : Nat := (segBase f.segment + off) % 2 ^ 57

/-- R192, R265: the lines of some bytes, given by their segment offsets, are translated for a transfer of a core. -/
def State.moveLines (s : State) (c : CoreId) (f : Flow) (write : Bool) (offs : List Nat) : State × List (Nat × Walk) × Moved :=
  let lines := (offs.map fun o => f.va o / 128).eraseDups
  let r := s.translateLines (.board (chipOf c)) f.launch.ctx write lines
  if offs.any fun o => decide (segLimit f.segment ≤ o) then (s, [], .lost)
  else match r.2.find? fun w => match w.2 with | .failure => true | .ok pa _ => s.peerRefuses pa | .page => false with
    | some _ => (r.1, r.2, .lost)
    | none => match r.2.find? fun w => w.2 == .page with
      | some w => (r.1, r.2, .page (w.1 * 128))
      | none => (r.1, r.2, .done)

/-- The target of a byte offset once its line has been translated. -/
def Flow.target (f : Flow) (walks : List (Nat × Walk)) (off : Nat) : Target :=
  match lookupLine walks (f.va off) with
  | .ok pa key => .phys (pa + f.va off % 128) key
  | _ => .phys 0 none

/-- R355: what happens before accesses by the translations of some lines. -/
def State.moveHeard (s : State) (c : CoreId) (f : Flow) (walks : List (Nat × Walk)) : View :=
  View.joins (walks.map fun w => s.heardAt (.board (chipOf c)) f.launch.ctx (w.1 * 128))

/-- R264: bytes of a handle's buffer from a tile offset on, each by itself, after a view; whether one is in error (R424); and the read. -/
def State.bufferBytes (s : State) (t : Team) (h : Handle) (off n : Nat) : State × List Byte × Bool :=
  let ts := (List.range n).map fun i => Target.scratch t.core (t.base + h.buf + off + i)
  let got := ts.map fun x => (s.take (s.known h.view) none [x]).getD 0 (0, none)
  (s.newRead h.view ts (got.filterMap (·.2)), got.map (·.1), ts.any s.poisonedTarget)

/-- R262, R264: bytes of a tile come into the buffer of every receiving instance, each by itself. -/
def State.landTile (s : State) (us : List Team) (n : Fin 32) (off : Nat) (bs : List Byte) : State :=
  us.foldl (fun s u => match s.team? u.key with
    | none => s
    | some v =>
      let h := v.handles[n]
      let id := s.nextId
      let known := s.known h.view
      let s := bs.zipIdx.foldl (fun s b =>
        let at_ := u.base + h.buf + off + b.2
        s.stand (coreDie u.core) false none known (.scratch u.core (at_ / 8)) [(at_, b.1, id)]) (s.newWrite .device [] h.view)
      s.modHandle u.key n fun h => { h with view := ⟨addId h.view.writes id, h.view.reads⟩ }) s

/-- R225, R226: a fill of some instances reads some bytes of memory, after what the scheduler waited for before it. -/
def State.fillRead (s : State) (us : List Team) (n : Fin 32) (v : View) (ts : List Target) : State × List Byte :=
  let r := s.readAs v ts
  (us.foldl (fun s u => s.modHandle u.key n fun h => { h with view := ⟨h.view.writes, addId h.view.reads r.2.2⟩ }) r.1, r.2.1)

/-- R225, R226: a drain writes bytes to memory, page by page. -/
def State.moveOut (s : State) (t : Team) (n : Fin 32) (v : View) (comp : Bool) (bs : List (Target × Byte)) : State :=
  let page := fun b : Target × Byte => b.1.pa?.map fun p => p.1 / pageBytes
  ((bs.map page).eraseDups).foldl (fun s p =>
    let w := s.writeAs t.core v (bs.filter fun b => page b == p) comp
    w.1.modHandle t.key n fun h => { h with view := ⟨addId h.view.writes w.2, h.view.reads⟩ }) s

/-- Changes the instances that a transfer concerns. -/
def State.modAll (s : State) (us : List Team) (n : Fin 32) (g : Handle → Handle) : State := us.foldl (fun s u => s.modHandle u.key n g) s

/-! ### Copies (R256, R265) -/

/-- The segment offsets of the bytes of the elements of one 64-byte step of a tile: for each element its offset, or nothing beyond
EXTENT. -/
def Flow.stepElems (f : Flow) (tile step : Nat) : List (Option Nat) :=
  let r := Rec.of f.record
  let per := 64 / r.elem
  (List.range per).map fun j =>
    let n := tile * f.t + step * per + j
    if n < r.extent then some (r.offset n) else none

/-- The byte offsets of an element list. -/
def byteOffsets (size : Nat) (es : List (Option Nat)) : List Nat := (es.filterMap id).flatMap fun o => (List.range size).map (o + ·)

/-- R256, R265: one element of a fill: zero beyond EXTENT, and where poison was read. -/
def State.fillElem (s : State) (us : List Team) (n : Fin 32) (f : Flow) (walks : List (Nat × Walk)) (v : View) (acc : List Byte × Bool) :
    Option Nat → State × List Byte × Bool
  | none => (s, acc.1 ++ List.replicate (Rec.of f.record).elem 0, acc.2)
  | some o =>
    let ts := (List.range (Rec.of f.record).elem).map fun i => f.target walks (o + i)
    if ts.any s.poisonedTarget then (s, acc.1 ++ List.replicate (Rec.of f.record).elem 0, true)
    else let r := s.fillRead us n v ts; (r.1, acc.1 ++ r.2, acc.2)

/-- R256, R265: one 64-byte step of a fill: its bytes, and whether poison was read. -/
def State.fillStep (s : State) (c : CoreId) (us : List Team) (n : Fin 32) (f : Flow) (tile step : Nat) : State × List Byte × Bool × Moved :=
  let r := Rec.of f.record
  let es := f.stepElems tile step
  let m := s.moveLines c f false (byteOffsets r.elem es)
  match m.2.2 with
  | .done =>
    let s := m.1.touchAll (corePort c) r.comp false ((byteOffsets r.elem es).map (f.target m.2.1))
    let x := es.foldl (fun x e => x.1.fillElem us n f m.2.1 (f.launch.view.join (s.moveHeard c f m.2.1)) x.2 e) (s, [], false)
    (x.1, x.2.1, x.2.2, .done)
  | x => (m.1, [], false, x)

/-- R256, R265: the steps of a fill from a cursor on. -/
def State.fillSteps (s : State) (c : CoreId) (us : List Team) (n : Fin 32) (f : Flow) (tile upto : Nat) : List Nat → State × Nat × Moved
  | [] => (s, upto, .done)
  | i :: rest =>
    let r := s.fillStep c us n f tile i
    match r.2.2.2 with
    | .done =>
      let s := r.1.landTile us n (64 * i) r.2.1
      (if r.2.2.1 then s.modAll us n fun h => { h with poison := true } else s).fillSteps c us n f tile upto rest
    | x => (r.1, 64 * i, x)

/-- R256, R265: one 64-byte step of a drain: whether an element was dropped. An element of the buffer in error is written as zero and sets
POISON (log 89). -/
def State.drainStep (s : State) (t : Team) (n : Fin 32) (h : Handle) (f : Flow) (tile step : Nat) : State × Bool × Moved :=
  let r := Rec.of f.record
  let es := f.stepElems tile step
  let m := s.moveLines t.core f true (byteOffsets r.elem es)
  match m.2.2 with
  | .done =>
    let x := es.zipIdx.foldl (fun x e => if e.1.isNone then x else
      let b := x.1.bufferBytes t h (64 * step + e.2 * r.elem) r.elem
      (b.1, x.2.1 ++ (if b.2.2 then b.2.1.map fun _ => 0 else b.2.1), x.2.2 || b.2.2)) (m.1, ([] : List Byte), false)
    let s := if x.2.2 then x.1.modHandle t.key n fun h => { h with poison := true } else x.1
    let ts := (byteOffsets r.elem es).map (f.target m.2.1)
    ((s.touchAll (corePort t.core) r.comp true ts).moveOut t n (h.view.join (s.moveHeard t.core f m.2.1)) r.comp (ts.zip x.2.1), es.any Option.isNone, .done)
  | x => (m.1, false, x)

/-- R256, R265: the steps of a drain from a cursor on. -/
def State.drainSteps (s : State) (t : Team) (n : Fin 32) (h : Handle) (f : Flow) (tile upto : Nat) : List Nat → State × Nat × Moved
  | [] => (s, upto, .done)
  | i :: rest =>
    let r := s.drainStep t n h f tile i
    match r.2.2 with
    | .done => (if r.2.1 then r.1.modHandle t.key n fun h => { h with bounds := true } else r.1).drainSteps t n h f tile upto rest
    | x => (r.1, 64 * i, x)

/-! ### Conversions (R344 to R348) -/

/-- R18 to R22: the bytes of a unit that hold element `j`. -/
def elemBytes (tag : Nat) (unit : List Byte) (j : Nat) : List Nat :=
  let codes := fun bits from_ => (List.range ((bits * j + bits - 1) / 8 - bits * j / 8 + 1)).map fun i => from_ + bits * j / 8 + i
  match Tag.ofCode tag with
  | some .tn5 => [0]
  | some .aq4 => aq 4 codes
  | some .aq8 => aq 8 codes
  | some g => match g.mx, g.scalar with
    | some f, _ => (f.bytes - 1) :: codes f.elem.bits 0
    | none, some f => codes f.bits 0
    | none, none => []
  | none => []
where
  /-- R22: a super-block's element: its block's scale code; n and the entries 0 to n - 1 where the element is looked for there; its code, S2
  and the zero where they give it. -/
  aq (w : Nat) (codes : Nat → Nat → List Nat) : List Nat :=
    let b := j / 32
    let q := AqBlock.read w (leValue unit)
    let zero := q.scales b == 0
    let escape := fieldOf q.codes (w * j) w == 2 ^ w - 1
    let constant := zero && q.entries.any fun e => e.wide && decide (e.index ≤ 1023) && e.index / 32 == b
    [8 + 2 * b] ++ (if zero || escape then [4, 5] ++ (List.range (8 * q.entries.length)).map (72 + 128 * w + ·) else [])
      ++ (if constant then [] else codes w 72 ++ (if escape then [] else [0, 1, 2, 3, 9 + 2 * b]))

/-- R22, R27: the bytes of a unit that its own CVX is read from. -/
def headBytes (tag : Nat) (unit : List Byte) : List Nat :=
  let side := fun w : Nat => [4, 5] ++ (AqBlock.read w (leValue unit)).entries.zipIdx.flatMap fun e => [72 + 128 * w + 8 * e.2, 73 + 128 * w + 8 * e.2]
  match Tag.ofCode tag with
  | some .tn5 => [0]
  | some .aq4 => side 4
  | some .aq8 => side 8
  | _ => []

/-- R347: the offset in the tile of an element of a converted stream. -/
def Flow.tileByte (f : Flow) (e : Nat) : Nat :=
  let d := unitOf f.decl.tag
  e / d.1 * d.2 + e % d.1 * d.2 / d.1

/-- R348: the segment offset of unit `i` of tile `tile` on the memory side, where the unit is in bounds. -/
def Flow.unitAt (f : Flow) (tile i : Nat) : Option Nat :=
  let r := Rec.of f.record
  let u := unitOf r.tag
  let n := (tile * f.t / u.1 + i) * u.2
  if n + u.2 ≤ r.extent then some (r.base + n) else none

/-- R348: the values of one memory-side unit of a fill, with CVX and POISON. -/
def State.readUnit (s : State) (c : CoreId) (us : List Team) (n : Fin 32) (f : Flow) (tile i : Nat) : State × List Val × Bool × Bool × Moved :=
  let tag := (Rec.of f.record).tag
  let u := unitOf tag
  match f.unitAt tile i with
  | none => (s, List.replicate u.1 (.zero false), false, false, .done)
  | some o =>
    let offs := (List.range u.2).map (o + ·)
    let m := s.moveLines c f false offs
    match m.2.2 with
    | .done =>
      let ts := offs.map (f.target m.2.1)
      let s := m.1.touchAll (corePort c) (Rec.of f.record).comp false ts
      let bad := (ts.zipIdx.filter fun t => s.poisonedTarget t.1).map (·.2)
      let (s, bs) := s.fillRead us n (f.launch.view.join (s.moveHeard c f m.2.1)) ts
      let d := decodeElems tag bs
      let lost := fun i : Nat => (elemBytes tag bs i).any bad.contains
      (s, d.1.zipIdx.map fun v => if lost v.2 then Val.zero false else v.1.1,
        (d.2 && !(headBytes tag bs).any bad.contains) || d.1.zipIdx.any fun v => v.1.2 && !lost v.2, !bad.isEmpty, .done)
    | x => (m.1, [], false, false, x)

/-- What reading the memory side of a tile has come to: values, CVX, POISON, and how it ended. -/
structure Gathered where
  vals   : List Val
  cvx    : Bool
  poison : Bool
  ended  : Moved

/-- R348: the memory-side units of a tile, in order, until one does not translate. -/
def State.readUnits (s : State) (c : CoreId) (us : List Team) (n : Fin 32) (f : Flow) (tile : Nat) (acc : Gathered) : List Nat → State × Gathered
  | [] => (s, acc)
  | i :: rest =>
    let r := s.readUnit c us n f tile i
    match r.2.2.2.2 with
    | .done => r.1.readUnits c us n f tile { acc with vals := acc.vals ++ r.2.1, cvx := acc.cvx || r.2.2.1, poison := acc.poison || r.2.2.2.1 } rest
    | x => (r.1, { acc with ended := x })

/-- R345: values encoded unit by unit into a format, a last part of a unit left out. -/
def encodeUnits (tag : Nat) (vs : List Val) : List Byte × Bool :=
  let u := unitOf tag
  let us := (List.range (vs.length / u.1)).map fun i => encodeUnit tag ((vs.drop (i * u.1)).take u.1)
  (us.flatMap (·.1), us.any (·.2))

/-- The memory-side units of a tile that come before a byte of it. -/
def Flow.unitsTo (f : Flow) (upto : Nat) : List Nat :=
  let per := (unitOf (Rec.of f.record).tag).1
  (List.range (f.t / per)).filter fun i => decide (f.decl.tile ≤ upto) || decide (f.tileByte (i * per) < upto)

/-- R344 to R348: a converted fill from a cursor to a byte of the tile. What lies below the cursor at which it stops is written. -/
def State.fillConverted (s : State) (c : CoreId) (us : List Team) (n : Fin 32) (f : Flow) (tile from_ upto : Nat) : State × Nat × Moved :=
  let r := s.readUnits c us n f tile ⟨[], false, false, .done⟩ (f.unitsTo upto)
  let e := encodeUnits f.decl.tag r.2.vals
  let note := fun s : State => s.modAll us n fun h => { h with cvx := h.cvx || r.2.cvx || e.2, poison := h.poison || r.2.poison }
  let whole := r.2.ended == .done && decide (f.decl.tile ≤ upto)
  let bs := if whole then e.1 ++ List.replicate (f.decl.tile - e.1.length) 0 else e.1
  let cursor := if whole then f.decl.tile else max from_ (min upto (min (f.tileByte r.2.vals.length) e.1.length) / 64 * 64)
  ((note r.1).landTile us n from_ ((bs.take cursor).drop from_), cursor, r.2.ended)

/-- R348: one memory-side unit of a converted drain. -/
def State.writeUnit (s : State) (t : Team) (n : Fin 32) (v : View) (f : Flow) (tile i : Nat) (bs : List Byte) : State × Bool × Moved :=
  match f.unitAt tile i with
  | none => (s, true, .done)
  | some o =>
    let offs := (List.range bs.length).map (o + ·)
    let m := s.moveLines t.core f true offs
    match m.2.2 with
    | .done =>
      let ts := offs.map (f.target m.2.1)
      let comp := (Rec.of f.record).comp
      ((m.1.touchAll (corePort t.core) comp true ts).moveOut t n (v.join (m.1.moveHeard t.core f m.2.1)) comp (ts.zip bs), false, .done)
    | x => (m.1, false, x)

/-- R348: the memory-side units of a converted drain, in order. -/
def State.writeUnits (s : State) (t : Team) (n : Fin 32) (v : View) (f : Flow) (tile per upto : Nat) : List (Nat × List Byte) → State × Nat × Moved
  | [] => (s, upto, .done)
  | x :: rest =>
    let r := s.writeUnit t n v f tile x.1 x.2
    match r.2.2 with
    | .done => (if r.2.1 then r.1.modHandle t.key n fun h => { h with bounds := true } else r.1).writeUnits t n v f tile per upto rest
    | y => (r.1, f.tileByte (x.1 * per) / 64 * 64, y)

/-- R344 to R348: a converted drain from a cursor to a byte of the tile. An element of the buffer in error enters the conversion as zero and
sets POISON (log 89). -/
def State.drainConverted (s : State) (t : Team) (n : Fin 32) (h : Handle) (f : Flow) (tile upto : Nat) : State × Nat × Moved :=
  let d := unitOf f.decl.tag
  let u := unitOf (Rec.of f.record).tag
  let r := (List.range (f.t / d.1)).foldl (fun x i =>
    let b := x.1.bufferBytes t h (i * d.2) d.2
    let e := decodeUnit f.decl.tag b.2.1
    (b.1, x.2.1 ++ [if b.2.2 then (e.1.map fun _ => Val.zero false, false) else e], x.2.2 || b.2.2)) (s, ([] : List (List Val × Bool)), false)
  let ds := r.2.1
  let vs := ds.flatMap (·.1)
  let es := (List.range (f.t / u.1)).map fun i => (i, encodeUnit (Rec.of f.record).tag ((vs.drop (i * u.1)).take u.1))
  let live := es.filter fun e => (f.unitAt tile e.1).isSome
  let cvx := ds.any (·.2) || live.any fun e => e.2.2
  let s := r.1.modHandle t.key n fun h => { h with cvx := h.cvx || cvx, poison := h.poison || r.2.2 }
  s.writeUnits t n h.view f tile u.1 (min upto f.decl.tile) ((es.filter fun e =>
    decide (h.cursor ≤ f.tileByte (e.1 * u.1) / 64 * 64) && (f.unitsTo upto).contains e.1).map fun e => (e.1, e.2.1))

/-! ### Completion (R258, R265) -/

/-- The 64-byte steps of a tile from a cursor to a byte. -/
def stepsFrom (cursor bytes : Nat) : List Nat := (List.range (bytes / 64)).drop (cursor / 64)

/-- The 64-byte boundary at which a transfer that has `n` steps more to go stops. -/
def stopAt (cursor n bytes : Nat) : Nat := min bytes (cursor / 64 * 64 + 64 * n)

/-- R265: a fill that cannot be completed: its unfetched bytes are zero. -/
def State.fillFailed (s : State) (us : List Team) (n : Fin 32) (cursor bytes : Nat) : State :=
  (s.landTile us n cursor (List.replicate (bytes - cursor) 0)).modAll us n fun h =>
    { h with cursor := bytes, wait := none, fault := true, cls := 0x06 }

/-- R258: a filled instance is FULL. -/
def State.nowFull (s : State) (key : Nat) (n : Fin 32) : State := (s.modHandle key n fun h => { h with st := .full }).hwaitRelease key n

/-- R258, R265: a fill of a team's instance goes on to a byte of its tile: once all are written it is FULL; a page fault leaves a cursor and
an entry, a failure a FULL instance with FAULT. -/
def State.fillTo (s : State) (t : Team) (n : Fin 32) (f : Flow) (upto : Nat) : State :=
  let h := t.handles[n]
  let bytes := f.decl.tile
  if h.cursor = bytes then s.nowFull t.key n
  else
    let us := (s.receivers t h).filter fun u => (u.handles[n]).st == .filling
    let tile := h.tile.getD 0
    let r := if f.copies then s.fillSteps t.core us n f tile upto (stepsFrom h.cursor upto) else s.fillConverted t.core us n f tile h.cursor upto
    match r.2.2 with
    | .done =>
      let s := r.1.modAll us n fun h => { h with cursor := r.2.1 }
      if r.2.1 = bytes then s.nowFull t.key n else s
    | .page va =>
      let id := r.1.nextId
      (r.1.addFault f.launch.ctx t.core (t.slots.headD 0) 0 va 4).modAll us n fun h => { h with cursor := r.2.1, wait := some id }
    | .lost => (r.1.fillFailed us n r.2.1 bytes).nowFull t.key n

/-- The instance's fill is under way. -/
def Handle.fills (h : Handle) : Bool := !h.out && h.st == .filling && h.wait.isNone

/-- The instance's drain is under way. -/
def Handle.drains (h : Handle) : Bool := h.out && h.st == .draining && h.wait.isNone

/-- R258, R265: every byte of the tile is written. -/
def execStreamFillComplete (core : CoreId) (slot : Slot) (handle : Fin 32) (s : State) : Host.Outcome State Fault Refusal :=
  .next (match s.transfer? core slot handle fun _ h _ => h.fills with
    | none => s
    | some (t, f) => s.fillTo t handle f f.decl.tile)

/-- R258: an output instance is FREE again; its team may now retire. -/
def State.nowFree (s : State) (key : Nat) (n : Fin 32) : State :=
  ((s.modHandle key n fun h => { h with st := .free, wait := none }).hwaitRelease key n).retireTeam key

/-- R258, R263, R265: a drain of a team's instance goes on to a byte of its tile: once every element has been written or dropped it is FREE. -/
def State.drainTo (s : State) (t : Team) (n : Fin 32) (f : Flow) (upto : Nat) : State :=
  let h := t.handles[n]
  let tile := h.tile.getD 0
  if !f.hasTile tile then s.nowFree t.key n
  else
    let r := if f.copies then s.drainSteps t n h f tile upto (stepsFrom h.cursor upto) else s.drainConverted t n h f tile upto
    match r.2.2 with
    | .done => if r.2.1 = f.decl.tile then r.1.nowFree t.key n else r.1.modHandle t.key n fun h => { h with cursor := r.2.1 }
    | .page va =>
      let id := r.1.nextId
      (r.1.addFault f.launch.ctx t.core (t.slots.headD 0) 0 va 4).modHandle t.key n fun h => { h with cursor := r.2.1, wait := some id }
    | .lost => (r.1.modHandle t.key n fun h => { h with fault := true, cls := 0x06 }).nowFree t.key n

/-- R258, R265: every element of the tile has been written or dropped. -/
def execOutputDrainComplete (core : CoreId) (slot : Slot) (handle : Fin 32) (s : State) : Host.Outcome State Fault Refusal :=
  .next (match s.transfer? core slot handle fun _ h _ => h.drains with
    | none => s
    | some (t, f) => s.drainTo t handle f f.decl.tile)

/-- R264 to R266: a transfer moves `n` more 64-byte parts of its tile, short of the last. -/
def State.transferPart (s : State) (core : CoreId) (slot : Slot) (handle : Fin 32) (n : Nat) : State :=
  match s.transfer? core slot handle fun _ h _ => h.fills || h.drains with
  | none => s
  | some (t, f) =>
    let h := t.handles[handle]
    let upto := stopAt h.cursor n (f.decl.tile - 64)
    if upto ≤ h.cursor then s else if h.out then s.drainTo t handle f upto else s.fillTo t handle f upto

/-- R364, R265: firmware has refused the page that a transfer waits for. -/
def State.transferFailed (s : State) (entry : Nat) : State :=
  s.teams.foldl (fun s t => (List.finRange 32).foldl (fun s (n : Fin 32) =>
    let h := t.handles[n]
    if h.wait = some entry then
      if h.out then (s.modHandle t.key n fun h => { h with fault := true, cls := 0x06 }).nowFree t.key n
      else match s.flow t h with
        | some f => s.fillFailed [t] n h.cursor f.decl.tile
        | none => s
    else s) s) s

end Sys2Proof.Machine
end

