-- ==== Sys2Proof/Machine/Completions.lean ====
section
/-! DEFINITION. Operations that complete, write-backs of L1 lines, and firmware's answers to fault entries (R99 to R104, R203,
R206, R223, R270, R313, R327, R363 to R366). -/

namespace Sys2Proof.Machine

/-! ### Operations -/

/-- R204: lanes that have read poison trap, each with the address of its lowest poisoned element; where that ends the team it does so once. -/
def State.raiseBad (s : State) (o : Op) (bad : List (Lane × Nat)) : State :=
  match bad, s.group? o.core o.slot with
  | [], _ => s
  | _, none => s
  | x :: rest, some g =>
    let one := fun (s : State) (x : Lane × Nat) => s.raiseLater o (· == x.1) 0x08 (vaDetail 0 x.2)
    if o.handler || g.allThreads (fun _ t => t.gone) then one s x else (x :: rest).foldl one s

/-- R99, R34, R126, R132, R204: a pip-tracked operation completes: its results land, its pip falls, its flags are set, and lanes that set
CVX or read poison trap. -/
def execPipOperationComplete (op : Nat) (s : State) : Host.Outcome State Fault Refusal :=
  .next (match s.op? op with
    | none => s
    | some o => match o.work with
      | .pip p ws cvx bad oob =>
        let s := (s.landFor o fun now g => let h := g.land o now ws; ({ h with pip := h.pip.set p (h.pip[p] - 1) }).flag
          ((if cvx = 0 then 0 else cvxBit) ||| if oob then boundsBit else 0)).dropOp op
        let s := if s.cvxOn o.core then s.raiseLater o (hasBit cvx ·) 0x13 [] else s
        s.raiseBad o bad
      | _ => s)

/-- R206: the data of a ULD arrive; poisoned data are not written and trap (R204). -/
def execUldDataReturn (op : Nat) (s : State) : Host.Outcome State Fault Refusal :=
  .next (match s.op? op with
    | none => s
    | some o => match o.work with
      | .uld ws poison va =>
        if poison then (s.dropOp op).raiseLater o (hasBit o.lanes ·) 0x08 (vaDetail 0 va)
        else (s.landFor o fun _ g => ws.foldl (fun g w => g.landUni o w.1.val w.2) g).dropOp op
      | _ => s)

/-- Writes bytes of a crossbar pattern. -/
def Core.setPattern (x : Core) (n : Fin 16) (bs : List (Nat × Byte)) : Core :=
  { x with xslot := x.xslot.set n (bs.foldl (fun p b => p.set b.1 b.2) x.xslot[n]) }

/-- R270: the pattern of an XPLD arrives; loads of one slot arrive in order, so that the highest group's stays. Bytes of poisoned
elements are not written, and their threads trap (R204). -/
def execXpldDataReturn (op : Nat) (s : State) : Host.Outcome State Fault Refusal :=
  .next (match s.op? op with
    | none => s
    | some o => match o.work with
      | .xpld x bytes poison va =>
        let earlier := s.ops.any fun p => p.core == o.core && decide (p.id < op) && match p.work with
          | .xpld y _ _ _ => y == x
          | _ => false
        if earlier then s
        else
          let s := (s.modCore o.core fun c => c.setPattern x bytes).dropOp op
          if poison then s.raiseLater o (hasBit o.lanes ·) 0x08 (vaDetail 0 va) else s
      | _ => s)

/-- R203, R364: elements of an LDA whose fault entry has been answered translate again. -/
def State.ldaRetry (s : State) (o : Op) (g : Group) (acc : LdaParts) : List LdaWait → State × LdaParts
  | [] => (s, acc)
  | w :: rest =>
    if s.faults.any fun f => f.id == w.fault then s.ldaRetry o g { acc with waits := acc.waits ++ [w] } rest
    else
      let r := s.ldaElem ⟨o.core, o.slot, g.ctx, o.view, w.comp, w.low, w.lane, w.row⟩ (w.base.map fun base => (g.team, base)) w.va acc
      r.1.ldaRetry o g r.2 rest

/-- R203: an LDA completes once none of its elements waits. -/
def execLdaComplete (op : Nat) (s : State) : Host.Outcome State Fault Refusal :=
  .next (match s.op? op with
    | none => s
    | some o => if s.engineHeld o.core o.slot then s else match o.work, s.group? o.core o.slot with
      | .lda token ws waits oob fault poison, some g =>
        let r := s.ldaRetry o g ⟨ws, [], fault, poison, [], []⟩ waits
        let a := r.2
        let s := r.1.ldaHas op a
        if a.waits.isEmpty then
          let n := ((List.finRange 32).filter fun l : Lane => hasBit oob l).length
          let o := (s.op? op).getD o
          (s.landFor o fun now g =>
            (g.land o now a.writes).endTokenFor o token (statusWord 3 (if a.fault then 0x06 else n) a.fault a.poison false) (oob != 0)).dropOp op
        else s.modOp op fun o => { o with work := .lda token a.writes a.waits oob a.fault a.poison }
      | _, _ => s)

/-- R327, R334: a ply read completes, within the bound of a pre-emption too. -/
def execPlyGetComplete (op : Nat) (s : State) : Host.Outcome State Fault Refusal :=
  .next (match s.op? op with
    | none => s
    | some o => match o.work with
      | .plyGet token ws count fault poison =>
        (s.landFor o fun now g =>
          (g.land o now ws).endTokenFor o token (statusWord 5 (if fault then 0x06 else count) fault poison false)).dropOp op
      | _ => s)

/-- R223: a dirty line is written back; the copy stays. -/
def execL1DirtyWriteback (core : CoreId) (line : Nat) (s : State) : Host.Outcome State Fault Refusal :=
  .next (if s.lineHeld line then s else s.writeBack core fun pa => pa / 128 == line)

/-! ### Answers to fault entries (R364) -/

/-- R364: one entry that a parked thread waited for is answered: once all are, it stands ready, or traps if any answer was fail. -/
def Thread.answered (t : Thread) (id : Nat) (fail : Bool) (va : Nat) : Thread :=
  match t.run with
  | .parked ids failed =>
    if ids.contains id then
      let rest := ids.filter (· != id)
      let failed := failed || fail
      if rest.isEmpty then
        let t := { t with run := .ready }
        if failed then { t with trap := some (t.trap.getD ⟨0x06, t.waitWord false, vaDetail 6 va⟩) } else t
      else { t with run := .parked rest failed }
    else t
  | _ => t

/-- R364: an answer of fail is noted with the other entries that name threads of the same group. -/
def State.noteRefused (s : State) (f : FaultEntry) : State :=
  { s with faults := s.faults.map fun x : FaultEntry =>
      if x.core = f.core ∧ x.slot = f.slot then { x with refused := x.refused ||| (x.lanes &&& f.lanes) } else x }

/-- R364: a thread of the kernel that ESTATE holds as parked while its group is in handler mode: once no other entry names it, an answer
of fail among them shows in its ECLASS. -/
def State.answeredParked (s : State) (f : FaultEntry) (fail : Bool) (l : Lane) (t : Thread) : Thread :=
  if hasBit f.lanes l && t.estate.getLsbD 1 && (fail || hasBit f.refused l)
      && !(s.faults.any fun x => x.core == f.core && x.slot == f.slot && hasBit x.lanes l) then
    { t with trap := some (t.trap.getD ⟨0x06, t.epc, vaDetail 6 f.va⟩) }
  else t

/-- R364, R402: a group's threads learn of an answer, in handler mode those of the kernel too; a refused page of the handler itself ends
the team (log 61). -/
def State.answerGroup (s : State) (f : FaultEntry) (fail : Bool) : State :=
  match s.group? f.core f.slot with
  | none => s
  | some g =>
    let own := g.anyThread fun _ t => match t.run with | .parked ids _ => ids.contains f.id | _ => false
    if g.handler.isSome then
      if own then
        if fail then (s.killTeam g.team 0x06).logged (.killed f.core f.slot 0x06)
        else s.setGroup f.core f.slot (some (g.mapThreads fun _ t => t.answered f.id false f.va))
      else s.setGroup f.core f.slot (some (g.mapThreads (s.answeredParked f fail)))
    else
      let g := g.mapThreads fun _ t => t.answered f.id fail f.va
      let s := s.setGroup f.core f.slot (some g)
      if g.mustHalt then (s.haltSlot f.core f.slot).purge else s

/-- R364: an operation that waits for an entry goes on, or fails as its chapter says. -/
def Work.answered (w : Work) (id : Nat) (fail : Bool) : Work :=
  match w with
  | .mvx c => if c.wait = some id then .mvx { c with wait := none, fault := if fail then some 0x06 else c.fault } else w
  | .drain token tile z fmt rnd seed dst read out width wait fault cvx dropped =>
    if wait = some id then .drain token tile z fmt rnd seed dst read out width none (if fail then some 0x06 else fault) cvx dropped else w
  | .lda token ws waits oob _ poison =>
    if fail && waits.any fun x => x.fault == id then .lda token ws (waits.filter fun x => x.fault != id) oob true poison else w
  | w => w

/-- An operation waits for the entry. -/
def Work.awaits (w : Work) (id : Nat) : Bool :=
  match w with
  | .mvx c => c.wait == some id
  | .drain _ _ _ _ _ _ _ _ _ _ wait _ _ _ => wait == some id
  | .lda _ _ waits _ _ _ => waits.any fun x => x.fault == id
  | _ => false

/-- R363: the entry belongs to a word or a LAUNCH that waits outside any operation's own fields. -/
def State.lineWait (s : State) (f : FaultEntry) : Bool :=
  f.kind == 4 && !(s.ops.any fun o => o.work.awaits f.id) && !(s.teams.any fun t => t.handles.toList.any fun h => h.wait == some f.id)
    && !(s.launches.any fun l => l.hold == some f.id) && !(s.board.vf.toList.any fun v => v.wait == some f.id)

/-- R364: firmware answers an entry that the context's queue shows. -/
def State.answer (s : State) (ctx : Fin 64) (entry : Nat) (fail : Bool) : State :=
  match (s.faultQueue ctx).find? fun f => f.id == entry with
  | none => s
  | some f =>
    let lineWait := s.lineWait f
    let s := { s with faults := s.faults.filter fun x => x.id != entry, ops := s.ops.map fun o : Op => { o with work := o.work.answered entry fail } }
    let s := if fail && lineWait then s.modGroup f.core f.slot fun g : Group => { g with refused := f.va / 128 :: g.refused } else s
    let s := { s with launches := s.launches.map fun l : Launch =>
        if l.hold = some entry then { l with hold := none, lost := l.lost || fail } else l
                      board := { s.board with vf := s.board.vf.map fun v : VirtFn => if v.wait = some entry then { v with wait := none, refused := fail } else v } }
    let s := if fail then s.transferFailed entry
      else { s with teams := s.teams.map fun t : Team => { t with handles := t.handles.map fun h : Handle => if h.wait = some entry then { h with wait := none } else h } }
    (if fail then s.noteRefused f else s).answerGroup f fail

/-- R364: resume. -/
def execFaultAnswerResume (ctx : Fin 64) (entry : Nat) (s : State) : Host.Outcome State Fault Refusal := .next (s.answer ctx entry false)

/-- R364: fail. -/
def execFaultAnswerFail (ctx : Fin 64) (entry : Nat) (s : State) : Host.Outcome State Fault Refusal := .next (s.answer ctx entry true)

end Sys2Proof.Machine
end

