-- ==== Sys2Proof/Machine/Scheduler.lean ====
section
/-! DEFINITION. The scheduler: queues, placement, dispatch, retirement of groups, and the restore of pre-empted clusters (R87 to
R91, R111, R253, R335 to R338, R380, R384 to R389, R394, R412). -/

namespace Sys2Proof.Machine

/-! ### A group at dispatch (R111, R380) -/

/-- R111: a thread at dispatch. -/
def Thread.fresh : Thread where
  run := .ready
  pc := 0
  inside := none
  guard := true
  sets := Vector.replicate 4 0
  v := Vector.replicate 128 0
  q := 0
  turn := 0
  depth := 0
  noBp := false
  trap := none
  epc := 0
  estate := 0
  sv0 := 0
  sv1 := 0
  ord := .none

/-- R281: an EMPTY convergence register. -/
def Cv.fresh : Cv := ⟨0, 0, .empty, 0, 0, 0, 0, .rows [], .rows [], 0, .none⟩

/-- R315: a CLOSED tape. -/
def Tape.fresh : Tape := ⟨.closed, false, false, 0, 0, false, [], Vector.replicate 32 0⟩

/-- R113: the allotment of a group: a role's budget replaces k. -/
def Kernel.allotOf (k : Kernel) (gid : Nat) : Allot :=
  match k.roles.find? fun r => decide (r.1 ≤ gid) && decide (gid < r.1 + r.2.1) with
  | some r => ⟨false, r.2.2, k.a, k.c, false⟩
  | none => ⟨false, k.k, k.a, k.c, false⟩

/-- R194, R252, R380: the segments of a team's groups. `part` is P, `n` the cores of the cluster. -/
def Launch.segments (l : Launch) (team part n : Nat) : Vector (BitVec 128) 8 :=
  (l.seg.set 1 (segOf (Config.areaLine team * 128) l.kernel.priv false)).set 2 (segOf 0 (n * part) false)

/-- R111, R226, R380: a group of a team as it is dispatched. -/
def Launch.freshGroup (l : Launch) (t : Team) (gid : Nat) : Group where
  team := t.key
  launch := l.id
  gid := gid
  contract := l.kernel.contract
  det := l.det
  ctx := l.ctx
  st := .pending
  s := ((((Vector.replicate 128 (0 : Word)).set 0 l.uinit[0]).set 1 l.uinit[1]).set 2 l.uinit[2]).set 3 l.uinit[3]
  b := l.kernel.records.foldl (fun (b : Vector (BitVec 128) 32) r => b.set r.1 l.args[r.2]) (Vector.replicate 32 0)
  seg := l.segments t.key l.part t.cores.length
  cv := Vector.replicate 8 .fresh
  pip := Vector.replicate 12 0
  tokens := []
  sticky := 0
  seed := l.seed
  cychi := 0
  allot := l.kernel.allotOf gid
  tiles := []
  mcfg := 0
  tape := .fresh
  handler := none
  preempt := false
  expired := false
  refused := []
  stepping := false
  landing := []
  threads := Vector.replicate 32 { Thread.fresh with ord := { Order.none with view := l.view } }

/-! ### Admission of a team to a core (R89, R90, R112, R253, R254, R380, R428) -/

/-- The teams resident on a core. -/
def State.teamsOn (s : State) (c : CoreId) : List Team := s.teams.filter fun t => t.core = c

/-- R253: the lowest multiple of 1,024 where a region of `n` bytes is free in the core's partition of `part` bytes. -/
def State.regionBase (s : State) (c : CoreId) (part n : Nat) : Option Nat :=
  ((List.range (part / 1024 + 1)).map (1024 * ·)).find? fun o => decide (o + n ≤ part) &&
    (s.teamsOn c).all fun t => decide (o + n ≤ t.base) || decide (t.base + t.size ≤ o) || t.size == 0

/-- R90: the lowest free slots of a core. -/
def State.freeSlots (s : State) (c : CoreId) : List Slot := (List.finRange 32).filter fun k : Slot => (s.group? c k).isNone

/-- R428: the core is in service. -/
def State.inService (s : State) (c : CoreId) : Bool :=
  !(s.cores[c]).retired && !s.board.quadOut[quadOf c] && !s.board.chipOut[chipOf c]

/-- R380, R254: the core's partition may be P, and no other tenant's team is there. -/
def State.coreOpen (s : State) (c : CoreId) (l : Launch) : Bool :=
  s.inService c && ((s.teamsOn c).isEmpty || (s.cores[c]).part == l.part)
  && (s.teamsOn c).all fun t => match s.launch? t.launch with
    | some m => s.tenantOf m.ctx == s.tenantOf l.ctx
    | none => true

/-- R89: a core can admit `n` groups of the launch's team. -/
def State.admits (s : State) (c : CoreId) (l : Launch) (n : Nat) : Bool :=
  s.coreOpen c l && decide (n ≤ (s.freeSlots c).length) && decide (s.rowsHeld c + 16 * n ≤ 3968)
  && (s.regionBase c l.part l.kernel.regionBytes).isSome

/-- R385: the rectangle of a launch's cluster at a chiplet's row and column, in row-major order, if it lies on the mesh. -/
def rectangle (l : Launch) (chip : Fin 8) (row col : Nat) : Option (List CoreId) :=
  if row + l.ch ≤ 6 ∧ col + l.cw ≤ 8 then
    some ((List.range (l.ch * l.cw)).map fun i =>
      let n := chip.val * 48 + (row + i / l.cw) * 8 + col + i % l.cw
      ⟨n % 384, Nat.mod_lt _ (by decide)⟩)
  else none

/-- R89, R428: every core of the rectangle can admit its team, and its chiplet is not to be retired. -/
def State.rectAdmits (s : State) (l : Launch) (cores : List CoreId) : Bool :=
  cores.all fun c => !s.board.closing[chipOf c] && s.admits c l l.kernel.groups

/-- R388: a rectangle shares no core with a run of a deterministic launch that is bound already. -/
def Launch.unbound (l : Launch) (cores : List CoreId) : Bool := !(l.det && l.runs.any fun r => r.2.any cores.contains)

/-! ### Placement (R335 to R338) -/

/-- R335: the spill order of a contract. -/
def spillOrder (contract : Nat) : List Nat :=
  match contract with
  | 0 => [0, 2, 3]
  | 1 => [1, 3, 2]
  | 2 => [0, 1, 3]
  | 3 => [0, 1, 2]
  | _ => [0, 1, 3, 2]

/-- R335: the home class of a contract. -/
def homeClass (contract : Nat) : Option Nat :=
  match contract with
  | 0 => some 1
  | 1 => some 0
  | 2 => some 2
  | 3 => some 3
  | _ => none

/-- R336: the placement word of a context's tenant. -/
def State.placeOf (s : State) (ctx : Fin 64) : Word :=
  match s.tenantOf ctx with
  | some n => s.board.place[n]
  | none => placeReset

/-- R422: the chiplets of a context's tenant that are in service. -/
def State.chips (s : State) (ctx : Fin 64) : List (Fin 8) :=
  (List.finRange 8).filter fun d : Fin 8 => !s.board.chipOut[d] && match s.tenantOf ctx with
    | some n => (s.board.tenants[n]).getLsbD (55 + d.val)
    | none => false

/-- R338, R422, R428: the class has a core in service for the context. -/
def State.classLive (s : State) (ctx : Fin 64) (cls : Nat) : Bool :=
  (s.chips ctx).any fun d => classOfChip d.val == cls && (List.finRange 384).any fun c : CoreId => chipOf c == d && s.inService c

/-- R336, R338: the spill classes permitted for a contract, in spill order. Where its home class, or every permitted class, has nothing
in service, every class in service is permitted. -/
def State.spillClasses (s : State) (l : Launch) : List Nat :=
  let k := l.kernel.contract
  let w := (s.placeOf l.ctx).toNat
  let order := (spillOrder k).filter (s.classLive l.ctx)
  let allowed := order.filter fun c => w.testBit (4 * k + c)
  let homeLive := match homeClass k with | some h => s.classLive l.ctx h | none => true
  if !homeLive || (allowed.isEmpty && (homeClass k).isNone) then order else allowed

/-- R337, R388: a rectangle of the class can admit a cluster of the launch now. -/
def State.classAdmits (s : State) (l : Launch) (cls : Nat) : Bool :=
  ((s.chips l.ctx).filter fun d => classOfChip d.val == cls).any fun d => (List.range 6).any fun r => (List.range 8).any fun c =>
    match rectangle l d r c with
    | some cores => s.rectAdmits l cores && l.unbound cores
    | none => false

/-- R336: SWAIT. -/
def State.swait (s : State) (l : Launch) : Nat := fieldOf (s.placeOf l.ctx).toNat 20 5

/-- R337: the cluster may go to a class now. `spill` says that SWAIT has passed for it. -/
def State.classAllowed (s : State) (l : Launch) (spill : Bool) (cls : Nat) : Bool :=
  let first := ((s.spillClasses l).find? (s.classAdmits l)) == some cls
  match homeClass l.kernel.contract with
  | none => first
  | some h =>
    if cls = h then true
    else first && !s.classAdmits l h && (spill && s.swait l != 31 || s.swait l == 0 || !s.classLive l.ctx h)

/-! ### Queues (R384, R388) -/

/-- The number of cores of a cluster. -/
def Launch.clusterSize (l : Launch) : Nat := l.cw * l.ch

/-- The clusters of a launch. -/
def Launch.clusters (l : Launch) : Nat := l.teams / l.clusterSize

/-- R388: the run of logical cores of the next cluster. -/
def Launch.run (l : Launch) (cluster : Nat) : Nat := cluster % (l.dcores / l.clusterSize)

/-- R388: the rectangle to which the run of a cluster is bound. -/
def Launch.boundRect (l : Launch) (cluster : Nat) : Option (List CoreId) :=
  if l.det then (l.runs.find? fun r => r.1 == l.run cluster).map (·.2) else none

/-- R384: the wait counter of a launch has come to its value, as memory stands, or the page of the counter is missing, so that a read of it is
due. -/
def State.counterDue (s : State) (l : Launch) : Bool :=
  let va := l.counterVa l.waitoff
  match s.walkGo l.ctx va s.board.roots[l.ctx] walkLevels with
  | .leaf _ => decide (l.waitval.toNat ≤ s.peekWord l.ctx va)
  | _ => true

/-- R384: the launch at the head of a queue, if it is ready. A launch for whose ticket word or counter a page is missing waits. -/
def State.readyHead (s : State) (q : Fin 64) : Option Launch :=
  match (s.board.queues[q]).head?.bind s.launch? with
  | some l => if l.hold.isNone && (l.waitoff == 0xFFFFFFFF || l.lost || s.counterDue l) then some l else none
  | none => none

/-- R337, R388: the next cluster of a launch may be dispatched to these cores now. -/
def State.fits (s : State) (l : Launch) (spill : Bool) (chip : Fin 8) (cores : List CoreId) : Bool :=
  s.rectAdmits l cores && match l.boundRect l.next with
    | some r => r == cores
    | none => (s.chips l.ctx).contains chip && s.classAllowed l spill (classOfChip chip.val)
      && l.unbound cores

/-- R384: the next cluster of a queue's head can be dispatched somewhere. -/
def State.dispatchable (s : State) (q : Fin 64) : Bool :=
  match s.readyHead q with
  | none => false
  | some l => (List.finRange 8).any fun d : Fin 8 => (List.range 6).any fun r => (List.range 8).any fun c => match rectangle l d r c with
    | some cores => s.fits l s.board.spill[q] d cores
    | none => false

/-- R384: the queue that is served next: the highest level first, within a level in rotation after the queue served last. -/
def State.nextQueue (s : State) : Option (Fin 64) :=
  (List.range 16).findSome? fun n =>
    let level : Fin 16 := ⟨15 - n % 16, by omega⟩
    ((List.range 4).map fun i => (⟨level.val * 4 + (s.board.rotation[level] + 1 + i) % 4, by omega⟩ : Fin 64)).find? s.dispatchable

/-! ### Dispatch -/

/-- R255: the instance of handle `n` of a team as it is dispatched. -/
def Kernel.handleAt (k : Kernel) (rank n : Nat) : Handle :=
  let mine := fun (d : Stream) => decide (d.first ≤ n) && decide (n < d.first + d.count)
  let bytes := fun m : Nat => ((k.inputs.toList ++ k.outputs.toList).filterMap id).foldl (fun x d =>
    if decide (d.first ≤ m) && decide (m < d.first + d.count) then x + d.tile else x) 0
  let buf := (List.range n).foldl (fun x m => x + bytes m) 0
  let base : Handle := ⟨false, false, 0, .free, false, false, false, false, false, 0, none, 0, none, buf, .none⟩
  match (List.range 8).find? fun i => (k.inputs.toList.getD i none).any mine with
  | some i =>
    let cast := ((k.inputs.toList.getD i none).map (·.cast)).getD 0
    { base with declared := true, stream := i, eos := cast != 0 && !cast.testBit rank }
  | none => match (List.range 4).find? fun i => (k.outputs.toList.getD i none).any mine with
    | some i => { base with declared := true, out := true, stream := i }
    | none => base

/-- R208, R253, R380: a core takes a launch's P while no team is on it; the lines for which its L1 has no more room leave it (log 67). -/
def State.setPart (s : State) (c : CoreId) (part : Nat) : State :=
  if (s.cores[c]).part = part then s
  else
    let out := (s.cores[c]).linesHeld.drop ((327680 - part) / 128)
    let s := if out.isEmpty then s else s.dropL1 c fun pa => out.contains (pa / 128)
    s.modCore c fun x => { x with part := part }

/-- R90: groups take slots of a core. -/
def State.seat (s : State) (c : CoreId) (gs : List (Slot × Group)) : State :=
  (gs.foldl (fun s g => s.modCore c fun x => { x with slots := x.slots.set g.1 (some g.2), sched := x.sched.set g.1 .reset }) s).fillActive c

/-- R253: a region of a core is zeroed. -/
def State.zeroRegion (s : State) (c : CoreId) (base size : Nat) : State :=
  s.resetScratch c base size []

/-- R89, R90, R226, R253, R258: team `rank` of a cluster becomes resident; what happens before its dispatch happens before its accesses. -/
def State.admitTeam (s : State) (l : Launch) (cluster : Nat) (cores : List CoreId) (rank : Nat) : State :=
  let c := cores.getD rank 0
  let s := (s.setPart c l.part).acquire c 5
  let slots := (s.freeSlots c).take l.kernel.groups
  let size := l.kernel.regionBytes
  let base := (s.regionBase c l.part size).getD 0
  let key := s.nextId
  let t : Team :=
    { key := key, launch := l.id, index := cluster * l.clusterSize + rank, cluster := cluster, rank := rank, cores := cores, slots := slots
      base := base, size := size, handles := Vector.ofFn fun n : Fin 32 => { l.kernel.handleAt rank n.val with view := l.view }
      inNext := Vector.replicate 8 0, outNext := Vector.replicate 4 0, own := [], wrote := [], posted := false, killed := false
      wd := 0, bars := Vector.replicate 32 0, wdHit := false, out := [], did := .none }
  let s := { s with teams := s.teams ++ [t], nextId := key + 1 }
  let s := ((s.zeroRegion c base size).seat c (slots.zipIdx.map fun k => (k.1, l.freshGroup t k.2)))
  (List.finRange 32).foldl (fun s (n : Fin 32) => s.noteEnd key n) s

/-- R226, R355, R384: the acquire read of the wait counter, which comes before every access of the grid; whether it has its value. -/
def State.counterRead (s : State) (l : Launch) : State × Bool :=
  if l.waitoff = 0xFFFFFFFF then (s, true)
  else s.postFor l (l.counterVa l.waitoff) 4 false fun s ts =>
    let r := s.boardRead .none ts
    if l.waitval.toNat ≤ leValue r.2.1 then (r.1.modLaunch l.id fun l => { l with view := l.view.join r.2.2 }, true) else (r.1, false)

/-- R51, R394: what happens once, before the first dispatch of a launch: its code image is taken, and its ticket word is 0 before every access
of the grid. It answers whether the launch may be dispatched. -/
def State.beginLaunch (s : State) (l : Launch) : State × Bool :=
  if l.next ≠ 0 then (s, true)
  else
    let code := (List.range l.code.length).map fun i => BitVec.ofNat 32 (s.peekWord l.ctx (l.codeVa + 4 * i))
    let s := s.modLaunch l.id fun l => { l with code := code }
    if l.tkt then s.postFor l (l.counterVa l.tktoff) 8 true fun s ts =>
      ((s.boardWrite l.view none (ts.zip (List.replicate 8 0))).modLaunch l.id fun l => { l with view := ⟨addId l.view.writes s.nextId, l.view.reads⟩ }, true)
    else (s, true)

/-- R226, R258: at dispatch a fill of an input instance may have begun, and may have come to its end: a free choice (log 75). -/
def State.fillAhead (s : State) (key : Nat) (n : Fin 32) : State :=
  match s.team? key with
  | none => s
  | some t => match s.flow t t.handles[n] with
    | none => s
    | some f =>
      if t.handles[n].declared && s.fillReady t n t.handles[n] f then
        let far := Config.ahead s.fresh % 3
        let s := { s with fresh := s.fresh + 1 }
        if far = 0 then s
        else
          let s := s.startFill t n f
          match (if far = 1 then none else s.team? key) with
          | some t => s.fillTo t n f f.decl.tile
          | none => s
      else s

/-- R384, R385, R388: the next cluster of a queue's head is dispatched to a rectangle. -/
def State.dispatch (s : State) (q : Fin 64) (l : Launch) (cores : List CoreId) : State :=
  let first := s.nextId
  let s := (List.range cores.length).foldl (fun s i => s.admitTeam l l.next cores i) s
  let s := (List.range cores.length).foldl (fun s i => (List.finRange 32).foldl (fun s n => s.fillAhead (first + i) n) s) s
  let s := s.modLaunch l.id fun x =>
    { x with next := x.next + 1
             runs := if l.det && (l.boundRect l.next).isNone then x.runs ++ [(l.run l.next, cores)] else x.runs }
  let level : Fin 16 := ⟨q.val / 4, by omega⟩
  { s with board := { s.board with
      rotation := s.board.rotation.set level (q.val % 4)
      spill := s.board.spill.set q false
      queues := if l.next + 1 = l.clusters then s.board.queues.set q (s.board.queues[q]).tail else s.board.queues } }

/-- R384: the scheduler dispatches a cluster. -/
def execClusterDispatch (queue : Fin 64) (chiplet : Fin 8) (x : Fin 6) (y : Fin 8) (s : State) : Host.Outcome State Fault Refusal :=
  .next (match s.readyHead queue with
    | none => s
    | some l => match rectangle l chiplet x.val y.val with
      | none => s
      | some cores =>
        if s.fits l s.board.spill[queue] chiplet cores && s.nextQueue == some queue then
          let w := s.counterRead l
          let r := if w.2 then w.1.beginLaunch ((w.1.launch? l.id).getD l) else w
          if r.2 then r.1.dispatch queue ((r.1.launch? l.id).getD l) cores else r.1
        else s)

/-- R337: the cluster has waited for its home class for SWAIT. -/
def execSpillWaitExpiry (queue : Fin 64) (s : State) : Host.Outcome State Fault Refusal :=
  .next (match s.readyHead queue with
    | none => s
    | some l =>
      if s.swait l = 31 ∨ (homeClass l.kernel.contract).isNone then s
      else { s with board := { s.board with spill := s.board.spill.set queue true } })

/-! ### Retirement of groups (R91, R101, R105) -/

/-- R91: an EXITING group has nothing outstanding. DESIGN CHOICE (log 78): loads by ULD and XPLD, atomics, BRED and reports of poison, which no
pip or token tracks, are awaited too. -/
def State.canRetire (s : State) (c : CoreId) (k : Slot) (g : Group) : Bool :=
  g.st == .exiting && (List.finRange 12).all (fun n : Fin 12 => g.pip[n] == 0) && g.pendingCount == 0
  && !(s.ops.any fun o => o.concerns c k)

/-- R91, R299: a group retires: its slot is free, and its passes and requests are discarded. Its team retires with its last group. -/
def execGroupRetire (core : CoreId) (slot : Slot) (s : State) : Host.Outcome State Fault Refusal :=
  .next (match s.group? core slot with
    | none => s
    | some g =>
      if s.canRetire core slot g then
        (((s.clearSlot core slot).fillActive core).suspendTeam g.team).retireTeam g.team
      else s)

/-! ### Restore (R89, R388, R412) -/

/-- R412: a group as it enters the handler at a restore: a fresh dispatch, with the threads that had exited still exited. -/
def State.restoredGroup (s : State) (l : Launch) (t : Team) (c : CoreId) (k : Slot) (gid : Nat) (gone : Word) : Group :=
  let g := (l.freshGroup t gid).mapThreads fun i x =>
    { x with run := if hasBit gone i then .exited else x.run, ord := x.ord.hear t.did }
  g.enterHandler 0x17 [BitVec.ofNat 32 (k.val * 2 ^ 16 + 2 ^ 9 + 0x17), 0, 0, 0] true (s.cores[c]).hentry fun x => if x.gone then 1 else 0

/-- R90, R412: one suspended team becomes resident again, at its place in a rectangle, its groups in ascending slots. -/
def State.restoreTeam (s : State) (l : Launch) (cores : List CoreId) (t : Team) : State :=
  let c := cores.getD t.rank 0
  let s := (s.setPart c l.part).acquire c 5
  let free := s.freeSlots c
  let gids := (List.range l.kernel.groups).filter fun gid => t.out.any fun o => o.gid == gid
  let slotOf := fun gid : Nat => match gids.idxOf? gid with
    | some i => free.getD i 0
    | none => 0
  let base := (s.regionBase c l.part t.size).getD 0
  let t' := { t with cores := cores, slots := (List.range l.kernel.groups).map slotOf, base := base, wd := 0, wdHit := false
                     bars := Vector.replicate 32 0, out := [] }
  let s := { s with teams := s.teams ++ [t'] }
  (s.zeroRegion c base t.size).seat c (gids.map fun gid =>
    (slotOf gid, s.restoredGroup l t' c (slotOf gid) gid (((t.out.find? fun o => o.gid == gid).map (·.gone)).getD 0)))

/-- The rectangle of a launch whose first core is the one given. -/
def rectangleAt (l : Launch) (c : CoreId) : Option (List CoreId) := rectangle l (chipOf c) (c.val % 48 / 8) (c.val % 8)

/-- R89, R171, R388: the suspended teams of a cluster may be restored to these cores. -/
def State.canRestore (s : State) (l : Launch) (cores : List CoreId) (t : Team) : Bool :=
  let team := s.board.suspended.filter fun u => u.launch == t.launch && u.cluster == t.cluster
  let run := s.teams.any fun u => u.launch == l.id && l.det && l.run u.cluster == l.run t.cluster
  (s.clusterOf t).isEmpty && chipOf t.core == chipOf (cores.getD 0 0)
  && cores.all (fun c => s.coreOpen c l)
  && team.all (fun u =>
    let c := cores.getD u.rank 0
    decide (u.out.length ≤ (s.freeSlots c).length) && decide (s.rowsHeld c + 16 * u.out.length ≤ 3968) && (s.regionBase c l.part u.size).isSome)
  && (!run || l.boundRect t.cluster == some cores)
  && !(l.det && l.runs.any fun r => r.1 != l.run t.cluster && r.2.any cores.contains)

/-- R412: firmware restores the cluster of a suspended team, its first core at the core given. -/
def execContextRestore (core : CoreId) (image : Nat) (s : State) : Host.Outcome State Fault Refusal :=
  .next (match s.board.suspended[image]? with
    | none => s
    | some t => match s.launch? t.launch with
      | none => s
      | some l => match rectangleAt l core with
        | none => s
        | some cores =>
          if s.canRestore l cores t then
            let us := s.board.suspended.filter fun u => u.launch == t.launch && u.cluster == t.cluster
            let s := { s with board := { s.board with
              suspended := s.board.suspended.filter fun u => !(u.launch == t.launch && u.cluster == t.cluster) } }
            let s := us.foldl (fun s u => s.restoreTeam l cores u) s
            if l.det then s.modLaunch l.id fun l =>
              { l with runs := l.runs.map fun r => if r.1 = l.run t.cluster then (r.1, cores) else r }
            else s
          else s)

end Sys2Proof.Machine
end

