-- ==== Sys2Proof/Machine/Translation.lean ====
section
/-! DEFINITION. Invalidation, region switches, the memory-side cache's write-backs, host translations (R353, R356 to
R362, R368 to R374). -/

namespace Sys2Proof.Machine

/-! ### Invalidation (R359 to R361) -/

/-- R359: GO of the invalidation register. -/
def Board.invalidating (x : Board) : Bool := x.inval.getLsbD 127

/-- R359, R360: firmware writes the invalidation register; a write while a request is in progress is ignored. The host has still to
acknowledge a request that starts. -/
def execInvalidationRequest (req : BitVec 128) (s : State) : Host.Outcome State Fault Refusal :=
  .next (if s.board.invalidating then s
    else { s with board := { s.board with inval := req &&& 0x81FF007FFFFFFFFF01FFFFFFFFFF0000#128, hostAck := false } })

/-- R359: the request names a context. -/
def invalNamesCtx (req : BitVec 128) (ctx : Fin 64) : Bool := req.getLsbD 102 || fieldOf req.toNat 96 6 == ctx.val

/-- R359: the request matches a cached translation. -/
def invalMatches (req : BitVec 128) (e : TlbEntry) : Bool :=
  let x := req.toNat
  let lo := fieldOf x 16 41 * 65536
  let n := fieldOf x 64 32
  invalNamesCtx req e.ctx && (n == 0 || (decide (e.va < lo + n * 65536) && decide (lo < e.va + 2 ^ e.size)))

/-- R359: the request names a chiplet. -/
def invalNamesChip (req : BitVec 128) (d : Fin 8) : Bool := req.getLsbD (112 + d.val)

/-- An operation holds physical addresses that it has yet to access. -/
def Work.addressed : Work → Bool
  | .atomic _ _ _ => true
  | .bred _ _ _ => true
  | _ => false

/-- R360: an access that translated earlier and is named by the request has not been performed. -/
def State.invalPending (s : State) (req : BitVec 128) : Bool :=
  s.ops.any fun o => o.work.addressed && invalNamesChip req (chipOf o.core) && match s.group? o.core o.slot with
    | some g => invalNamesCtx req g.ctx
    | none => false

/-- R360: what the cores of the named chiplets have stored takes its place in coherence order, and what they have loaded has been
read. -/
def State.performNamed (s : State) (req : BitVec 128) : State :=
  ((List.finRange 384).foldl (fun s (c : CoreId) =>
    if invalNamesChip req (chipOf c) && !(s.cores[c]).l1.isEmpty then s.writeBack c fun _ => true else s) s).settleLoads fun r => invalNamesChip req (chipOf r.core)

/-- R359, R360: the request completes once the accesses have been performed and the host, where it is named, has acknowledged its own; the
matching translations and the walk caches' entries of the contexts are gone. -/
def execInvalidationComplete (s : State) : Host.Outcome State Fault Refusal :=
  let req := s.board.inval
  .next (if !s.board.invalidating || s.invalPending req || req.getLsbD 120 && !s.board.hostAck then s
    else
      let s := s.performNamed req
      { s with
        cores := Vector.ofFn fun c : Fin 384 =>
          let x := s.cores[c]
          if invalNamesChip req (chipOf c) then { x with tlb := x.tlb.filter fun e => !invalMatches req e } else x
        board := { s.board with
          inval := req &&& ~~~ BitVec.ofNat 128 (2 ^ 127)
          walks := s.board.walks.filter fun w => !invalNamesCtx req w.1
          tlb := Vector.ofFn fun d : Fin 8 =>
            let t := s.board.tlb[d]
            if invalNamesChip req d then t.filter fun e => !invalMatches req e else t } })

/-- R355, R357, R421: the host asks for the translation of a page (its number in 64 KiB units): AH is set before the leaf is read, and D for one
that it may write. The answer is the physical address, or nothing. -/
def execHostTranslationRequest (ctx : Fin 64) (page : Nat) (write : Bool) (s : State) : Host.Outcome State Fault Refusal :=
  let va := page * 65536 % 2 ^ 57
  let answer := fun (s : State) (bs : List Byte) => { s with board := { s.board with response := bs } }
  .next (if !s.linkOpen 0 then s
    else
      let s := s.walkFrom ctx va 8
      match s.walkGo ctx va s.board.roots[ctx] walkLevels with
      | .leaf e =>
        if write && !e.w || s.unreachable (e.pa + va % 2 ^ e.size) then answer s []
        else answer (if write then s.orCompanion e.comp (2 ^ 9) else s) (leBytes 8 (e.pa + va % 2 ^ e.size))
      | _ => answer s [])

/-! ### Region switches (R368 to R372) -/

/-- R371: a switch starts. -/
def execRegionSwitch (s : State) : Host.Outcome State Fault Refusal :=
  .next (if s.board.busy then s else { s with board := { s.board with busy := true } })

/-- R370: the masks of a set suit a region entry. -/
def masksFit (e : Word) (mask : Vector Word 13) : Bool :=
  let rowHome := e.getLsbD 20
  let parts := selectBits (fieldOf e.toNat 16 2)
  (List.finRange 13).all fun i : Fin 13 => !parts.contains i.val ||
    (hasBit mask[i] (homeOf rowHome i.val) && (parts.filter (· < i.val)).all fun j => !hasBit mask[i] (homeOf rowHome j))

/-- R368: an entry's own fields are legal. -/
def regionFits (e : Word) : Bool :=
  let x := e.toNat
  let ways := fieldOf x 16 2
  fieldOf x 13 3 % 2 ^ ways == 0 && fieldOf x 0 9 % (8 / 2 ^ ways) == 0 && decide (fieldOf x 0 9 + 8 / 2 ^ ways ≤ 384)

/-- R371: two entries share a stack and a stack-local range. -/
def regionsOverlap (e f : Word) : Bool :=
  let stackSpan := fun w : Word => (fieldOf w.toNat 13 3, fieldOf w.toNat 13 3 + 2 ^ fieldOf w.toNat 16 2)
  let range := fun w : Word => (fieldOf w.toNat 0 9, fieldOf w.toNat 0 9 + 8 / 2 ^ fieldOf w.toNat 16 2)
  let meets := fun a b : Nat × Nat => decide (a.1 < b.2) && decide (b.1 < a.2)
  meets (stackSpan e) (stackSpan f) && meets (range e) (range f)

/-- R371 step 4: the shadow passes its check. -/
def Board.shadowFits (x : Board) : Bool :=
  let valid := (List.finRange 384).filter fun r : Fin 384 => (x.shadow[r]).msb
  valid.all fun r =>
    let e := x.shadow[r]
    regionFits e && masksFit e x.hshadow[(⟨fieldOf e.toNat 18 2 % 4, Nat.mod_lt _ (by decide)⟩ : Fin 4)]
    && valid.all fun q => q.val ≤ r.val || !regionsOverlap e x.shadow[q]

/-- R371 step 2, R313: an admitted request to an affected region has not been performed, or a row of a call on the bank path is in progress. -/
def State.switchPending (s : State) : Bool :=
  let hits := fun ts : List Target => ts.any fun t => match t with
    | .phys pa _ => s.board.affects pa
    | .own _ _ pa _ => s.board.affects pa
    | _ => false
  (s.ops.any fun o => match o.work with
    | .atomic es _ _ => es.any fun e => hits e.targets
    | .bred us _ _ => us.any fun es => es.any fun e => hits e.targets
    | _ => false) || s.banksBusy

/-- R371, R435: elements of loads that have not landed may still be admitted after the switch, all those of one line request together. -/
def State.reloadLines (s : State) (hit : Nat → Bool) : State :=
  let spots := s.rereads.zipIdx.flatMap fun r => (((r.1.targets.filterMap Target.pa?).map (·.1)).filter hit).map fun pa => ((r.1.op, pa / 128), r.2)
  let lines := (spots.map (·.1)).eraseDups
  let old := lines.zipIdx.filter fun l => Config.readsFrom (s.fresh + l.2) l.1.2 % 2 == 0
    || (spots.any fun x => x.1 == l.1 && (s.rereads[x.2]?).any fun r => r.rows.isEmpty)
  let keep := old.flatMap fun l => (spots.filter fun x => x.1 == l.1).map (·.2)
  let again := (spots.map (·.2)).eraseDups.filter fun i => !keep.contains i
  let s := again.foldl State.rereadAt { s with fresh := s.fresh + lines.length }
  { s with rereads := (s.rereads.zipIdx.filter fun r => !keep.contains r.2).map (·.1) }

/-- R371 step 3: the caches below the L1s write back and drop the lines that a test names. -/
def State.dropBelow (s : State) (hit : Nat → Bool) : State :=
  let s := (List.finRange 8).foldl (fun s d => ((s.l2[d]).filter fun x => hit (x.line * 128)).foldl (fun s x => s.l2Drop d x.line) s) s
  let s := (s.hub.filter fun h => hit (h.line * 128)).foldl (fun s h => s.hubDrop h.line) s
  let s := (((s.msc.filter fun m => m.dirty && hit (m.line * 128)).map fun m => m.line / 8).eraseDups).foldl State.mscFlush s
  { s with msc := s.msc.filter fun m => !hit (m.line * 128) }

/-- R371 steps 2 to 6, R372: requests are performed, cached copies of affected lines are written back and dropped, the shadow is checked, and
the tables switch: what the new storage holds counts as written then. Calls on the bank path follow R313. -/
def execRegionSwitchComplete (s : State) : Host.Outcome State Fault Refusal :=
  .next (if !s.board.busy || s.switchPending then s
    else
      let hit := s.board.affects
      let s := (List.finRange 384).foldl (fun s (c : CoreId) => if (s.cores[c]).l1.isEmpty then s else s.dropL1 c hit) s
      let s := s.dropBelow hit
      if s.board.shadowFits then
        let s := { s with hist := s.hist.filter fun v => match v.place with | .phys block _ => !hit (8 * block) | .scratch _ _ => true
                          board := { s.board with regions := s.board.shadow, hmask := s.board.hshadow, busy := false } }
        (s.reloadLines hit).leaveBanks
      else { s with board := { s.board with refused := true, busy := false } })

/-! ### The memory-side cache (R373, R374) -/

/-- R374: the memory-side cache writes a block back. -/
def execMscBlockWriteback (block : Nat) (s : State) : Host.Outcome State Fault Refusal := .next (s.mscFlush block)

end Sys2Proof.Machine
end

