-- ==== Sys2Proof/Machine/HostFabric.lean ====
section
/-! DEFINITION. The host's rings, submissions and completions, the end of a launch, job records, host and peer accesses, links and
function-level reset; the Board's registers (R4, R5, R213, R227, R228, R247, R309, R336, R383, R387, R415 to R424, R426). -/

namespace Sys2Proof.Machine

/-- Changes a virtual function. -/
def State.modVf (s : State) (n : Fin 8) (f : VirtFn → VirtFn) : State :=
  { s with board := { s.board with vf := s.board.vf.set n (f s.board.vf[n]) } }

/-- Bytes that a read returns to its requester. -/
def State.respond (s : State) (bs : List Byte) (poison : Bool) : State := { s with board := { s.board with response := bs, rpoison := poison } }

/-! ### Links (R419 to R421) -/

/-- Changes a link. -/
def State.modLink (s : State) (n : Nat) (f : Link → Link) : State :=
  let i := ixOf 35 n (by decide)
  { s with board := { s.board with links := s.board.links.set i (f s.board.links[i]) } }

/-- R419, R421: a link that has failed in training, or four times within a second, stays down until reset. -/
def Link.dead (l : Link) : Bool := l.failed || decide (4 ≤ l.failures)

/-- R421: a frame fails its integrity check: the link retrains, and the fourth failure within one second takes it down. A number from 35
on stands for link number − 35 where a second has passed since the failures counted so far (log 3). -/
def execLinkIntegrityFailure (link : Nat) (s : State) : Host.Outcome State Fault Refusal :=
  let l := s.board.links[ixOf 35 link (by decide)]
  .next (if l.dead then s
    else
      let n := if 35 ≤ link then 1 else l.failures + 1
      let s := s.modLink link fun l => { l with up := false, failures := n }
      if n = 4 then s.logged (.linkDown (link % 35)) else s)

/-- R420: a UALink port fails. -/
def execPeerLinkFailure (link : Nat) (s : State) : Host.Outcome State Fault Refusal :=
  .next (if 1 ≤ link % 35 ∧ link % 35 ≤ 18 then s.modLink link fun l => { l with up := false } else s)

/-! ### Completion entries (R418) -/

/-- R418: a completion entry without PHASE. -/
def completionEntry (tag : BitVec 64) (kind info aux : Nat) : List Byte :=
  leBytes 8 tag.toNat ++ leBytes 1 kind ++ leBytes 1 info ++ leBytes 4 aux ++ leBytes 2 0

/-- R418: the completion ring is full. -/
def VirtFn.ringFull (v : VirtFn) : Bool := (v.cqpos + 1) % v.cqsize.toNat == v.cqhead.toNat

/-- R228, R418: firmware writes the held entries for which the ring has room, each with release ordering at `sys` over the writes of the
launch that it reports. -/
def State.flushHeld (s : State) (n : Fin 8) : Nat → State
  | 0 => s
  | fuel + 1 =>
    let v := s.board.vf[n]
    match v.held with
    | [] => s
    | e :: rest =>
      if !v.ready || v.ringFull || !s.linkOpen 0 then s
      else
        let at_ := hostBase + v.cqbase.toNat + 16 * v.cqpos
        let s := s.boardWrite e.2 (some 13) (((List.range 16).map fun i => Target.phys (at_ + i) none).zip (e.1.set 14 (BitVec.ofNat 8 (1 - v.pass % 2))))
        let next := v.cqpos + 1
        let v := if next = v.cqsize.toNat then { v with cqpos := 0, pass := v.pass + 1, held := rest } else { v with cqpos := next, held := rest }
        (s.modVf n fun _ => v).flushHeld n fuel

/-- R418: firmware posts a completion entry after a view, or holds it while the ring is full or the host cannot be reached. -/
def State.postEntryFor (s : State) (n : Fin 8) (e : List Byte) (v : View) : State :=
  let s := s.modVf n fun x => { x with held := x.held ++ [(e, v)] }
  s.flushHeld n (s.board.vf[n]).held.length

/-- R418, R421: the link to the host carries traffic again: the held entries are written. -/
def State.reopened (s : State) : State := (List.finRange 8).foldl (fun s n => s.flushHeld n (s.board.vf[n]).held.length) s

/-- R419, R421: a link has trained. -/
def execLinkRetrainComplete (link : Nat) (s : State) : Host.Outcome State Fault Refusal :=
  .next (s.modLink link fun l => if l.dead then l else { l with up := true }).reopened

/-- R421: a link has its keys. -/
def execLinkKeyEstablishment (link : Nat) (s : State) : Host.Outcome State Fault Refusal :=
  .next (s.modLink link fun l => { l with keyed := true }).reopened

/-! ### Job records (R426) -/

/-- R426: the record of the job of a virtual function, signed. -/
def jobRecord (n : Fin 8) (v : VirtFn) (seq : Nat) (images : List (Nat × List Byte)) : List Byte :=
  let imgs := images ++ v.images
  let ks := v.kernels.take 4095
  let body := leBytes 4 1 ++ leBytes 4 n.val ++ leBytes 8 seq ++ leBytes 8 ((v.job.getD 0).toNat) ++ leBytes 4 imgs.length
    ++ leBytes 4 (ks.length + (if 4095 < v.kernels.length then 2 ^ 31 else 0))
    ++ imgs.flatMap (fun i => leBytes 4 i.1 ++ i.2) ++ ks.flatMap id
  body ++ leBytes 114 (Config.signature body).toNat

/-- R426: the end of a job: its record is written into the tenant's common-memory window and announced. A record that the window cannot hold
ends with the window (DESIGN CHOICE, log 23). -/
def State.endJob (s : State) (n : Fin 8) : State :=
  let v := s.board.vf[n]
  match v.job with
  | none => s
  | some tag =>
    let seq := s.board.seq + 1
    let w := s.board.window[n]
    let bytes := jobRecord n v seq s.board.images
    let off := Config.jobOffset seq % (w.2 - bytes.length + 1)
    let s := s.plainWrite none (commonBase + (w.1 + off) % commonSize) (bytes.take (min w.2 (commonSize - (w.1 + off) % commonSize)))
    let s := { s with board := { s.board with seq := seq, records := s.board.records ++ [bytes] } }
    (s.postEntryFor n (completionEntry tag 3 0 off) .none).modVf n fun v => { v with job := none, kernels := [], images := [] }

/-! ### The end of a launch (R383) -/

/-- The virtual function that submitted a launch, with the tag and whether the launch ends the job. -/
def State.submitter (s : State) (id : Nat) : Option (Fin 8 × BitVec 64 × Bool) :=
  (List.finRange 8).findSome? fun n : Fin 8 => ((s.board.vf[n]).tags.find? fun t => t.1 == id).map fun t => (n, t.2)

/-- R418, R426: the host learns how a launch of its own ended, and with an ENDJOB launch its job's record is written. -/
def State.report (s : State) (id kind info : Nat) (did : View) : State :=
  match s.submitter id with
  | none => s
  | some (n, tag, last) =>
    let s := s.modVf n fun v => { v with tags := v.tags.filter fun t => t.1 != id }
    let s := s.postEntryFor n (completionEntry tag kind info 0) did
    if last then s.endJob n else s

/-- R383: a launch completes, or one that firmware ended as a whole has ended. -/
def execLaunchComplete (launch : Nat) (s : State) : Host.Outcome State Fault Refusal :=
  .next (match s.launch? launch with
    | none => s
    | some l =>
      let gone := fun (s : State) => { s with launches := s.launches.filter fun x => x.id != launch
                                              faults := s.faults.filter fun f => l.hold != some f.id }
      match l.killed with
      | some cls =>
        if l.retired = l.next * l.clusterSize then gone (s.report launch 2 cls l.did) else s
      | none =>
        if l.retired = l.teams ∧ l.next = l.clusters ∧ l.posts = [] then
          let va := l.counterVa l.doneoff
          let r := if l.doneoff = 0xFFFFFFFF then (s, true)
            else s.postFor l va 4 true fun s ts => (s.boardAdd l.did ts 1, true)
          if r.2 then gone (r.1.report launch 0 0 l.did) else r.1
        else s)

/-! ### The submission ring (R387, R417, R418) -/

/-- R417: a ring size. -/
def ringSizeOk (x : BitVec 64) : Bool := decide (16 ≤ x.toNat) && decide (x.toNat ≤ 4096) && x &&& (x - 1) == 0

/-- R417: the first doorbell after a reset makes firmware check the ring registers. -/
def VirtFn.doorbell (v : VirtFn) (tail : BitVec 64) : VirtFn :=
  let v := { v with sqtail := tail }
  if v.ready then v
  else if ringSizeOk v.sqsize && ringSizeOk v.cqsize && v.sqbase.toNat % 64 == 0 && v.cqbase.toNat % 64 == 0 then
    { v with ready := true, ringerr := false, sqpos := 0, cqpos := 0, pass := 0 }
  else { v with ringerr := true }

/-- R227, R417: an agent of the host rings a doorbell: its posted write is a release of what it knows. -/
def State.ring (s : State) (agent : Nat) (vf : Fin 8) (tail : BitVec 64) : State :=
  s.modVf vf fun v => { v.doorbell tail with rung := v.rung.join (s.outsideOf (.host agent)).view }

/-- R417: the host writes SQTAIL. -/
def execSqtailDoorbell (vf : Fin 8) (value : Word) (s : State) : Host.Outcome State Fault Refusal :=
  .next (if s.linkOpen 0 then s.ring vf.val vf (value.zeroExtend 64) else s)

/-- R417, R418: the host writes CQHEAD, which may make room for held entries. -/
def execCqheadDoorbell (vf : Fin 8) (value : Word) (s : State) : Host.Outcome State Fault Refusal :=
  .next (if s.linkOpen 0 then
      let s := s.modVf vf fun v => { v with cqhead := value.zeroExtend 64 }
      s.flushHeld vf (s.board.vf[vf]).held.length
    else s)

/-- R418: the tenant's context: the lowest of those that belong to it. -/
def State.tenantCtx (s : State) (n : Fin 8) : Option (Fin 64) :=
  if (s.board.tenants[n]).getLsbD 63 then (List.finRange 64).find? fun c : Fin 64 => (s.board.tenants[n]).getLsbD (64 + c.val) else none

/-- R225: what firmware reads for a function, after the doorbell. -/
def State.firmRead (s : State) (v : View) (ts : List Target) : State × List Byte := let r := s.readAs v ts; (r.1, r.2.1)

/-- R355, R387, R418: what firmware does with an entry: NEWJOB starts a job, the record is checked, and the launch is queued or refused. A
launch whose queue is full stays at the head of the ring; so does one whose record waits for a page, for which there is one fault entry. -/
def State.submit (s : State) (n : Fin 8) (va : Nat) (tag : BitVec 64) (newJob endJob : Bool) : State :=
  let v := s.board.vf[n]
  let step := fun s : State => s.modVf n fun v => { v with sqpos := (v.sqpos + 1) % v.sqsize.toNat, refused := false }
  let refuse := fun (s : State) (why : Nat) =>
    let s := (step s).postEntryFor n (completionEntry tag 1 why 0) .none
    if endJob then s.endJob n else s
  let s1 := if newJob then s.modVf n fun v => if v.job.isSome then v else { v with job := some tag, kernels := [], images := [] } else s
  match s.tenantCtx n with
  | none => refuse s1 9
  | some ctx =>
    let agent := Agent.board ((s.chips ctx).headD 0)
    let r := s1.admission agent ctx s.board.ctxSegs[ctx] va (fun _ => v.refused) fun s ts => s.firmRead v.rung ts
    match r.2 with
    | .refuse why => refuse r.1 why
    | .page va => (r.1.addFault ctx 0 0 0 va 4).modVf n fun v => { v with wait := some r.1.nextId }
    | .accept l desc =>
      if r.1.queueRoom l.queue then (step (r.1.enqueue { l with view := v.rung } desc)).modVf n fun v => { v with tags := v.tags ++ [(l.id, tag, endJob)] }
      else s

/-- R418: firmware reads the next submission entry of a function. -/
def execSubmissionEntry (vf : Fin 8) (s : State) : Host.Outcome State Fault Refusal :=
  let v := s.board.vf[vf]
  .next (if !v.ready || !s.linkOpen 0 || v.wait.isSome || v.sqpos == v.sqtail.toNat % v.sqsize.toNat then s
    else
      let at_ := hostBase + v.sqbase.toNat + 32 * v.sqpos
      let r := s.firmRead v.rung (plainBytes at_ 32)
      let field := fun i n => leValue ((r.2.drop i).take n)
      r.1.submit vf (field 0 8 % 2 ^ 57) (BitVec.ofNat 64 (field 8 8)) ((field 16 4).testBit 0) ((field 16 4).testBit 1))

/-! ### Host accesses (R227, R228, R416, R424) -/

/-- R416: the physical address of a byte of a tenant's range: its valid HBM regions in ascending order. The address counts 2^40 bytes for
each tenant (log 3); from 2^51 on it names the host's own memory (R352). -/
def State.hostRange (s : State) (addr : Nat) : Option Nat :=
  if hostBase ≤ addr then (if addr < 2 ^ 52 then some addr else none)
  else
  let n := ixOf 8 (addr / 2 ^ 40) (by decide)
  let o := addr % 2 ^ 40
  (((List.finRange 384).filter fun r : Fin 384 => s.board.owner[r] == some n && (s.board.regions[r]).msb)[o / 2 ^ 30]?).map
    fun r => r.val * 2 ^ 30 + o % 2 ^ 30

/-- R416: the device's copies of a line of the host's memory are written back and dropped. -/
def State.snoop (s : State) (line : Nat) : State :=
  let s := (List.finRange 384).foldl (fun s (c : CoreId) => if (s.cores[c]).l1.isEmpty then s else s.dropL1 c fun pa => pa / 128 == line) s
  ((List.finRange 8).foldl (fun s d => if (s.l2[d]).any fun x => x.line == line then s.l2Drop d line else s) s).hubDrop line

/-- R227: the orderings of the host's operations at `sys`: acquire and release. -/
def State.sysAcq (s : State) (order : Nat) : Option Reach := acquires order (s.reach 13)
/-- R227. -/
def State.sysRel (s : State) (order : Nat) : Option Reach := releases order (s.reach 13)

/-- R227, R375, R424: an agent outside reads some bytes; those that stand for nothing read as zero. -/
def State.hostRead (s : State) (p : Party) (acq : Option Reach) (pas : List (Option Nat)) : State :=
  let ts := (pas.filterMap id).map fun pa => Target.phys pa none
  let r := (s.touchAll .board false false ts).outsideRead p acq ts
  let got := (pas.filterMap id).zip r.2
  r.1.respond (pas.map fun x => match x with
    | some pa => ((got.find? fun g => g.1 == pa).map (·.2)).getD 0
    | none => 0) ((pas.filterMap id).any r.1.poisonedPa)

/-- R227, R416: what happens in the caches before an agent outside takes some bytes to write them: of its own memory the host takes the
lines. -/
def State.hostTakes (s : State) (pas : List Nat) : State :=
  let s := ((pas.filter fun pa => decide (hostBase ≤ pa)).map (· / 128)).eraseDups.foldl State.snoop s
  s.touchAll .board false true ((pas.filter fun pa => decide (pa < hostBase)).map fun pa => .phys pa none)

/-- R227, R228: an agent outside writes bytes. -/
def State.hostWrite (s : State) (p : Party) (rel : Option Reach) (cells : List (Nat × Byte)) : State :=
  (s.hostTakes (cells.map (·.1))).outsideWrite p rel (cells.map fun c => (.phys c.1 none, c.2))

/-- The bytes of the host's range from an address on that stand for memory. -/
def State.hostCells (s : State) (addr : Nat) (bs : List Byte) : List (Nat × Byte) :=
  bs.zipIdx.filterMap fun b => (s.hostRange (addr + b.2)).map fun pa => (pa, b.1)

/-- R216, R227, R416: an operation of an agent of the host by CXL.mem. A read-modify-write of bytes that are no single aligned location of the
range is none. -/
def execHostCxlMemAccess (addr : Nat) (ask : HostAsk) (s : State) : Host.Outcome State Fault Refusal :=
  let p := Party.host ask.agent
  let order := ask.order
  let sc := fun s : State => if order = 4 then s.outsideFence p 4 (s.reach 13) else s
  .next (if !s.linkOpen 0 then s
    else match ask.op with
      | .read len => (sc s).hostRead p (s.sysAcq order) ((List.range len).map fun i => s.hostRange (addr + i))
      | .write bs => sc (s.hostWrite p (s.sysRel order) (s.hostCells addr bs))
      | .rmw old bs =>
        let cells := s.hostCells addr bs
        if bs.length ∈ [1, 2, 4, 8] ∧ addr % bs.length = 0 ∧ cells.length = bs.length then
          let ts := cells.map fun c => Target.phys c.1 none
          let r := ((sc s).hostTakes (cells.map (·.1))).outsideAtomic p (s.sysAcq order) (s.sysRel order) ts fun x => if x = leValue old then some (leValue bs) else none
          (sc r.1).respond r.2 (ts.any r.1.poisonedTarget)
        else s
      | .fence => if order = 0 then s else s.outsideFence p order (s.reach 13))

/-- R227, R416, R424: the host snoops a line of its memory: the device's copies are written back and dropped. -/
def execHostSnoop (addr : Nat) (s : State) : Host.Outcome State Fault Refusal :=
  .next (if s.linkOpen 0 then
      let line := (hostBase + addr) / 128
      let s := s.snoop line
      let pas := (List.range 128).map fun i => line * 128 + i
      s.respond (pas.map (s.readPa none)) (pas.any s.poisonedPa)
    else s)

/-- R417: the registers of BAR0: offset, bytes and value. DESIGN CHOICE (log 82): the two bases have 8 bytes, the others 4, as STATUS has. -/
def VirtFn.registers (v : VirtFn) : List (Nat × Nat × BitVec 64) :=
  [(0x00, 8, v.sqbase), (0x08, 4, v.sqsize), (0x10, 4, v.sqtail), (0x18, 8, v.cqbase), (0x20, 4, v.cqsize), (0x28, 4, v.cqhead),
    (0x30, 4, BitVec.ofNat 64 (v.ringerr.toNat * 2 + v.ready.toNat))]

/-- Addresses from here on are BAR0 pages of 4 KiB, one for each virtual function (log 3). -/
def barBase : Nat := 2 ^ 44

/-- The virtual function of a BAR0 address, and the offset in its page. -/
def barAt (addr : Nat) : Fin 8 × Nat := (ixOf 8 ((addr - barBase) / 4096) (by decide), (addr - barBase) % 4096)

/-- R417: a byte of BAR0; an offset that is not listed reads as zero. -/
def VirtFn.barByte (v : VirtFn) (off : Nat) : Byte :=
  match v.registers.find? fun r => decide (r.1 ≤ off) && decide (off < r.1 + r.2.1) with
  | some r => BitVec.ofNat 8 (fieldOf r.2.2.toNat (8 * (off - r.1)) 8)
  | none => 0

/-- R417: a register with the bytes that a write from an offset on gives it; none where the write leaves it alone. -/
def merged (r : Nat × Nat × BitVec 64) (off : Nat) (bs : List Byte) : Option (BitVec 64) :=
  if off < r.1 + r.2.1 ∧ r.1 < off + bs.length then
    some (BitVec.ofNat 64 (leValue ((List.range r.2.1).map fun i =>
      if off ≤ r.1 + i then bs.getD (r.1 + i - off) (BitVec.ofNat 8 (fieldOf r.2.2.toNat (8 * i) 8)) else BitVec.ofNat 8 (fieldOf r.2.2.toNat (8 * i) 8))))
  else none

/-- R417: a write of a ring register is ignored while READY = 1. -/
def VirtFn.writeRing (v : VirtFn) (off : Nat) (x : BitVec 64) : VirtFn :=
  if v.ready then v
  else if off = 0 then { v with sqbase := x }
  else if off = 1 then { v with sqsize := x }
  else if off = 3 then { v with cqbase := x }
  else if off = 4 then { v with cqsize := x }
  else v

/-- R417: a register of BAR0 is written by an agent of the host. -/
def State.writeReg (s : State) (agent : Nat) (n : Fin 8) (off : Nat) (x : BitVec 64) : State :=
  if off = 0x10 then s.ring agent n x
  else if off = 0x28 then
    let s := s.modVf n fun v => { v with cqhead := x }
    s.flushHeld n (s.board.vf[n]).held.length
  else s.modVf n fun v => v.writeRing (off / 8) x

/-- R417: a write of BAR0: the registers that it touches, in ascending order. -/
def State.writeBar (s : State) (agent addr : Nat) (bs : List Byte) : State :=
  let at_ := barAt addr
  ((s.board.vf[at_.1]).registers.filterMap fun r => (merged r at_.2 bs).map fun x => (r.1, x)).foldl (fun s r => s.writeReg agent at_.1 r.1 r.2) s

/-- R228: a posted write of a requester of the host, in PCIe order: a release at `sys`. -/
def execHostCxlioPostedWrite (spot : HostSpot) (data : List Byte) (s : State) : Host.Outcome State Fault Refusal :=
  .next (if s.linkOpen 0 then
      if barBase ≤ spot.addr ∧ spot.addr < hostBase then s.writeBar spot.agent spot.addr data
      else s.hostWrite (.host spot.agent) (some (s.reach 13)) (s.hostCells spot.addr data)
    else s)

/-- R228: a read of a requester of the host, after its earlier posted writes. -/
def execHostCxlioRead (spot : HostSpot) (len : Nat) (s : State) : Host.Outcome State Fault Refusal :=
  .next (if s.linkOpen 0 then
      if barBase ≤ spot.addr ∧ spot.addr < hostBase then
        let r := barAt spot.addr
        s.respond ((List.range len).map fun i => (s.board.vf[r.1]).barByte (r.2 + i)) false
      else s.hostRead (.host spot.agent) none ((List.range len).map fun i => s.hostRange (spot.addr + i))
    else s)

/-- R224, R420: a request of an agent of a peer package; the address holds the requesting tenant above the 38 bits of o (log 3). One that no
export serves gets no bytes. -/
def execPeerRequest (peer : PeerAsk) (addr : Nat) (write : Option (List Byte)) (s : State) : Host.Outcome State Fault Refusal :=
  let open_ := (List.range 18).any fun i => s.linkOpen (i + 1)
  let pa? := fun o : Nat => (s.board.exports.find? fun e => e.tenant == addr / 2 ^ 38 && decide (e.off ≤ o) && decide (o < e.off + e.size)).bind fun e =>
    let pa := e.pa + (o - e.off)
    if s.unreachable pa || s.peerRefuses pa then none else some pa
  let o := addr % 2 ^ 38
  let p := Party.peer peer.package peer.agent
  .next (if !open_ || peer.package == s.board.pkg then s
    else match write with
      | none =>
        let pas := (List.range 32).map fun i => pa? (o / 32 * 32 + i)
        if pas.any Option.isNone then s.respond [] false else s.hostRead p (acquires peer.order (s.reach peer.scope)) pas
      | some bs =>
        if (List.range bs.length).any fun i => (pa? (o + i)).isNone then s.respond [] false
        else s.hostWrite p (releases peer.order (s.reach peer.scope)) (bs.zipIdx.filterMap fun b => (pa? (o + b.2)).map fun pa => (pa, b.1)))

/-! ### Function-level reset (R423) -/

/-- R423: dirty lines that are dropped without write-back: their bytes are lost. -/
def State.loseLines (s : State) (lost : List Nat) : State :=
  let s1 := lost.zipIdx.foldl (fun s l => s.plainWrite none (l.1 * 128) ((List.range 128).map fun i => Config.lostByte (s.fresh + l.2) i)) s
  { s1 with fresh := s.fresh + lost.length }

/-- R423: the lines of a tenant's memory leave the L1s and the L2s, and its ways of the hub cache and its lines of the memory-side caches are
invalidated without write-back. -/
def State.invalidateTenant (s : State) (vf : Fin 8) : State :=
  let mine := fun pa => decide (pa < hbmSize) && s.board.owner[ixOf 384 (pa / 2 ^ 30) (by decide)] == some vf
  let ways := (s.board.tenants[vf]).extractLsb' 15 32
  let s := (List.finRange 384).foldl (fun s (c : CoreId) => if (s.cores[c]).l1.isEmpty then s else s.dropL1 c mine) s
  let s := (List.finRange 8).foldl (fun s d => ((s.l2[d]).filter fun x => mine (x.line * 128)).foldl (fun s x => s.l2Drop d x.line) s) s
  let inHub := fun h : HubLine => ways.getLsbD h.way.val
  let lost := ((s.hub.filter fun h => inHub h && h.dirty).map (·.line) ++ (s.msc.filter fun m => mine (m.line * 128) && m.dirty).map (·.line)).eraseDups
  { s with hub := s.hub.filter fun h => !inHub h, msc := s.msc.filter fun m => !mine (m.line * 128) }.loseLines lost

/-- R383: the accesses of a launch's threads so far. -/
def State.gridDid (s : State) (id : Nat) : View :=
  View.joins ((s.launches.filter fun l => l.id == id).map (·.did) ++ (s.teams.filter fun t => t.launch == id).flatMap fun t =>
    t.did :: (s.teamGroups t).map fun p => s.viewOf t.core p.1 0xFFFFFFFF)

/-- R423: a function-level reset: the tenant's launches and contexts end, what its ended teams had stored is written back and reported (R418),
its cached lines and keys are gone, and its rings are reset. -/
def execFunctionLevelReset (vf : Fin 8) (s : State) : Host.Outcome State Fault Refusal :=
  let mine := fun (s : State) (c : Fin 64) => s.tenantOf c == some vf
  let ids := (s.launches.filter fun l => mine s l.ctx).map (·.id)
  let cores := ((s.teams.filter fun t => ids.contains t.launch).map Team.core).eraseDups
  let s1 := ids.foldl (fun s i => s.endLaunch i 0) s
  let s1 := { s1 with faults := s1.faults.filter fun f => !mine s f.ctx }.purge
  let s1 := cores.foldl (fun s c => s.release c 13) s1
  let s1 := ids.foldl (fun s1 i => s1.report i 2 0 (s.gridDid i)) s1
  let s1 := (s1.endJob vf).invalidateTenant vf
  .next { s1 with board := { s1.board with
    keys := Vector.ofFn fun k : Fin 8 => if (s.board.tenants[vf]).getLsbD (47 + k.val) then none else s1.board.keys[k]
    vf := s1.board.vf.set vf .reset } }

/-! ### Registers of the Board (R4, R5; the numbers are the model's own, log 3) -/

/-- R5: the written bits of a register, those of the mask. -/
def regWord (v : BitVec 128) (mask : Word) : Word := v.extractLsb' 0 32 &&& mask

/-- R247: a grant of exact cells: a multiple of 1,024, at most 65,536 in all; every cell of the tenant's window then holds +0. -/
def State.grantCells (s : State) (n : Fin 8) (m : Nat) : State :=
  let total := (s.board.cellGrant.set n m).toList.sum
  if m % 1024 ≠ 0 ∨ 65536 < total then s
  else
    let lo := commonBase + (s.board.window[n]).1
    { s with cells := s.cells.filter fun c => !(decide (lo ≤ c.1) && decide (c.1 < lo + 4 * m))
             board := { s.board with cellGrant := s.board.cellGrant.set n m } }

/-- R420: firmware's export for a tenant: physical base in [51:0], offset in [89:52], size in [127:90]; size 0 withdraws the tenant's
exports. -/
def exportsWith (es : List Export) (n : Nat) (v : BitVec 128) : List Export :=
  let x := v.toNat
  if fieldOf x 90 38 = 0 then es.filter fun e => e.tenant != n else ⟨n, fieldOf x 52 38, fieldOf x 90 38, fieldOf x 0 52⟩ :: es

/-- R427: sixteen bytes of an image arrive by management traffic. -/
def stagedWith (xs : List (Nat × List Byte)) (kind : Nat) (bs : List Byte) : List (Nat × List Byte) :=
  (kind, ((xs.find? fun x => x.1 == kind).map (·.2)).getD [] ++ bs) :: xs.filter fun x => x.1 != kind

/-- R4, R5: a Board register is written; with the context of a running job gone the job ends (R426). Registers: 0 shadow region entry, 1 shadow hash mask (13 × set + i), 2 quiesce, 4 translation
root, 5 scope table, 6 tenant entry, 7 exact-cell grant, 8 common-memory window, 9 steering, 10 placement, 11 export, 12 package number,
14 staged image, 15 ring register (16 × function + offset / 8), 16 segment of a context (8 × context + n), 17 owner of an
HBM region (8 for none), 18 a tape's copy of EXTENT (32 × core + slot; R329). -/
def State.writeBoard (s : State) (reg index : Nat) (v : BitVec 128) : State :=
  let b := s.board
  let x := v.toNat
  match reg with
  | 0 => { s with board := { b with shadow := b.shadow.set (ixOf 384 index (by decide)) (regWord v 0x803FE1FF) } }
  | 1 =>
    let i := ixOf 4 (index / 13) (by decide)
    { s with board := { b with hshadow := b.hshadow.set i ((b.hshadow[i]).set (ixOf 13 index (by decide)) (regWord v 0x7FFFFF)) } }
  | 2 => { s with board := { b with refused := b.refused && !v.getLsbD 2 } }
  | 4 => { s with board := { b with roots := b.roots.set (ixOf 64 index (by decide)) (fieldOf x 0 52) } }
  | 5 => { s with board := { b with scope := b.scope.set (ixOf 4096 index (by decide)) (regWord v 0x87) } }
  | 6 =>
    let n := ixOf 8 index (by decide)
    let t := { s with board := { b with tenants := b.tenants.set n (v &&& ~~~ 0x7FFF#128) } }
    if t.tenantCtx n != s.tenantCtx n && (s.tenantCtx n).isSome then t.endJob n else t
  | 7 => s.grantCells (ixOf 8 index (by decide)) x
  | 8 => { s with board := { b with window := b.window.set (ixOf 8 index (by decide)) (fieldOf x 0 32, fieldOf x 32 32) } }
  | 9 => { s with board := { b with steer := b.steer.set (ixOf 8 index (by decide)) (regWord v 0x3FFFFF) } }
  | 10 => { s with board := { b with place := b.place.set (ixOf 8 index (by decide)) (regWord v 0x1FFFFFF) } }
  | 11 => { s with board := { b with exports := exportsWith b.exports index v } }
  | 12 => { s with board := { b with pkg := x % 4096 } }
  | 14 => { s with board := { b with staged := stagedWith b.staged index (leBytes 16 x) } }
  | 15 =>
    let n := ixOf 8 (index / 16) (by decide)
    { s with board := { b with vf := b.vf.set n ((b.vf[n]).writeRing (index % 16) (v.extractLsb' 0 64)) } }
  | 16 =>
    let n := ixOf 64 (index / 8) (by decide)
    { s with board := { b with ctxSegs := b.ctxSegs.set n ((b.ctxSegs[n]).set (ixOf 8 index (by decide)) (v &&& 0x01FFFFFFFFFFFFFF03FFFFFFFFFFFFFF#128)) } }
  | 17 => { s with board := { b with owner := b.owner.set (ixOf 384 index (by decide)) (if x < 8 then some (ixOf 8 x (by decide)) else none) } }
  | 18 => s.modGroup (ixOf 384 (index / 32) (by decide)) (ixOf 32 index (by decide)) fun g => g.growTape x
  | _ => s

/-- R4, R5: firmware or the host writes a register. -/
def execRegisterWrite (reg index : Nat) (value : BitVec 128) (s : State) : Host.Outcome State Fault Refusal :=
  .next (s.writeBoard reg index value)

end Sys2Proof.Machine
end

