-- ==== Sys2Proof/Machine/Health.lean ====
section
/-! DEFINITION. Power, reset and boot, heat, retirement of units, keys, images, health reads and uncorrectable errors (R419, R424 to
R430). -/

namespace Sys2Proof.Machine

/-! ### Power and reset (R425, R429, R430) -/

/-- R352: cells of memory outside the package: host and peer memory, which a reset of the device leaves alone. -/
def outsideCells (m : List Host.Cell) : List Host.Cell := m.filter fun c => decide (peerBase ≤ c.1)

/-- R429: every die at its reset state. The host's memory, the blob that the host holds, and what is the model's own, stay. -/
def State.afterReset (s : State) : State :=
  { State.reset with
    agenda := s.agenda, mem := outsideCells s.mem, nextId := s.nextId, fresh := s.fresh
    board := { Board.reset with blob := s.board.blob } }

/-- R427, R429: the wear monitors at boot: the host gives back the blob that firmware exported last, or each integrator starts at the
conservative value of module flash and the figures are provisional (log 13). -/
def Board.wearAtBoot (x : Board) (n : Nat) : Board :=
  match (if Config.blobBack n then x.blob else none) with
  | some w => { x with wear := w, provisional := false }
  | none => { x with wear := Vector.ofFn fun i : Fin 488 => ⟨0, Config.wearStart i.val, 0⟩, provisional := true }

/-- R3: the words of an image, little-endian. -/
def imageWords (bs : List Byte) : List Word := (List.range (bs.length / 4)).map fun i => BitVec.ofNat 32 (wordAt bs i)

/-- R425: the digest of an image. -/
def imageDigest (bs : List Byte) : List Byte := leBytes 64 (Config.digest bs).toNat

/-- R341, R425: the emulation image of a chiplet passes its check and covers what the chiplet's class needs. -/
def emulGood (d : Fin 8) : Bool :=
  Config.imageGood 3 (Config.emulImage d) && Config.emulCovers (classOfChip d.val) (Config.emulImage d)

/-- R425, R419, R341: boot: the images of module flash are checked and taken into use, a chiplet whose images fail stays out of service, and
so do all where the Board's or the memory-side dies' image fails, since nothing can run then (log 25); the others' emulation stores of
1 MiB are filled, the UALink ports train or fail, and the scope table is filled. -/
def Board.boot (x : Board) : Board :=
  let good := fun kind => Config.imageGood kind (Config.flash kind)
  { x with
    images := (([1, 2, 4, 5].filter good).map fun k => (k, imageDigest (Config.flash k)))
      ++ (((List.finRange 8).filter emulGood).map fun d => (3, imageDigest (Config.emulImage d))).eraseDups
    handler := if good 4 then imageWords (Config.flash 4) else []
    emul := Vector.ofFn fun d : Fin 8 => if emulGood d then (Config.emulImage d).take (2 ^ 20) else []
    chipOut := Vector.ofFn fun d : Fin 8 => !(good 1 && good 2 && good 5 && emulGood d)
    pkg := Config.package % 4096
    links := x.links.mapIdx fun i l => if 1 ≤ i ∧ i ≤ 18 ∧ !Config.trains i then { l with failed := true } else l
    scope := Vector.ofFn fun i : Fin 4096 => Config.hops i.val &&& 0x87 }

/-- R429: power-up or a conventional PCIe reset, and the boot that follows. -/
def execPowerUpReset (s : State) : Host.Outcome State Fault Refusal :=
  let r := s.afterReset
  .next { r with board := r.board.boot.wearAtBoot r.fresh, fresh := r.fresh + 1 }

/-- R425, R429: the module is powered down; nothing on it keeps its state. -/
def execPowerDown (s : State) : Host.Outcome State Fault Refusal :=
  let r := s.afterReset
  .next { r with board := { r.board with power := false } }

/-! ### Heat (R430) -/

/-- R430: firmware lowers a die's clock. -/
def execThermalThrottle (die mhz : Nat) (s : State) : Host.Outcome State Fault Refusal :=
  let i := ixOf 17 die (by decide)
  .next (if mhz < s.board.clockMhz[i] then { s with board := { s.board with clockMhz := s.board.clockMhz.set i mhz } } else s)

/-- Changes every core of a die; the compute chiplets are dies 0 to 7. -/
def State.modDie (s : State) (die : Nat) (f : Core → Core) : State :=
  { s with cores := Vector.ofFn fun c : Fin 384 => if (chipOf c).val = die then f s.cores[c] else s.cores[c] }

/-- R430: the die's cores stop issuing. -/
def execThermalIssueStop (die : Nat) (s : State) : Host.Outcome State Fault Refusal := .next (s.modDie die fun x => { x with stopped := true })

/-- R430: the die's cores issue again. -/
def execThermalIssueResume (die : Nat) (s : State) : Host.Outcome State Fault Refusal := .next (s.modDie die fun x => { x with stopped := false })

/-- R430: the die's power is removed; the device must be reset. -/
def execThermalPowerOff (_ : Nat) (s : State) : Host.Outcome State Fault Refusal := .next { s with board := { s.board with power := false } }

/-! ### Retirement of units (R428) -/

/-- R428: no team is resident on a core that satisfies the test. -/
def State.unitEmpty (s : State) (f : CoreId → Bool) : Bool := s.teams.all fun t => !f t.core

/-- R89, R428: no team is resident on a chiplet, and none has been taken from it that must return there. -/
def State.chipEmpty (s : State) (d : Fin 8) : Bool :=
  s.unitEmpty (fun x => chipOf x == d) && s.board.suspended.all fun t => chipOf t.core != d

/-- R428: firmware retires a core (unit 0), a quad (1) or a chiplet (2) on which no team is resident. Where one is on the chiplet, no new
cluster is placed there from now on; firmware may end its teams (3). -/
def execUnitRetire (unit index : Nat) (s : State) : Host.Outcome State Fault Refusal :=
  let d := ixOf 8 index (by decide)
  let closed := fun s : State => { s with board := { s.board with closing := s.board.closing.set d true } }
  .next (match unit with
    | 0 =>
      let c := ixOf 384 index (by decide)
      if s.unitEmpty fun x => x == c then s.modCore c fun x => { x with retired := true } else s
    | 1 =>
      let q := ixOf 96 index (by decide)
      if s.unitEmpty fun x => quadOf x == q then { s with board := { s.board with quadOut := s.board.quadOut.set q true } } else s
    | 2 => if s.chipEmpty d then { s with board := { s.board with chipOut := s.board.chipOut.set d true } } else closed s
    | 3 => ((s.teams.filter fun t => chipOf t.core == d).foldl (fun s t => s.killTeam t.key 0) (closed s)).purge
    | _ => s)

/-! ### Keys, images and health (R425 to R427) -/

/-- R425: the root of trust installs a key in a slot, or erases it. -/
def execKeySlotInstall (slot : Fin 8) (key : Option (BitVec 512)) (s : State) : Host.Outcome State Fault Refusal :=
  .next { s with board := { s.board with keys := s.board.keys.set slot key } }

/-- R427: the unit of a wear monitor is in service: 384 cores, 96 quad engines, 8 stacks. -/
def State.unitLive (s : State) (i : Fin 488) : Bool :=
  if i.val < 384 then s.inService (ixOf 384 i.val (by decide))
  else if i.val < 480 then !s.board.quadOut[ixOf 96 (i.val - 384) (by decide)] && !s.board.chipOut[ixOf 8 ((i.val - 384) / 12) (by decide)]
  else true

/-- R427: the class of a unit: those of cores and quad engines are their chiplets', and stacks have none. -/
def unitClass (i : Fin 488) : Option Nat :=
  if i.val < 384 then some (classOfChip (i.val / 48)) else if i.val < 480 then some (classOfChip ((i.val - 384) / 12)) else none

/-- R427: the predicted end of life of a unit, in whole months. -/
def State.months (s : State) (i : Fin 488) : Nat := Config.endOfLife i.val (s.board.wear[i]).drift (s.board.wear[i]).stress (s.board.wear[i]).ecc

/-- R427: that of a class: the minimum over its units in service, or nothing where none is. -/
def State.classMonths (s : State) (cls : Nat) : Option Nat :=
  (((List.finRange 488).filter fun i => unitClass i == some cls && s.unitLive i).map s.months).min?

/-- R427, R429: management reads, by number (log 3): the figure of a unit (0 to 487), of a class (488 to 491), each with the mark that the
figures are provisional; the blob of the wear monitors, which the host then holds (492); or a job record (from 493 on). -/
def execHealthRead (n : Nat) (s : State) : Host.Outcome State Fault Refusal :=
  let tell := fun (s : State) (bs : List Byte) => { s with board := { s.board with managed := bs } }
  let figure := fun m : Option Nat => (match m with | some m => leBytes 4 m | none => []) ++ leBytes 1 s.board.provisional.toNat
  .next (if n < 488 then tell s (figure (some (s.months (ixOf 488 n (by decide)))))
    else if n < 492 then tell s (figure (s.classMonths (n - 488)))
    else if n = 492 then
      let bytes := s.board.wear.toList.flatMap fun w => leBytes 8 w.drift ++ leBytes 8 w.stress ++ leBytes 8 w.ecc
      tell { s with board := { s.board with blob := some s.board.wear } } (bytes ++ leBytes 114 (Config.signature bytes).toNat)
    else tell s ((s.board.records[n - 493]?).getD []))

/-- R341, R425: an emulation image passes its check, and covers what the class of every chiplet in service needs. -/
def State.emulFits (s : State) (image : List Byte) : Bool :=
  (List.finRange 8).all fun d : Fin 8 => s.board.chipOut[d] || Config.emulCovers (classOfChip d.val) image

/-- R341, R425 to R427: management activates a staged image: one that passes its check replaces the image of its kind, whose digest the
running jobs keep. An emulation image is one for every chiplet in service (DESIGN CHOICE, log 12): their stores are filled with it, and
those of the others keep theirs. -/
def execActivationRequest (image : Nat) (s : State) : Host.Outcome State Fault Refusal :=
  let b := s.board
  .next (match b.staged.find? fun x => x.1 == image with
    | none => s
    | some x =>
      if Config.imageGood image x.2 && (image != 3 || s.emulFits x.2) then
        let old := b.images.filter fun i => i.1 == image
        { s with board := { b with
          staged := b.staged.filter fun y => y.1 != image
          images := b.images.filter (fun i => i.1 != image) ++ [(image, imageDigest x.2)]
          vf := b.vf.map fun v : VirtFn => if v.job.isSome then { v with images := v.images ++ old } else v
          handler := if image = 4 then imageWords x.2 else b.handler
          emul := if image = 3 then Vector.ofFn fun d : Fin 8 => if b.chipOut[d] then b.emul[d] else x.2.take (2 ^ 20) else b.emul } }
      else s)

/-! ### Uncorrectable errors (R375, R424) -/

/-- The place of an error that is not in memory, by its number (log 3). -/
def eccSite (place : Nat) : EccSite :=
  let n := place / 7
  let c := ixOf 384 n (by decide)
  let k := ixOf 32 (n / 384) (by decide)
  let rest := n / 384 / 32
  match place % 7 with
  | 1 => .lane c k (ixOf 32 rest (by decide)) (ixOf 128 (rest / 32) (by decide))
  | 2 => .uni c k (ixOf 128 rest (by decide))
  | 3 => .tile c k (rest % 16) (rest / 16 % 4096)
  | 4 => .pred c k (ixOf 32 rest (by decide)) (ixOf 64 (rest / 32) (by decide))
  | 5 => .rec_ c k (ixOf 32 rest (by decide))
  | _ => .scratch c (n / 384)

/-- R375, R424: an uncorrectable error poisons the sector of memory, or the element of a register, a tile or scratch, that it touches. -/
def execUncorrectableEccError (place : Nat) (s : State) : Host.Outcome State Fault Refusal :=
  .next (if place % 7 = 0 then s.markPoison (32 * (place / 7))
    else
      let e := eccSite place
      if s.ecc.contains e then s else { s with ecc := s.ecc ++ [e] })

end Sys2Proof.Machine
end

