-- ==== Sys2Proof/Machine/Dispatch.lean ====
section
/-! DEFINITION. What each instruction does: one arm for each constructor, in the order of the opcode table. -/

namespace Sys2Proof.Machine

def exec (i : Instr) (s : State) : Host.Outcome State Fault Refusal :=
  match i with
  | .pfx m x r z f o c => Sys2Proof.Machine.execPfx m x r z f o c s
  | .iadd e d a b => Sys2Proof.Machine.execIadd e d a b s
  | .isub e d a b => Sys2Proof.Machine.execIsub e d a b s
  | .imul e d a b => Sys2Proof.Machine.execImul e d a b s
  | .imad e d a b => Sys2Proof.Machine.execImad e d a b s
  | .iaddi e d a m => Sys2Proof.Machine.execIaddi e d a m s
  | .ishiShl e d a n => Sys2Proof.Machine.execIshiShl e d a n s
  | .ishiShrN e d a n => Sys2Proof.Machine.execIshiShrN e d a n s
  | .ishiShrZ e d a n => Sys2Proof.Machine.execIshiShrZ e d a n s
  | .ishiRol e d a n => Sys2Proof.Machine.execIshiRol e d a n s
  | .and e d a b => Sys2Proof.Machine.execAnd e d a b s
  | .or e d a b => Sys2Proof.Machine.execOr e d a b s
  | .xor e d a b => Sys2Proof.Machine.execXor e d a b s
  | .shl e d a b => Sys2Proof.Machine.execShl e d a b s
  | .shrN e d a b => Sys2Proof.Machine.execShrN e d a b s
  | .shrZ e d a b => Sys2Proof.Machine.execShrZ e d a b s
  | .iminZ e d a b => Sys2Proof.Machine.execIminZ e d a b s
  | .imaxZ e d a b => Sys2Proof.Machine.execImaxZ e d a b s
  | .iminN e d a b => Sys2Proof.Machine.execIminN e d a b s
  | .imaxN e d a b => Sys2Proof.Machine.execImaxN e d a b s
  | .imulhZ e d a b => Sys2Proof.Machine.execImulhZ e d a b s
  | .imulhN e d a b => Sys2Proof.Machine.execImulhN e d a b s
  | .idivZ e d a b => Sys2Proof.Machine.execIdivZ e d a b s
  | .idivN e d a b => Sys2Proof.Machine.execIdivN e d a b s
  | .iunMov e d a => Sys2Proof.Machine.execIunMov e d a s
  | .iunNot e d a => Sys2Proof.Machine.execIunNot e d a s
  | .iunNeg e d a => Sys2Proof.Machine.execIunNeg e d a s
  | .iunAbs e d a => Sys2Proof.Machine.execIunAbs e d a s
  | .iunPopc e d a => Sys2Proof.Machine.execIunPopc e d a s
  | .iunClz e d a => Sys2Proof.Machine.execIunClz e d a s
  | .iunCtz e d a => Sys2Proof.Machine.execIunCtz e d a s
  | .iunBrev e d a => Sys2Proof.Machine.execIunBrev e d a s
  | .iunBswap e d a => Sys2Proof.Machine.execIunBswap e d a s
  | .iunSext8 e d a => Sys2Proof.Machine.execIunSext8 e d a s
  | .iunSext16 e d a => Sys2Proof.Machine.execIunSext16 e d a s
  | .iunZext8 e d a => Sys2Proof.Machine.execIunZext8 e d a s
  | .iunZext16 e d a => Sys2Proof.Machine.execIunZext16 e d a s
  | .iunFneg e d a => Sys2Proof.Machine.execIunFneg e d a s
  | .iunFabs e d a => Sys2Proof.Machine.execIunFabs e d a s
  | .bfxN e d a b => Sys2Proof.Machine.execBfxN e d a b s
  | .bfxZ e d a b => Sys2Proof.Machine.execBfxZ e d a b s
  | .bfi e d a b => Sys2Proof.Machine.execBfi e d a b s
  | .icmp c x p a b => Sys2Proof.Machine.execIcmp c x p a b s
  | .icmpi c x p a m => Sys2Proof.Machine.execIcmpi c x p a m s
  | .fcmp c x p a b => Sys2Proof.Machine.execFcmp c x p a b s
  | .predAnd b d a => Sys2Proof.Machine.execPredAnd b d a s
  | .predOr b d a => Sys2Proof.Machine.execPredOr b d a s
  | .predXor b d a => Sys2Proof.Machine.execPredXor b d a s
  | .predAndn b d a => Sys2Proof.Machine.execPredAndn b d a s
  | .predOrn b d a => Sys2Proof.Machine.execPredOrn b d a s
  | .predNot d a => Sys2Proof.Machine.execPredNot d a s
  | .predMov d a => Sys2Proof.Machine.execPredMov d a s
  | .predTov d a => Sys2Proof.Machine.execPredTov d a s
  | .predFromv d a => Sys2Proof.Machine.execPredFromv d a s
  | .fadd e d a b => Sys2Proof.Machine.execFadd e d a b s
  | .fsub e d a b => Sys2Proof.Machine.execFsub e d a b s
  | .fmul e d a b => Sys2Proof.Machine.execFmul e d a b s
  | .ffma e d a b => Sys2Proof.Machine.execFfma e d a b s
  | .fmin e d a b => Sys2Proof.Machine.execFmin e d a b s
  | .fmax e d a b => Sys2Proof.Machine.execFmax e d a b s
  | .fdiv e d a b => Sys2Proof.Machine.execFdiv e d a b s
  | .funRcp e d a => Sys2Proof.Machine.execFunRcp e d a s
  | .funRsqrt e d a => Sys2Proof.Machine.execFunRsqrt e d a s
  | .funSqrt e d a => Sys2Proof.Machine.execFunSqrt e d a s
  | .funExp2 e d a => Sys2Proof.Machine.execFunExp2 e d a s
  | .funLog2 e d a => Sys2Proof.Machine.execFunLog2 e d a s
  | .funSinpi e d a => Sys2Proof.Machine.execFunSinpi e d a s
  | .funCospi e d a => Sys2Proof.Machine.execFunCospi e d a s
  | .funTanh e d a => Sys2Proof.Machine.execFunTanh e d a s
  | .funLogistic e d a => Sys2Proof.Machine.execFunLogistic e d a s
  | .hadd2 e d a b => Sys2Proof.Machine.execHadd2 e d a b s
  | .hmul2 e d a b => Sys2Proof.Machine.execHmul2 e d a b s
  | .hfma2 e d a b => Sys2Proof.Machine.execHfma2 e d a b s
  | .bfma2 e d a b => Sys2Proof.Machine.execBfma2 e d a b s
  | .ladd e d a b => Sys2Proof.Machine.execLadd e d a b s
  | .lmul e d a b => Sys2Proof.Machine.execLmul e d a b s
  | .cvtF16F32 e d a => Sys2Proof.Machine.execCvtF16F32 e d a s
  | .cvtBf16F32 e d a => Sys2Proof.Machine.execCvtBf16F32 e d a s
  | .cvtF32F16 e d a => Sys2Proof.Machine.execCvtF32F16 e d a s
  | .cvtF32Bf16 e d a => Sys2Proof.Machine.execCvtF32Bf16 e d a s
  | .cvtE4m3F32 e d a => Sys2Proof.Machine.execCvtE4m3F32 e d a s
  | .cvtE5m2F32 e d a => Sys2Proof.Machine.execCvtE5m2F32 e d a s
  | .cvtF32E4m3 e d a => Sys2Proof.Machine.execCvtF32E4m3 e d a s
  | .cvtF32E5m2 e d a => Sys2Proof.Machine.execCvtF32E5m2 e d a s
  | .cvtZ32F32 e d a => Sys2Proof.Machine.execCvtZ32F32 e d a s
  | .cvtN32F32 e d a => Sys2Proof.Machine.execCvtN32F32 e d a s
  | .cvtF32Z32 e d a => Sys2Proof.Machine.execCvtF32Z32 e d a s
  | .cvtF32N32 e d a => Sys2Proof.Machine.execCvtF32N32 e d a s
  | .cvtZ16F32 e d a => Sys2Proof.Machine.execCvtZ16F32 e d a s
  | .cvtN16F32 e d a => Sys2Proof.Machine.execCvtN16F32 e d a s
  | .cvtZ8F32 e d a => Sys2Proof.Machine.execCvtZ8F32 e d a s
  | .cvtN8F32 e d a => Sys2Proof.Machine.execCvtN8F32 e d a s
  | .cvtF32Z8 e d a => Sys2Proof.Machine.execCvtF32Z8 e d a s
  | .cvtF32N8 e d a => Sys2Proof.Machine.execCvtF32N8 e d a s
  | .cvtF32Z16 e d a => Sys2Proof.Machine.execCvtF32Z16 e d a s
  | .cvtF32N16 e d a => Sys2Proof.Machine.execCvtF32N16 e d a s
  | .cvtZ16Z32 e d a => Sys2Proof.Machine.execCvtZ16Z32 e d a s
  | .cvtN16Z32 e d a => Sys2Proof.Machine.execCvtN16Z32 e d a s
  | .cvtZ8Z32 e d a => Sys2Proof.Machine.execCvtZ8Z32 e d a s
  | .cvtN8Z32 e d a => Sys2Proof.Machine.execCvtN8Z32 e d a s
  | .cvtL16F32 e d a => Sys2Proof.Machine.execCvtL16F32 e d a s
  | .cvtF32L16 e d a => Sys2Proof.Machine.execCvtF32L16 e d a s
  | .cvtL8F32 e d a => Sys2Proof.Machine.execCvtL8F32 e d a s
  | .cvtF32L8 e d a => Sys2Proof.Machine.execCvtF32L8 e d a s
  | .cvtZ8Tn5lo e d a => Sys2Proof.Machine.execCvtZ8Tn5lo e d a s
  | .cvtZ8Tn5hi e d a => Sys2Proof.Machine.execCvtZ8Tn5hi e d a s
  | .cvtTn5Z8 e d a => Sys2Proof.Machine.execCvtTn5Z8 e d a s
  | .qntMxp f d a => Sys2Proof.Machine.execQntMxp f d a s
  | .qntMxu f d a => Sys2Proof.Machine.execQntMxu f d a s
  | .qntAqp f d a => Sys2Proof.Machine.execQntAqp f d a s
  | .qntAqu f d a => Sys2Proof.Machine.execQntAqu f d a s
  | .ld e d r w j => Sys2Proof.Machine.execLd e d r w j s
  | .st e d r w j => Sys2Proof.Machine.execSt e d r w j s
  | .lda e d r t j => Sys2Proof.Machine.execLda e d r t j s
  | .amoNAdd d r w j => Sys2Proof.Machine.execAmoNAdd d r w j s
  | .amoNMin d r w j => Sys2Proof.Machine.execAmoNMin d r w j s
  | .amoNMax d r w j => Sys2Proof.Machine.execAmoNMax d r w j s
  | .amoNAnd d r w j => Sys2Proof.Machine.execAmoNAnd d r w j s
  | .amoNOr d r w j => Sys2Proof.Machine.execAmoNOr d r w j s
  | .amoNXor d r w j => Sys2Proof.Machine.execAmoNXor d r w j s
  | .amoNXchg d r w j => Sys2Proof.Machine.execAmoNXchg d r w j s
  | .amoNCas d r w j => Sys2Proof.Machine.execAmoNCas d r w j s
  | .amoFAdd d r w j => Sys2Proof.Machine.execAmoFAdd d r w j s
  | .amoFMin d r w j => Sys2Proof.Machine.execAmoFMin d r w j s
  | .amoFMax d r w j => Sys2Proof.Machine.execAmoFMax d r w j s
  | .amoFAnd d r w j => Sys2Proof.Machine.execAmoFAnd d r w j s
  | .amoFOr d r w j => Sys2Proof.Machine.execAmoFOr d r w j s
  | .amoFXor d r w j => Sys2Proof.Machine.execAmoFXor d r w j s
  | .amoFXchg d r w j => Sys2Proof.Machine.execAmoFXchg d r w j s
  | .amoFCas d r w j => Sys2Proof.Machine.execAmoFCas d r w j s
  | .amoCAdd d r w j => Sys2Proof.Machine.execAmoCAdd d r w j s
  | .amoCMin d r w j => Sys2Proof.Machine.execAmoCMin d r w j s
  | .amoCMax d r w j => Sys2Proof.Machine.execAmoCMax d r w j s
  | .amoCAnd d r w j => Sys2Proof.Machine.execAmoCAnd d r w j s
  | .amoCOr d r w j => Sys2Proof.Machine.execAmoCOr d r w j s
  | .amoCXor d r w j => Sys2Proof.Machine.execAmoCXor d r w j s
  | .amoCXchg d r w j => Sys2Proof.Machine.execAmoCXchg d r w j s
  | .amoCCas d r w j => Sys2Proof.Machine.execAmoCCas d r w j s
  | .amoRAdd d r j => Sys2Proof.Machine.execAmoRAdd d r j s
  | .bredAdd d r w j => Sys2Proof.Machine.execBredAdd d r w j s
  | .bredMin d r w j => Sys2Proof.Machine.execBredMin d r w j s
  | .bredMax d r w j => Sys2Proof.Machine.execBredMax d r w j s
  | .bredAnd d r w j => Sys2Proof.Machine.execBredAnd d r w j s
  | .bredOr d r w j => Sys2Proof.Machine.execBredOr d r w j s
  | .bredXor d r w j => Sys2Proof.Machine.execBredXor d r w j s
  | .memcFence => Sys2Proof.Machine.execMemcFence s
  | .memcFenceLd => Sys2Proof.Machine.execMemcFenceLd s
  | .memcFenceSt => Sys2Proof.Machine.execMemcFenceSt s
  | .memcPf d r => Sys2Proof.Machine.execMemcPf d r s
  | .memcPfl1 d r => Sys2Proof.Machine.execMemcPfl1 d r s
  | .memcWbl d r => Sys2Proof.Machine.execMemcWbl d r s
  | .memcInvl d r => Sys2Proof.Machine.execMemcInvl d r s
  | .memcWbL1 => Sys2Proof.Machine.execMemcWbL1 s
  | .memcInvL1 => Sys2Proof.Machine.execMemcInvL1 s
  | .xlnBallot d a => Sys2Proof.Machine.execXlnBallot d a s
  | .xlnAll d a => Sys2Proof.Machine.execXlnAll d a s
  | .xlnAny d a => Sys2Proof.Machine.execXlnAny d a s
  | .xlnCount d a => Sys2Proof.Machine.execXlnCount d a s
  | .xlnMatch e d a => Sys2Proof.Machine.execXlnMatch e d a s
  | .xlnRadd e d a => Sys2Proof.Machine.execXlnRadd e d a s
  | .xlnRminZ e d a => Sys2Proof.Machine.execXlnRminZ e d a s
  | .xlnRmaxZ e d a => Sys2Proof.Machine.execXlnRmaxZ e d a s
  | .xlnRminN e d a => Sys2Proof.Machine.execXlnRminN e d a s
  | .xlnRmaxN e d a => Sys2Proof.Machine.execXlnRmaxN e d a s
  | .xlnRand e d a => Sys2Proof.Machine.execXlnRand e d a s
  | .xlnRor e d a => Sys2Proof.Machine.execXlnRor e d a s
  | .xlnRxor e d a => Sys2Proof.Machine.execXlnRxor e d a s
  | .xlnRfadd e d a => Sys2Proof.Machine.execXlnRfadd e d a s
  | .xlnRfmin e d a => Sys2Proof.Machine.execXlnRfmin e d a s
  | .xlnRfmax e d a => Sys2Proof.Machine.execXlnRfmax e d a s
  | .xlnIscanAdd e d a => Sys2Proof.Machine.execXlnIscanAdd e d a s
  | .xlnXscanAdd e d a => Sys2Proof.Machine.execXlnXscanAdd e d a s
  | .xlnIscanFadd e d a => Sys2Proof.Machine.execXlnIscanFadd e d a s
  | .xlnXscanFadd e d a => Sys2Proof.Machine.execXlnXscanFadd e d a s
  | .xlnIscanMinZ e d a => Sys2Proof.Machine.execXlnIscanMinZ e d a s
  | .xlnIscanMaxZ e d a => Sys2Proof.Machine.execXlnIscanMaxZ e d a s
  | .xlnIscanOr e d a => Sys2Proof.Machine.execXlnIscanOr e d a s
  | .shfl e d a b => Sys2Proof.Machine.execShfl e d a b s
  | .xbar e d a n => Sys2Proof.Machine.execXbar e d a n s
  | .mma t c a b => Sys2Proof.Machine.execMma t c a b s
  | .mmaZ t c a b => Sys2Proof.Machine.execMmaZ t c a b s
  | .maccZero t => Sys2Proof.Machine.execMaccZero t s
  | .maccRd e d w t => Sys2Proof.Machine.execMaccRd e d w t s
  | .maccWr e d w t => Sys2Proof.Machine.execMaccWr e d w t s
  | .maccDrs k d t => Sys2Proof.Machine.execMaccDrs k d t s
  | .maccDrm k d r t => Sys2Proof.Machine.execMaccDrm k d r t s
  | .maccDrsZ k d t => Sys2Proof.Machine.execMaccDrsZ k d t s
  | .maccDrmZ k d r t => Sys2Proof.Machine.execMaccDrmZ k d r t s
  | .movi e d m => Sys2Proof.Machine.execMovi e d m s
  | .plyPut e x a => Sys2Proof.Machine.execPlyPut e x a s
  | .plyGet e d k x => Sys2Proof.Machine.execPlyGet e d k x s
  | .plyBrx o => Sys2Proof.Machine.execPlyBrx o s
  | .br p x r o => Sys2Proof.Machine.execBr p x r o s
  | .call o => Sys2Proof.Machine.execCall o s
  | .ret => Sys2Proof.Machine.execRet s
  | .bri a => Sys2Proof.Machine.execBri a s
  | .exit => Sys2Proof.Machine.execExit s
  | .rcv => Sys2Proof.Machine.execRcv s
  | .barTeam n => Sys2Proof.Machine.execBarTeam n s
  | .barClu n => Sys2Proof.Machine.execBarClu n s
  | .yield => Sys2Proof.Machine.execYield s
  | .trapc p x m => Sys2Proof.Machine.execTrapc p x m s
  | .loopr c x o => Sys2Proof.Machine.execLoopr c x o s
  | .uadd d a b => Sys2Proof.Machine.execUadd d a b s
  | .uaddSatz d a b => Sys2Proof.Machine.execUaddSatz d a b s
  | .uaddSatn d a b => Sys2Proof.Machine.execUaddSatn d a b s
  | .usub d a b => Sys2Proof.Machine.execUsub d a b s
  | .usubSatz d a b => Sys2Proof.Machine.execUsubSatz d a b s
  | .usubSatn d a b => Sys2Proof.Machine.execUsubSatn d a b s
  | .umul d a b => Sys2Proof.Machine.execUmul d a b s
  | .umulhZ d a b => Sys2Proof.Machine.execUmulhZ d a b s
  | .umulhN d a b => Sys2Proof.Machine.execUmulhN d a b s
  | .uand d a b => Sys2Proof.Machine.execUand d a b s
  | .uor d a b => Sys2Proof.Machine.execUor d a b s
  | .uxor d a b => Sys2Proof.Machine.execUxor d a b s
  | .ushl d a b => Sys2Proof.Machine.execUshl d a b s
  | .ushrN d a b => Sys2Proof.Machine.execUshrN d a b s
  | .ushrZ d a b => Sys2Proof.Machine.execUshrZ d a b s
  | .uminZ d a b => Sys2Proof.Machine.execUminZ d a b s
  | .umaxZ d a b => Sys2Proof.Machine.execUmaxZ d a b s
  | .uminN d a b => Sys2Proof.Machine.execUminN d a b s
  | .umaxN d a b => Sys2Proof.Machine.execUmaxN d a b s
  | .ufmin d a b => Sys2Proof.Machine.execUfmin d a b s
  | .ufmax d a b => Sys2Proof.Machine.execUfmax d a b s
  | .ucmp d a c b => Sys2Proof.Machine.execUcmp d a c b s
  | .umovhi d m => Sys2Proof.Machine.execUmovhi d m s
  | .umovlo d m => Sys2Proof.Machine.execUmovlo d m s
  | .bra o => Sys2Proof.Machine.execBra o s
  | .braZ c o => Sys2Proof.Machine.execBraZ c o s
  | .braNz c o => Sys2Proof.Machine.execBraNz c o s
  | .uld d a r => Sys2Proof.Machine.execUld d a r s
  | .uldZ8 d a r => Sys2Proof.Machine.execUldZ8 d a r s
  | .uldN8 d a r => Sys2Proof.Machine.execUldN8 d a r s
  | .uldZ16 d a r => Sys2Proof.Machine.execUldZ16 d a r s
  | .uldN16 d a r => Sys2Proof.Machine.execUldN16 d a r s
  | .uld64 d a r => Sys2Proof.Machine.execUld64 d a r s
  | .uld128 d a r => Sys2Proof.Machine.execUld128 d a r s
  | .ust d a r => Sys2Proof.Machine.execUst d a r s
  | .ust8 d a r => Sys2Proof.Machine.execUst8 d a r s
  | .ust16 d a r => Sys2Proof.Machine.execUst16 d a r s
  | .ust64 d a r => Sys2Proof.Machine.execUst64 d a r s
  | .ust128 d a r => Sys2Proof.Machine.execUst128 d a r s
  | .sread d a => Sys2Proof.Machine.execSread d a s
  | .sreadV d a => Sys2Proof.Machine.execSreadV d a s
  | .sreadClr d a b => Sys2Proof.Machine.execSreadClr d a b s
  | .sreadXchg d a b => Sys2Proof.Machine.execSreadXchg d a b s
  | .swrite d a => Sys2Proof.Machine.execSwrite d a s
  | .segld n a => Sys2Proof.Machine.execSegld n a s
  | .segrd d n => Sys2Proof.Machine.execSegrd d n s
  | .recld r a => Sys2Proof.Machine.execRecld r a s
  | .recrd d r => Sys2Proof.Machine.execRecrd d r s
  | .recsetBase r a b => Sys2Proof.Machine.execRecsetBase r a b s
  | .recsetExt r b => Sys2Proof.Machine.execRecsetExt r b s
  | .recsetStride r b => Sys2Proof.Machine.execRecsetStride r b s
  | .recsetSwz r b => Sys2Proof.Machine.execRecsetSwz r b s
  | .recsetTag r b => Sys2Proof.Machine.execRecsetTag r b s
  | .recsetFlags r b => Sys2Proof.Machine.execRecsetFlags r b s
  | .recsetAdv r b => Sys2Proof.Machine.execRecsetAdv r b s
  | .recsetFmt r b => Sys2Proof.Machine.execRecsetFmt r b s
  | .acq => Sys2Proof.Machine.execAcq s
  | .acqTry d => Sys2Proof.Machine.execAcqTry d s
  | .acqRel => Sys2Proof.Machine.execAcqRel s
  | .cvset n a => Sys2Proof.Machine.execCvset n a s
  | .cvsetAll n => Sys2Proof.Machine.execCvsetAll n s
  | .cvrd d n => Sys2Proof.Machine.execCvrd d n s
  | .mcfg a => Sys2Proof.Machine.execMcfg a s
  | .mcfgRd d => Sys2Proof.Machine.execMcfgRd d s
  | .hwaitFull d n => Sys2Proof.Machine.execHwaitFull d n s
  | .hwaitFree d n => Sys2Proof.Machine.execHwaitFree d n s
  | .hrel n => Sys2Proof.Machine.execHrel n s
  | .hcommit n => Sys2Proof.Machine.execHcommit n s
  | .hqry d n => Sys2Proof.Machine.execHqry d n s
  | .hqryBase d n => Sys2Proof.Machine.execHqryBase d n s
  | .hqryTile d n => Sys2Proof.Machine.execHqryTile d n s
  | .hqryScr d => Sys2Proof.Machine.execHqryScr d s
  | .hqryCore d => Sys2Proof.Machine.execHqryCore d s
  | .mvx d a => Sys2Proof.Machine.execMvx d a s
  | .mvxC d a => Sys2Proof.Machine.execMvxC d a s
  | .mvxB d a => Sys2Proof.Machine.execMvxB d a s
  | .plycOpen r => Sys2Proof.Machine.execPlycOpen r s
  | .plycOpenDrop r => Sys2Proof.Machine.execPlycOpenDrop r s
  | .plycClose => Sys2Proof.Machine.execPlycClose s
  | .plycRev => Sys2Proof.Machine.execPlycRev s
  | .plycMark d => Sys2Proof.Machine.execPlycMark d s
  | .plycStat d => Sys2Proof.Machine.execPlycStat d s
  | .xpld n a r => Sys2Proof.Machine.execXpld n a r s
  | .tsyncAll => Sys2Proof.Machine.execTsyncAll s
  | .tsyncPoll d a => Sys2Proof.Machine.execTsyncPoll d a s
  | .tsyncCount d => Sys2Proof.Machine.execTsyncCount d s
  | .tsyncPips d => Sys2Proof.Machine.execTsyncPips d s
  | .resv d a r => Sys2Proof.Machine.execResv d a r s
  | .launch d a => Sys2Proof.Machine.execLaunch d a s
  | .tktWait d => Sys2Proof.Machine.execTktWait d s
  | .tktPost => Sys2Proof.Machine.execTktPost s
  | .trapImm n => Sys2Proof.Machine.execTrapImm n s
  | .trapReg b => Sys2Proof.Machine.execTrapReg b s
  | .eret => Sys2Proof.Machine.execEret s
  | .eretStep => Sys2Proof.Machine.execEretStep s
  | .eretKill => Sys2Proof.Machine.execEretKill s
  | .eretOut => Sys2Proof.Machine.execEretOut s
  | .ctxRd d a b => Sys2Proof.Machine.execCtxRd d a b s
  | .ctxRdv d a => Sys2Proof.Machine.execCtxRdv d a s
  | .ctxWr d a b => Sys2Proof.Machine.execCtxWr d a b s
  | .ctxWrv d a => Sys2Proof.Machine.execCtxWrv d a s
  | .ctxSave r => Sys2Proof.Machine.execCtxSave r s
  | .ctxRest r => Sys2Proof.Machine.execCtxRest r s
  | .pickerFormBundle core share => Sys2Proof.Machine.execPickerFormBundle core share s
  | .swapOut core slot => Sys2Proof.Machine.execSwapOut core slot s
  | .groupStarved core slot => Sys2Proof.Machine.execGroupStarved core slot s
  | .starvedSwapIn core slot => Sys2Proof.Machine.execStarvedSwapIn core slot s
  | .yieldExpiry core slot lane => Sys2Proof.Machine.execYieldExpiry core slot lane s
  | .pipOperationComplete op => Sys2Proof.Machine.execPipOperationComplete op s
  | .groupRetire core slot => Sys2Proof.Machine.execGroupRetire core slot s
  | .acqGrant quad => Sys2Proof.Machine.execAcqGrant quad s
  | .l1DirtyWriteback core line => Sys2Proof.Machine.execL1DirtyWriteback core line s
  | .faultAnswerResume ctx entry => Sys2Proof.Machine.execFaultAnswerResume ctx entry s
  | .faultAnswerFail ctx entry => Sys2Proof.Machine.execFaultAnswerFail ctx entry s
  | .uldDataReturn op => Sys2Proof.Machine.execUldDataReturn op s
  | .xpldDataReturn op => Sys2Proof.Machine.execXpldDataReturn op s
  | .atomicElementPerformed op index => Sys2Proof.Machine.execAtomicElementPerformed op index s
  | .atomicPoisonReport op index => Sys2Proof.Machine.execAtomicPoisonReport op index s
  | .bredUpdate op index => Sys2Proof.Machine.execBredUpdate op index s
  | .barrierTimeout core slot clu bar => Sys2Proof.Machine.execBarrierTimeout core slot clu bar s
  | .streamFillStart core slot handle => Sys2Proof.Machine.execStreamFillStart core slot handle s
  | .streamFillComplete core slot handle => Sys2Proof.Machine.execStreamFillComplete core slot handle s
  | .outputDrainComplete core slot handle => Sys2Proof.Machine.execOutputDrainComplete core slot handle s
  | .reservationPost core slot cv => Sys2Proof.Machine.execReservationPost core slot cv s
  | .quorumTimeout core slot cv => Sys2Proof.Machine.execQuorumTimeout core slot cv s
  | .passStart quad entry => Sys2Proof.Machine.execPassStart quad entry s
  | .passComplete quad entry => Sys2Proof.Machine.execPassComplete quad entry s
  | .matrixDrainStart quad entry => Sys2Proof.Machine.execMatrixDrainStart quad entry s
  | .matrixDrainComplete quad entry => Sys2Proof.Machine.execMatrixDrainComplete quad entry s
  | .mvxEntryPost op => Sys2Proof.Machine.execMvxEntryPost op s
  | .mvxComplete op => Sys2Proof.Machine.execMvxComplete op s
  | .plyGetComplete op => Sys2Proof.Machine.execPlyGetComplete op s
  | .ldaComplete op => Sys2Proof.Machine.execLdaComplete op s
  | .launchAccept op => Sys2Proof.Machine.execLaunchAccept op s
  | .clusterDispatch queue chiplet x y => Sys2Proof.Machine.execClusterDispatch queue chiplet x y s
  | .spillWaitExpiry queue => Sys2Proof.Machine.execSpillWaitExpiry queue s
  | .launchComplete launch => Sys2Proof.Machine.execLaunchComplete launch s
  | .ticketAutoPost launch team => Sys2Proof.Machine.execTicketAutoPost launch team s
  | .trapDelivery core slot => Sys2Proof.Machine.execTrapDelivery core slot s
  | .watchdogExpiry core slot => Sys2Proof.Machine.execWatchdogExpiry core slot s
  | .preemptionRequest core slot => Sys2Proof.Machine.execPreemptionRequest core slot s
  | .contextRestore core image => Sys2Proof.Machine.execContextRestore core image s
  | .invalidationRequest req => Sys2Proof.Machine.execInvalidationRequest req s
  | .invalidationComplete => Sys2Proof.Machine.execInvalidationComplete s
  | .regionSwitch => Sys2Proof.Machine.execRegionSwitch s
  | .regionSwitchComplete => Sys2Proof.Machine.execRegionSwitchComplete s
  | .mscBlockWriteback block => Sys2Proof.Machine.execMscBlockWriteback block s
  | .uncorrectableEccError place => Sys2Proof.Machine.execUncorrectableEccError place s
  | .sqtailDoorbell vf value => Sys2Proof.Machine.execSqtailDoorbell vf value s
  | .cqheadDoorbell vf value => Sys2Proof.Machine.execCqheadDoorbell vf value s
  | .submissionEntry vf => Sys2Proof.Machine.execSubmissionEntry vf s
  | .functionLevelReset vf => Sys2Proof.Machine.execFunctionLevelReset vf s
  | .powerUpReset => Sys2Proof.Machine.execPowerUpReset s
  | .powerDown => Sys2Proof.Machine.execPowerDown s
  | .linkIntegrityFailure link => Sys2Proof.Machine.execLinkIntegrityFailure link s
  | .peerLinkFailure link => Sys2Proof.Machine.execPeerLinkFailure link s
  | .peerRequest peer addr w => Sys2Proof.Machine.execPeerRequest peer addr w s
  | .hostCxlMemAccess addr w => Sys2Proof.Machine.execHostCxlMemAccess addr w s
  | .hostSnoop addr => Sys2Proof.Machine.execHostSnoop addr s
  | .hostCxlioPostedWrite addr data => Sys2Proof.Machine.execHostCxlioPostedWrite addr data s
  | .hostCxlioRead addr len => Sys2Proof.Machine.execHostCxlioRead addr len s
  | .thermalThrottle die mhz => Sys2Proof.Machine.execThermalThrottle die mhz s
  | .thermalIssueStop die => Sys2Proof.Machine.execThermalIssueStop die s
  | .thermalIssueResume die => Sys2Proof.Machine.execThermalIssueResume die s
  | .thermalPowerOff die => Sys2Proof.Machine.execThermalPowerOff die s
  | .unitRetire unit index => Sys2Proof.Machine.execUnitRetire unit index s
  | .keySlotInstall slot key => Sys2Proof.Machine.execKeySlotInstall slot key s
  | .healthRead offset => Sys2Proof.Machine.execHealthRead offset s
  | .registerWrite reg index value => Sys2Proof.Machine.execRegisterWrite reg index value s
  | .hostTranslationRequest ctx page w => Sys2Proof.Machine.execHostTranslationRequest ctx page w s
  | .activationRequest image => Sys2Proof.Machine.execActivationRequest image s
  | .linkRetrainComplete link => Sys2Proof.Machine.execLinkRetrainComplete link s
  | .linkKeyEstablishment link => Sys2Proof.Machine.execLinkKeyEstablishment link s

end Sys2Proof.Machine
end

