-- ==== Sys2Proof/Machine/Agenda.lean ====
section
/-! DEFINITION. Which step comes next (log 1), the issue of a bundle's next word, and a program placed for its first step (log 5). -/

namespace Sys2Proof.Machine

/-- The bundle of a position comes first. -/
def State.focus (s : State) (n : Nat) : State :=
  match s.bundles[n]? with
  | some b => { s with bundles := b :: s.bundles.eraseIdx n }
  | none => s

/-- R43, R52: the first bundle issues its next word: the word is decoded and executed. -/
noncomputable def State.issueNext (s : State) : Host.Outcome State Fault Refusal :=
  match s.bundles with
  | [] => .next s
  | b :: _ =>
    match decode b.current.toNat with
    | .ok i => exec i s
    | .error _ => issueIllegal s

/-- R214, R222: the element of a load that a result belongs to has taken effect. -/
def State.landed (s : State) (op : Nat) (w : LaneWrite) : State :=
  { s with rereads := s.rereads.map fun r => if r.op = op ∧ hasBit r.lanes w.lane ∧ w.row ∈ r.rows then { r with rows := [] } else r }

/-- R100, R132: results of one operation land in any order: one of those that a pip or a token guards lands before the rest. -/
def State.landOne (s : State) (op n : Nat) : State :=
  match s.op? op with
  | none => s
  | some o =>
    let put := fun (ws : List LaneWrite) (work : List LaneWrite → Work) => match ws[n]? with
      | none => s
      | some w => ((s.landed op w).landFor o fun now g => g.land o now [w]).modOp op fun o : Op => { o with work := work (ws.eraseIdx n) }
    match o.work with
    | .pip p ws cvx bad oob => put ws fun ws => .pip p ws cvx bad oob
    | .lda t ws waits oob fault poison => put ws fun ws => .lda t ws waits oob fault poison
    | .plyGet t ws count fault poison => put ws fun ws => .plyGet t ws count fault poison
    | _ => s

/-! ### Which bundle issues (R95, R107) -/

/-- R95: the priority of a bundle: the highest among its groups. -/
def State.bundlePriority (s : State) (b : Bundle) : Nat := (b.members.map fun m => s.priority b.core m.slot).foldl max 0

/-- R95: of two open bundles, by position, the one that issues: the one of higher priority, then the one formed earlier. -/
def State.firstOf (s : State) (best : Option Nat) (n : Nat) : Option Nat :=
  match best, s.bundles[n]? with
  | some j, some b => match s.bundles[j]? with
    | some x => if s.bundlePriority x < s.bundlePriority b ∨ (s.bundlePriority x = s.bundlePriority b ∧ b.born < x.born) then some n else some j
    | none => some n
  | none, some _ => some n
  | best, none => best

/-- R95: the bundle whose word the pipe takes for which the next word of the bundle at a position is: one of that core and pipe whose next
word can issue. -/
def State.selected (s : State) (n : Nat) : Option Nat :=
  match s.bundles[n]? with
  | none => none
  | some b => ((List.range s.bundles.length).filter fun j => match s.bundles[j]? with
      | some x => decide (x.core = b.core) && x.current.msb == b.current.msb && s.canIssue x
      | none => false).foldl s.firstOf none

/-! ### Events -/

/-- The cycles that may pass on a core before a ready group of it counts as STARVED (R107), at most `n`. -/
def State.slack (s : State) (c : CoreId) (n : Nat) : Nat :=
  (List.finRange 32).foldl (fun n k => match s.group? c k with
    | some g => if s.groupReady g && decide (((s.cores[c]).sched[k]).starve < 1536) then min n (1536 - ((s.cores[c]).sched[k]).starve) else n
    | none => n) n

/-- Cycles pass on a core without a word; L1 lines that have been dirty for long enough are written back first (R223). -/
def State.wait (s : State) (c : CoreId) (n : Nat) : State :=
  let n := s.slack c n
  (s.expireL1 c n).elapse c n

/-- R223: a write becomes visible to every acquire load and atomic whose instance holds its writer. -/
def State.spreadAt (s : State) (n : Nat) : State :=
  { s with hist := s.hist.zipIdx.map fun v => if v.2 = n then { v.1 with spread := true } else v.1 }

/-- R427: a unit wears. -/
def State.wears (s : State) (unit : Fin 488) (w : Wear) : State :=
  let x := s.board.wear[unit]
  { s with board := { s.board with wear := s.board.wear.set unit ⟨x.drift + w.drift, x.stress + w.stress, x.ecc + w.ecc⟩ } }

/-- R96: the word of the open bundle of a position, which waits, asks for what it waits for. -/
def State.attempt (s : State) (n : Nat) : State :=
  match s.bundles[n]? with
  | some b => if s.stalls b b.nextInfo then s else (s.ownWait b).1
  | none => s

/-- What an event of the agenda does. A word executes only where a bundle issues it. -/
noncomputable def State.act (s : State) : Event → Host.Outcome State Fault Refusal
  | .row i => if (encode i).isSome then .next s else exec i s
  | .issue n => (s.focus ((s.selected n).getD n)).issueNext
  | .land op n => .next (s.landOne op n)
  | .tick c n => .next (s.wait c n)
  | .evict c line => .next (s.dropL1 c fun pa => pa / 128 == line)
  | .forget c n => .next (s.modCore c fun x => { x with tlb := x.tlb.eraseIdx n })
  | .forgetWalk n => .next { s with board := { s.board with walks := s.board.walks.eraseIdx n } }
  | .hostAck => .next { s with board := { s.board with hostAck := s.board.invalidating } }
  | .spread n => .next (s.spreadAt n)
  | .evictL2 d line => .next (s.l2Drop d line)
  | .evictHub line => .next (s.hubDrop line)
  | .wear unit w => .next (s.wears unit w)
  | .reread n => .next (s.rereadAt n)
  | .attempt n => .next (s.attempt n)
  | .poll c k => .next (s.ticketPoll c k)
  | .transfer c k h n => .next (s.transferPart c k h n)
  | .chunk op row => .next (s.chunk op row)

/-! ### The order that is taken where the agenda is empty (log 1) -/

/-- The steps by which operations in flight go on. -/
noncomputable def Op.events (o : Op) : List Instr :=
  match o.work with
  | .pip _ _ _ _ _ => [.pipOperationComplete o.id]
  | .uld _ _ _ => [.uldDataReturn o.id]
  | .xpld _ _ _ _ => [.xpldDataReturn o.id]
  | .atomic _ _ _ => [.atomicElementPerformed o.id 0]
  | .report _ => [.atomicPoisonReport o.id 0]
  | .bred _ _ _ => [.bredUpdate o.id 0]
  | .lda _ _ _ _ _ _ => [.ldaComplete o.id]
  | .plyGet _ _ _ _ _ => [.plyGetComplete o.id]
  | .drain _ _ _ _ _ _ _ _ _ _ _ _ _ _ => [.matrixDrainComplete (quadOf o.core) o.id]
  | .mvx _ => [.mvxEntryPost o.id, .mvxComplete o.id]
  | .launch _ _ => [.launchAccept o.id]

/-- The steps by which a quad goes on. -/
noncomputable def State.quadEvents (s : State) (q : QuadId) : List Instr :=
  (if (s.quads[q]).acq.isEmpty then [] else [.acqGrant q]) ++
  (s.quads[q]).entries.flatMap fun e => [.passStart q e.id, .passComplete q e.id, .matrixDrainStart q e.id]

/-- The steps by which a resident group goes on. -/
noncomputable def groupEvents (c : CoreId) (k : Slot) (g : Group) : List Instr :=
  [.groupRetire c k, .trapDelivery c k] ++ (List.finRange 8).map (fun n => .reservationPost c k n)
  ++ (if g.gid = 0 then (List.finRange 32).flatMap (fun h => [.streamFillStart c k h, .streamFillComplete c k h, .outputDrainComplete c k h]) else [])
  ++ (List.finRange 32).map (fun l => .yieldExpiry c k l)
  ++ (List.finRange 8).map (fun n => .quorumTimeout c k n)
  ++ (List.finRange 16).flatMap (fun n => [.barrierTimeout c k false n, .barrierTimeout c k true n])
  ++ [.watchdogExpiry c k, .groupStarved c k, .starvedSwapIn c k, .swapOut c k]

/-- The steps of launches, of the Board and of the host interface. -/
noncomputable def State.boardEvents (s : State) : List Instr :=
  s.launches.flatMap (fun l => l.posts.map (fun p => .ticketAutoPost l.id p.1) ++ [.launchComplete l.id])
  ++ (if s.board.queues.all (·.isEmpty) then [] else (List.finRange 64).flatMap fun q => if (s.board.queues[q]).isEmpty then []
      else (List.finRange 8).flatMap fun d => (List.finRange 6).flatMap fun x => (List.finRange 8).map fun y => .clusterDispatch q d x y)
  ++ (List.finRange 8).map (fun v => .submissionEntry v)
  ++ (if s.board.invalidating then [.invalidationComplete] else []) ++ (if s.board.busy then [.regionSwitchComplete] else [])

/-- Every step that something in the device waits for. -/
noncomputable def State.pending (s : State) : List Instr :=
  s.ops.flatMap Op.events
  ++ (if s.teams.isEmpty then [] else (List.finRange 96).flatMap s.quadEvents
      ++ s.teams.flatMap fun t => (s.teamGroups t).flatMap fun p => groupEvents t.core p.1 p.2)
  ++ s.boardEvents

/-- The state without what a step that only looks leaves behind: numbers, reads and cached lines and translations. -/
def State.gist (s : State) : State :=
  { s with
    nextId := 0, fresh := 0, reads := [], msc := [], l2 := Vector.replicate 8 [], hub := []
    cores := s.cores.map fun x : Core => { x with tlb := [] }
    board := { s.board with walks := [], tlb := Vector.replicate 8 [] } }

/-- A step by which something gets on. -/
def movesFrom (o : Host.Outcome State Fault Refusal) (s : State) : Bool :=
  match o with
  | .next t => t.gist != s.gist
  | _ => false

/-- R395: the turn of threads of a group that wait in TKT has come. -/
def State.pollMoves (s : State) (c : CoreId) (k : Slot) : Bool :=
  match s.group? c k, (s.ticketPoll c k).group? c k with
  | some g, some h => (List.finRange 32).any fun l : Lane =>
      let t := g.threads[l]
      let u := h.threads[l]
      t.run != u.run || t.estate != u.estate || t.trap != u.trap
  | _, _ => false

/-- The slots of the resident groups. -/
def State.residents (s : State) : List (CoreId × Slot) := s.teams.flatMap fun t => (s.teamGroups t).map fun p => (t.core, p.1)

/-- The open bundle whose core has counted the fewest cycles, among those that can issue. -/
def State.firstBundle (s : State) : Option Nat :=
  (s.bundles.zipIdx.filter fun b => s.canIssue b.1).foldl (fun (best : Option Nat) b => match best with
    | none => some b.2
    | some j => match s.bundles[j]? with
      | some x => if (s.cores[b.1.core]).cycles < (s.cores[x.core]).cycles then some b.2 else best
      | none => best) none

/-- The cores on which teams are resident. -/
def State.busyCores (s : State) : List CoreId := (s.teams.map Team.core).eraseDups

/-- The step taken where the agenda is empty: a write becomes visible, or the host acknowledges an invalidation; then one that something waits
for, then a bundle, a request of a word that waits, a ticket, a new bundle, then time. -/
noncomputable def State.choose (s : State) : Event :=
  match s.hist.findIdx? fun v => !v.spread with
  | some n => .spread n
  | none =>
    if s.board.invalidating && s.board.inval.getLsbD 120 && !s.board.hostAck then .hostAck
    else match s.pending.find? fun i => movesFrom (exec i s) s with
      | some i => .row i
      | none => match s.firstBundle with
        | some n => .issue n
        | none => match (List.range s.bundles.length).find? fun n => movesFrom (.next (s.attempt n)) s with
          | some n => .attempt n
          | none => match s.residents.find? fun p => s.pollMoves p.1 p.2 with
            | some p => .poll p.1 p.2
            | none => match s.busyCores.find? fun c => movesFrom (exec (.pickerFormBundle c 0xFFFFFFFF) s) s with
              | some c => .row (.pickerFormBundle c 0xFFFFFFFF)
              | none => .tick (s.busyCores.headD 0) 1

/-! ### What must come first (R107, R110, R371) -/

/-- R107, R110: what a core has to do for a group that is ready and has issued no word for 1,536 cycles, before time passes on it: mark the
group, bring it into the active set, or issue a word of it or open its bundle. -/
noncomputable def State.dueOn (s : State) (c : CoreId) : Option Event :=
  let x := s.cores[c]
  let test := fun (k : Slot) (f : Group → Bool) => match s.group? c k with | some g => s.groupReady g && f g | none => false
  let hungry := (List.finRange 32).filter fun k : Slot => decide (1536 ≤ (x.sched[k]).starve) && test k fun _ => true
  if x.stopped || hungry.isEmpty then none
  else match hungry.find? fun k => !(x.sched[k]).starved with
    | some k => some (.row (.groupStarved c k))
    | none => match (if (s.activeSlots c).length < 8 ∨ (s.displaced c).isSome then hungry.find? fun k => test k fun g => g.st == .pending else none) with
      | some k => some (.row (.starvedSwapIn c k))
      | none => match (List.range s.bundles.length).find? fun n => match s.bundles[n]? with
          | some b => decide (b.core = c) && (b.members.any fun m => hungry.contains m.slot) && s.canIssue b
          | none => false with
        | some n => some (.issue n)
        | none => match s.lead c with
          | some (k, _) => if hungry.contains k then some (.row (.pickerFormBundle c 0xFFFFFFFF)) else none
          | none => none

/-- R371: the steps that make requests to memory. -/
def requests : Instr → Bool
  | .pickerFormBundle _ _ | .l1DirtyWriteback _ _ | .streamFillComplete _ _ _ | .outputDrainComplete _ _ _ | .passComplete _ _
  | .matrixDrainComplete _ _ | .mvxComplete _ | .ldaComplete _ | .launchAccept _ | .clusterDispatch _ _ _ _ | .launchComplete _
  | .ticketAutoPost _ _ | .submissionEntry _ | .peerRequest _ _ _ | .hostCxlMemAccess _ _ | .hostSnoop _ | .hostCxlioPostedWrite _ _
  | .hostCxlioRead _ _ | .hostTranslationRequest _ _ _ => true
  | _ => false

/-- R371: the same of an event. -/
def Event.requests : Event → Bool
  | .row i => Machine.requests i
  | .evict _ _ | .evictL2 _ _ | .evictHub _ | .attempt _ | .poll _ _ | .transfer _ _ _ _ | .chunk _ _ => true
  | _ => false

/-- R313: a row in progress of a call on the bank path. -/
def State.bankRow (s : State) : Option (Nat × Nat) :=
  s.ops.findSome? fun o => match o.work with
    | .mvx x => if x.bank && x.wait.isNone && x.fault.isNone && !s.engineHeld o.core o.slot then x.partials.head?.map fun r => (o.id, r.1) else none
    | _ => none

/-- R313, R371: while a switch is in progress, its next step: a request that was admitted before, a row in progress, or its end. -/
noncomputable def State.switchStep (s : State) : Event :=
  match s.bankRow with
  | some r => .chunk r.1 r.2
  | none => .row ((if s.switchPending then (s.ops.flatMap Op.events).find? fun i => !Machine.requests i && movesFrom (exec i s) s else none).getD .regionSwitchComplete)

/-- The event that must come before another: for a starving group where time is to pass on its core; for a switch of the region table where
memory is to be reached. -/
noncomputable def State.due (s : State) (e : Event) : Option Event :=
  match e with
  | .issue n => (s.bundles[n]?).bind fun b => s.dueOn b.core
  | .tick c _ => s.dueOn c
  | e => if s.switching && e.requests then some s.switchStep else none

/-! ### After every step (R93, R165, R167) -/

/-- R165, R167: releases and completions that have become due take place. -/
def State.tidy (s : State) : State := ((s.teams.map Team.key).foldl State.settle s).noteGo

/-- A step with what follows it. -/
def tidied (o : Host.Outcome State Fault Refusal) : Host.Outcome State Fault Refusal :=
  match o with
  | .next s => .next s.tidy
  | o => o

/-! ### A program placed for its first step (log 5) -/

/-- The kernel of a placed instruction: one group of the `any` contract. -/
def placedKernel : Kernel where
  contract := 4
  groups := 1
  shape := (1, 1, 1)
  priv := 0
  stack := 0
  k := 64
  a := 0
  c := 0
  roles := []
  records := []
  inputs := Vector.replicate 8 none
  outputs := Vector.replicate 4 none
  constBase := 0
  constSize := 0

/-- The launch of a placed clause. -/
def placedLaunch (id : Nat) (code : List Word) : Launch where
  id := id
  kernel := placedKernel
  code := code
  codeVa := 0
  teams := 1
  cw := 1
  ch := 1
  queue := 0
  det := false
  tkt := false
  part := 0
  dcores := 1
  waitoff := 0xFFFFFFFF
  waitval := 0
  doneoff := 0xFFFFFFFF
  tktoff := 0xFFFFFFFF
  seed := 0
  uinit := Vector.replicate 4 0
  args := Vector.replicate 32 0
  ctx := 0
  seg := Vector.replicate 8 0
  killed := none
  runs := []
  posts := []
  next := 1
  retired := 0
  hold := none
  lost := false
  view := .none
  did := .none

/-- The team of a placed clause, on core 0. -/
def placedTeam (key launch : Nat) : Team where
  key := key
  launch := launch
  index := 0
  cluster := 0
  rank := 0
  cores := [0]
  slots := [0]
  base := 0
  size := 0
  handles := Vector.ofFn fun n : Fin 32 => placedKernel.handleAt 0 n.val
  inNext := Vector.replicate 8 0
  outNext := Vector.replicate 4 0
  own := []
  wrote := []
  posted := false
  killed := false
  wd := 0
  bars := Vector.replicate 32 0
  wdHit := false
  out := []
  did := .none

/-- R44: the clause of one word, or of a PREFIX and the word 0 after it: pip 0 in SETA, guard q0. -/
def placedWords (w : Nat) : List Word :=
  if majorOf w = 0x3F then [BitVec.ofNat 32 w, 0] else [BitVec.ofNat 32 w]

/-- R45: its header. -/
def placedHeader (w : Nat) : Word := BitVec.ofNat 32 ((placedWords w).length - 1) <<< 27 ||| 0x780#32

/-- The group of a placed clause: 32 threads in one open bundle. -/
def placedGroup (l : Launch) (t : Team) : Group :=
  { l.freshGroup t 0 with
    st := .active
    threads := Vector.replicate 32 { Thread.fresh with run := .member, guard := true } }

/-- A launch of one team of one group stands on core 0 with its first bundle open, the only one there, whose next word is `w`, and that
bundle issues next. -/
def State.placeWord (s : State) (w : Nat) : State :=
  let l := placedLaunch s.nextId (placedHeader w :: placedWords w)
  let t := placedTeam (s.nextId + 1) s.nextId
  let s := s.modCore 0 fun x =>
    { x with slots := x.slots.set (0 : Slot) (some (placedGroup l t)), sched := x.sched.set (0 : Slot) .reset
             stopped := false, bp := Vector.replicate 4 0 }
  { s with
    launches := l :: s.launches
    teams := t :: s.teams
    nextId := s.nextId + 3
    bundles := ⟨0, 0, false, placedWords w, 0, 0, 15, true, [⟨0, 0xFFFFFFFF, 0⟩], none, false, s.nextId + 2⟩ :: s.bundles.filter fun b => b.core != 0
    board := { s.board with power := true }
    agenda := .issue 0 :: s.agenda }

end Sys2Proof.Machine
end

