-- ==== Sys2Proof/Machine/Step.lean ====
section
/-! DEFINITION. One step of the device. -/

namespace Sys2Proof.Machine

/-- A device without power does nothing but reset (R429, R430). -/
noncomputable def stepOff (s : State) : Host.Outcome State Fault Refusal :=
  match s.agenda with
  | .row .powerUpReset :: rest => exec .powerUpReset { s with agenda := rest }
  | _ => .fault .poweredOff

/-- An event takes place, unless another is due before it. -/
noncomputable def State.go (s : State) (e : Event) (rest : List Event) : Host.Outcome State Fault Refusal :=
  match s.due e with
  | some d => tidied (s.act d)
  | none => tidied (State.act { s with agenda := rest } e)

/-- One step: the next event of the agenda, or where the agenda is empty the one that `choose` gives. -/
noncomputable def step (s : State) : Host.Outcome State Fault Refusal :=
  if s.board.power then
    match s.agenda with
    | e :: rest => s.go e rest
    | [] => s.go s.choose []
  else stepOff s

/-- The state in which the next step issues the word `w`. An instruction is one word of 32 bits (R43). -/
def State.withFetchWord (s : State) (nbits w : Nat) : State := s.placeWord (w % 2 ^ nbits % 2 ^ 32)

end Sys2Proof.Machine
end

