-- ==== Sys2Proof/Safety.lean ====
section
/-! DEFINITION. What counts as a safe run, the invariants of the device, and the terms in which the claims are stated: when a word
issues with no effect but its own, and the part of the state that the bookkeeping after a word does not touch. -/

namespace Sys2Proof

open Machine

/-- No step of the first `n` stops. -/
def RunsFor (n : Nat) (s : State) : Prop := ∃ t, Host.Core.run core n s = .next t

/-- A device with power never stops of itself: only the loss of power stops it (R430). -/
def Powered (s : State) : Prop := s.board.power = true

/-- Memory is in its canonical form: addresses rising, no byte listed that an unlisted address reads as (log 2). -/
def MemoryCanonical (s : State) : Prop := Memory.wf s.mem = true

/-! ### The state without the bookkeeping that follows every word

After every word its threads move on and time passes (R95, R107). The frames below compare states with that taken out and with nothing
else taken out. -/

/-- A thread in a bundle is one that runs. -/
def stillRun : Run → Run
  | .member => .ready
  | r => r

/-- A thread without its position. -/
def stillThread (t : Thread) : Thread := { t with run := stillRun t.run, pc := 0, inside := none, noBp := false }

/-- A group without the positions of its threads and without the note of when results land: a group with no thread left counts as EXITING
(R162), and a signing that every member has joined counts as waiting for its pass (R285). -/
def stillGroup (g : Group) : Group :=
  { g with
    threads := g.threads.map stillThread
    landing := []
    st := if g.allThreads (fun _ t => t.gone) then .exiting else g.st
    cv := g.cv.map fun x => if x.st == .open_ && g.signingFull x then { x with st := .postwait } else x }

/-- A core without its counters. -/
def stillCore (x : Core) : Core :=
  { x with cycles := 0, sched := Vector.replicate 32 .reset, slots := x.slots.map (Option.map stillGroup) }

/-- A team without its watchdog and barrier counts. -/
def stillTeam (t : Team) : Team := { t with wd := 0, wdHit := false, bars := Vector.replicate 32 0 }

/-- The device without the positions of threads and without what counts time. Everything else stays: every register, predicate,
flag, token, tile, tape, allotment and trap record, all of memory, and every cache, table, queue and engine. -/
def still (s : State) : State :=
  { s with bundles := [], cores := s.cores.map stillCore, teams := s.teams.map stillTeam }

/-- What follows a word leaves the position of a thread that is in no bundle. -/
def Kept (t u : Thread) : Prop := t.run ≠ .member → u.pc = t.pc ∧ u.run = t.run ∧ u.inside = t.inside

/-- `t` is `s` but for the bookkeeping that follows a word, and a thread that is in no bundle stands where it stood. -/
structure Agrees (s t : State) : Prop where
  still : still t = still s
  kept  : ∀ c k g h, s.group? c k = some g → t.group? c k = some h → ∀ l : Lane, Kept g.threads[l] h.threads[l]

/-! ### A word that issues with its own effect alone -/

/-- The word issues: the bundle `b` is the first open one and holds each slot once, no thread of it meets a breakpoint (R413), no
static check fails (R53, R67), the word need not wait (R96), no register that it names is a token (R104, R105), but for a completed one that
TSYNC.POLL reads and may write (R106) or that the word starts again (R102), the device holds no poisoned register (R424), and the bundle is not that of a single step (R414). -/
structure Issues (s : State) (b : Bundle) (i : WordInfo) : Prop where
  first  : s.bundles.head? = some b
  slots  : (b.members.map Member.slot).Nodup
  nobrk  : ∀ m ∈ s.members b, s.breaks b m = none
  legal  : i.static b.pfx = none
  free   : s.stalls b i = false
  tokens : ∀ m ∈ b.members, ∀ g, s.group? b.core m.slot = some g →
    ∀ t ∈ g.tokens, t.reg ∉ i.reads ∧ (t.reg ∉ i.writes ∨ (t.done = true ∧ t.reg ∈ i.peeks)) ∧ (i.token = some t.reg → t.done = true)
  clean  : s.ecc = []
  nostep : b.step = false

/-- The prefix fields under which the next word of a bundle issues (R66). -/
def prefixOf (b : Bundle) : Pfx := b.pfx.getD {}

/-- Every register that the word names is within the allotment of each group of the bundle (R114). -/
def InAllot (s : State) (b : Bundle) (i : WordInfo) : Prop :=
  ∀ m ∈ s.members b, ∀ g, s.group? b.core m.slot = some g → (i.names b.pfx).all g.inAllot = true

/-- The state in which each group of the bundle `b` is changed by `f`, which is given the group's threads in the bundle. -/
def onGroups (s : State) (b : Bundle) (f : Member → Group → Group) : State :=
  s.modCore b.core fun x =>
    { x with slots := Vector.ofFn fun k : Fin 32 =>
        match (s.members b).find? fun m => m.slot == k with
        | some m => (x.slots[k]).map (f m)
        | none => x.slots[k] }

/-- A group in which each thread of a member that the prefix mask makes active is changed by `f` and each that it makes inactive by
`z` (R68), and whose CVX flag an active thread sets where `cvx` holds (R34). -/
def laneGroup (b : Bundle) (f z : Group → Lane → Thread → Thread) (cvx : Group → Lane → Thread → Bool) (m : Member) (g : Group) : Group :=
  let h := g.mapThreads fun l t =>
    if g.active m (prefixOf b) l then f g l t else if hasBit m.sel l then z g l t else t
  if (List.finRange 32).any fun l => g.active m (prefixOf b) l && cvx g l g.threads[l] then h.flag cvxBit else h

/-- The state after a lane word of the bundle `b`. -/
def onLanes (s : State) (b : Bundle) (f z : Group → Lane → Thread → Thread)
    (cvx : Group → Lane → Thread → Bool := fun _ _ _ => false) : State :=
  onGroups s b (laneGroup b f z cvx)

/-- R34: no lane that the word acts for sets CVX while the conversion-exception trap is enabled. -/
def NoCvxTrap (s : State) (b : Bundle) (cvx : Group → Lane → Thread → Bool) : Prop :=
  s.cvxOn b.core = false ∨ ∀ m ∈ s.members b, ∀ g, s.group? b.core m.slot = some g →
    ∀ l : Lane, g.active m (prefixOf b) l = true → cvx g l g.threads[l] = false

/-- R68: under ZERO the inactive threads write zero into the registers of the destination. -/
def zeroRegs (b : Bundle) (regs : List Nat) (g : Group) (_ : Lane) (t : Thread) : Thread :=
  if (prefixOf b).zero then t.setBlock g.ring regs fun _ => 0 else t

/-- R68: under ZERO the inactive threads write 0 into the predicate. -/
def zeroPred (b : Bundle) (p : Nat) (_ : Group) (_ : Lane) (t : Thread) : Thread :=
  if (prefixOf b).zero then t.setPred p false else t

/-- The groups of the bundle `b` with their members, in ascending slot order (R97). -/
def groupsOf (s : State) (b : Bundle) : List (Member × Group) :=
  (s.members b).filterMap fun m => (s.group? b.core m.slot).map fun g => (m, g)

/-- An operation that the next word of the bundle `b` starts for a member, by its number: what it has still to do comes after what the
member's threads have done (R225). -/
def startedOp (s : State) (b : Bundle) (id : Nat) (m : Member) (w : Work) : Op :=
  ⟨id, b.core, m.slot, m.sel, b.pc, b.offset b.here, b.handler, b.current, w, s.viewOf b.core m.slot m.sel, .none⟩

/-- The state after a word that changes each group of the bundle `b` by `f` and starts an operation for it: `w` is what the
operation has still to do (R99, R102). -/
def starting (s : State) (b : Bundle) (f : Member → Group → Group) (w : Member → Group → Work) : State :=
  { onGroups s b f with
    ops := s.ops ++ (groupsOf s b).zipIdx.map fun x => startedOp s b (s.nextId + x.2) x.1.1 (w x.1.1 x.1.2)
    nextId := s.nextId + (groupsOf s b).length }

/-! ### What a word of each shape does -/

/-- The lane `l` sets CVX at some position of the block of a word. -/
def blockCvx (b : Bundle) (op : LaneOp) (cvx : ElemIn → Bool) (g : Group) (l : Lane) (t : Thread) : Bool :=
  (List.range (Block.of op.e op.d).regs.length).any fun pos => cvx (op.elem b.pfx (prefixOf b) g l t pos)

/-- The word completes: each active thread has in the register of each position of the destination block the value `f` of the
operands at that position, and CVX is set where `cvx` holds for one of them. Nothing else changes. -/
def WritesBlock (i : Instr) (op : LaneOp) (f : ElemIn → Word) (cvx : ElemIn → Bool := fun _ => false) : Prop :=
  ∀ s b, Issues s b (infoOf i) → InAllot s b (infoOf i) → NoCvxTrap s b (blockCvx b op cvx) →
    ∃ t, exec i s = .next t ∧ Agrees (onLanes s b
      (fun g l x => x.setBlock g.ring (Block.of op.e op.d).regs fun pos => f (op.elem b.pfx (prefixOf b) g l x pos))
      (zeroRegs b (Block.of op.e op.d).regs) (blockCvx b op cvx)) t

/-- The word completes: each active thread has in predicate `p` the value `f`. Nothing else changes. -/
def WritesPred (i : Instr) (p : Fin 64) (f : Group → Thread → Bool) : Prop :=
  ∀ s b, Issues s b (infoOf i) → InAllot s b (infoOf i) →
    ∃ t, exec i s = .next t ∧ Agrees (onLanes s b (fun g _ x => x.setPred p.val (f g x)) (zeroPred b p.val)) t

/-- The word completes: each active thread is changed by `f`, and each inactive one has zero in the registers `regs` under ZERO. Nothing
else changes. -/
def WritesLanes (i : Instr) (regs : List Nat) (f : Bundle → Group → Lane → Thread → Thread) : Prop :=
  ∀ s b, Issues s b (infoOf i) → InAllot s b (infoOf i) →
    ∃ t, exec i s = .next t ∧ Agrees (onLanes s b (f b) (zeroRegs b regs)) t

/-- The writes of a pip-tracked word: for each active thread `f` at each position of the destination block gives where in the register
the result goes, and the result; an inactive one writes zero under ZERO. -/
def pipResults (b : Bundle) (op : LaneOp) (width : Nat) (f : ElemIn → Nat × Coded) (m : Member) (g : Group) : List LaneWrite :=
  (if (prefixOf b).zero then (List.finRange 32).flatMap fun l : Lane =>
    if hasBit m.sel l && !g.active m (prefixOf b) l then
      (Block.of op.e op.d).regs.map fun n => ⟨l, rowOf g.ring (g.threads[l]).turn n, 0, 32, 0⟩
    else [] else []) ++
  (List.finRange 32).flatMap fun l : Lane => if g.active m (prefixOf b) l then
    (Block.of op.e op.d).regs.zipIdx.map fun r =>
      let y := f (op.elem b.pfx (prefixOf b) g l g.threads[l] r.2)
      ⟨l, rowOf g.ring (g.threads[l]).turn r.1, y.1, width, y.2.code⟩
    else []

/-- R99, R149: the word completes its issue: for each group an operation is attached to its pip, which holds the results computed from
the sources as they stood, and the lanes that set CVX. No register changes before the operation completes, and nothing else does. -/
def AttachesPip (i : Instr) (op : LaneOp) (width : Nat) (f : ElemIn → Nat × Coded) : Prop :=
  ∀ s b, Issues s b (infoOf i) → InAllot s b (infoOf i) →
    ∃ t, exec i s = .next t ∧ Agrees (starting s b (fun _ g => { g with pip := g.pip.set b.attach (g.pip[b.attach] + 1) })
      fun m g => .pip b.attach (pipResults b op width f m g)
        (laneMask fun l => g.active m (prefixOf b) l && blockCvx b op (fun x => (f x).2.cvx) g l g.threads[l]) [] false) t

/-- The word completes: where `when_` holds, it leaves the state `u`. Nothing else changes. -/
def Completes (i : Instr) (when_ : State → Bundle → Prop) (u : State → Bundle → State) : Prop :=
  ∀ s b, Issues s b (infoOf i) → when_ s b → ∃ t, exec i s = .next t ∧ Agrees (u s b) t

/-- The word completes: each group of the bundle is changed by `f`, where `when_` holds for each. Nothing else changes. -/
def WritesGroups (i : Instr) (f : State → CoreId → Slot → Group → Group) (when_ : State → CoreId → Group → Prop := fun _ _ _ => True) : Prop :=
  ∀ s b, Issues s b (infoOf i) → (∀ m ∈ s.members b, ∀ g, s.group? b.core m.slot = some g → when_ s b.core g) →
    ∃ t, exec i s = .next t ∧ Agrees (onGroups s b fun m g => f s b.core m.slot g) t

/-- The word completes: the uniform register `d` of each group has the value `f`. Nothing else changes. -/
def WritesUniform (i : Instr) (d : Fin 128) (f : Group → Word) : Prop :=
  WritesGroups i fun _ _ _ g => { g with s := g.s.set d (f g) }

/-- A word of the QNT group completes: each active thread has in the registers `dst` the words that `f` gives, and CVX is set where it
says so; an inactive one has zero there under ZERO. `names` are the registers that the word names. Nothing else changes. -/
def WritesRegs (i : Instr) (names dst : List Nat) (f : Pfx → Group → Lane → Thread → List Word × Bool) : Prop :=
  ∀ s b, Issues s b (infoOf i) →
    (∀ m ∈ s.members b, ∀ g, s.group? b.core m.slot = some g → names.all g.inAllot = true) →
    NoCvxTrap s b (fun g l t => (f (prefixOf b) g l t).2) →
    ∃ t, exec i s = .next t ∧ Agrees (onLanes s b
      (fun g l x => x.setBlock g.ring dst fun n => (f (prefixOf b) g l x).1.getD n 0) (zeroRegs b dst)
      (fun g l x => (f (prefixOf b) g l x).2)) t

/-- R172 to R174: a gathering word of the bundle `b` finds every thread that it needs: each active thread is in its gathering set, as the
masks stood at the header, and no thread of that set that is inside the clause stands elsewhere than in the bundle. -/
def Gathered (s : State) (b : Bundle) : Prop :=
  ∀ m ∈ s.members b, ∀ g, s.group? b.core m.slot = some g → ∀ l : Lane,
    (g.active m (prefixOf b) l = true → g.inSet (prefixOf b).mod l = true) ∧
    (hasBit m.sel l = true → ∀ k : Lane, g.awaited (prefixOf b).mod b.pc k = true →
      (g.threads[l]).together g.threads[k] (prefixOf b).mod = true → hasBit m.sel k = true)

/-- The active lanes of a member in the set of one of them, ascending: those that contribute to a gathering word there (R173, R174). -/
def crossing (b : Bundle) (m : Member) (g : Group) (l : Lane) : List Lane :=
  (List.finRange 32).filter fun k : Lane => g.active m (prefixOf b) k && (g.threads[l]).together g.threads[k] (prefixOf b).mod

/-- A gathering word completes: each active thread is changed by `f`, which sees the active lanes of its set; an inactive one by `z`.
Nothing else changes. -/
def Crosses (i : Instr) (f : Bundle → Group → Member → List Lane → Lane → Thread → Thread) (z : Bundle → Group → Lane → Thread → Thread) : Prop :=
  ∀ s b, Issues s b (infoOf i) → InAllot s b (infoOf i) → Gathered s b →
    ∃ t, exec i s = .next t ∧ Agrees (onGroups s b fun m g => g.mapThreads fun l x =>
      if g.active m (prefixOf b) l then f b g m (crossing b m g l) l x else if hasBit m.sel l then z b g l x else x) t

/-- A reduction or scan: the destination block has at each position the value `f` of the operands of the active lanes at that position,
ascending. -/
def CrossesBlock (i : Instr) (e : Ext) (d : Fin 128) (a : LaneSrc) (f : Pfx → Group → Lane → Nat → List (Lane × Word) → Word) : Prop :=
  Crosses i (fun b g _ xs l t => t.setBlock g.ring (Block.of e d).regs fun pos =>
    f (prefixOf b) g l pos (xs.map fun x => (x, g.src (g.threads[x]) a (posOff e pos)))) fun b => zeroRegs b (Block.of e d).regs

end Sys2Proof
end

