-- ==== Sys2Proof/WellFormed.lean ====
section
/-! DEFINITION. Well-formed instructions: the static checks of R53 that a word's own fields can fail, and the places of the
device that a step without a word may name. A word that is not well formed still has a meaning: it raises its trap. -/

namespace Sys2Proof

open Machine

/-- Why an instruction is not well formed. -/
inductive IllFormed where
  /-- R56, R72: a block of lane registers or a run of uniform registers that does not fit; class 0x02. -/
  | registers
  /-- R58: a reserved code, number or pair of codes; class 0x01. -/
  | code
  /-- A step without a word names a die, link, unit or register that the device does not have (log 3). -/
  | place
  deriving DecidableEq, Repr

/-- The places that the steps without a word name: 17 dies (R1), 35 links (R419, R421; from 35 on the same links in a new second), three
kinds of unit (R428), and the Board's registers. -/
def Instr.placed : Instr → Bool
  | .thermalThrottle die _ => decide (die < 17)
  | .thermalIssueStop die => decide (die < 17)
  | .thermalIssueResume die => decide (die < 17)
  | .thermalPowerOff die => decide (die < 17)
  | .linkIntegrityFailure l => decide (l < 70)
  | .peerLinkFailure l => decide (1 ≤ l) && decide (l ≤ 18)
  | .linkRetrainComplete l => decide (l < 35)
  | .linkKeyEstablishment l => decide (l < 35)
  | .unitRetire u n => (u == 0 && decide (n < 384)) || (u == 1 && decide (n < 96)) || (u == 2 && decide (n < 8))
  | .registerWrite r _ _ => decide (r < 18) && r != 3
  | .hostTranslationRequest _ page _ => decide (page < 2 ^ 41)
  | _ => true

/-- The check that an instruction fails. -/
def Instr.illFormed (i : Instr) : Option IllFormed :=
  match (infoOf i).ownClass with
  | some c => some (if c = 0x02 then .registers else .code)
  | none => if i.placed then none else some .place

/-- An instruction fails no check. -/
abbrev Instr.WellFormed (i : Instr) : Prop := i.illFormed = none

end Sys2Proof
end

