-- ==== Sys2Proof/Certificates/Slice0/Obligations.lean ====
section
/-! DEFINITION. The statements about the device, by the rules of the specification that they formalise. Each says of every state and every
operand that meets its hypotheses what the word or the step answers. -/

open Sys2Proof Sys2Proof.Machine

/-! ### Integer lane words (R135 to R143) -/

/-- R135: the exact result of the operands as Z32 under MOD 0 and 1 and as N32 under MOD 2: wrapped, clamped to Z32 or clamped to
N32. -/
def Sys2Proof.exactly (f : Int → Int → Int → Int) (x : ElemIn) : Word :=
  if x.mod = 1 then BitVec.ofInt 32 (max (-2 ^ 31) (min (2 ^ 31 - 1) (f x.a.toInt x.b.toInt x.c.toInt)))
  else if x.mod = 2 then BitVec.ofInt 32 (max 0 (min (2 ^ 32 - 1) (f x.a.toNat x.b.toNat x.c.toNat)))
  else BitVec.ofInt 32 (f x.a.toInt x.b.toInt x.c.toInt)

/-- R54, R59: the instruction is the L word with this major, the extent `e`, the destination `d`, the source `a` (128 and more name a uniform register) and the field `b`. -/
def Sys2Proof.Spelled (i : Instr) (major : Nat) (e : Ext) (d : Fin 128) (a : LaneSrc) (b : Nat) : Prop :=
  encode i = some (major * 2 ^ 25 + e.val * 2 ^ 22 + d.val * 2 ^ 15 + (match a with | .v n => n.val | .s n => 128 + n.val) * 2 ^ 7 + b)

/-- R135: IADD, ISUB, IMUL, IMAD, IADDI and IMULH, with their words. -/
def Obligations.IntegerArithmetic : Prop :=
  ∀ (e : Ext) (d b : Fin 128) (a : LaneSrc) (m : BitVec 7),
    Spelled (.iadd e d a b) 0x00 e d a b.val ∧ Spelled (.isub e d a b) 0x01 e d a b.val ∧ Spelled (.imul e d a b) 0x02 e d a b.val ∧
    Spelled (.imad e d a b) 0x03 e d a b.val ∧ Spelled (.iaddi e d a m) 0x04 e d a m.toNat ∧ Spelled (.imulhZ e d a b) 0x10 e d a b.val ∧
    Spelled (.imulhN e d a b) 0x11 e d a b.val ∧
    WritesBlock (.iadd e d a b) ⟨e, d, a, .lane b⟩ (exactly fun x y _ => x + y) ∧
    WritesBlock (.isub e d a b) ⟨e, d, a, .lane b⟩ (exactly fun x y _ => x - y) ∧
    WritesBlock (.imul e d a b) ⟨e, d, a, .lane b⟩ (exactly fun x y _ => x * y) ∧
    WritesBlock (.imad e d a b) ⟨e, d, a, .lane b⟩ (exactly fun x y z => x * y + z) ∧
    WritesBlock (.iaddi e d a m) ⟨e, d, a, .imm (m.signExtend 32)⟩ (exactly fun x y _ => x + y) ∧
    WritesBlock (.imulhZ e d a b) ⟨e, d, a, .lane b⟩ (fun x => ((x.a.signExtend 64) * (x.b.signExtend 64)).extractLsb' 32 32) ∧
    WritesBlock (.imulhN e d a b) ⟨e, d, a, .lane b⟩ (fun x => ((x.a.zeroExtend 64) * (x.b.zeroExtend 64)).extractLsb' 32 32)

/-- R136: the quotient of IDIV.Z. -/
def Sys2Proof.quotZ (a b : Word) : Word :=
  if b = 0 then (if a.slt 0 then 0x80000000#32 else 0x7FFFFFFF#32) else a.sdiv b

/-- R136: IDIV.Z and IDIV.N, with their words; a zero divisor gives the extreme quotient and the remainder A. -/
def Obligations.IntegerDivision : Prop :=
  ∀ (e : Ext) (d b : Fin 128) (a : LaneSrc),
    Spelled (.idivZ e d a b) 0x12 e d a b.val ∧ Spelled (.idivN e d a b) 0x13 e d a b.val ∧
    WritesBlock (.idivZ e d a b) ⟨e, d, a, .lane b⟩
      (fun x => if x.mod = 1 then (if x.b = 0 then x.a else x.a.srem x.b) else quotZ x.a x.b) ∧
    WritesBlock (.idivN e d a b) ⟨e, d, a, .lane b⟩
      (fun x => if x.mod = 1 then (if x.b = 0 then x.a else x.a % x.b) else if x.b = 0 then BitVec.allOnes 32 else x.a / x.b)

/-- R137, R138: the minima, the maxima, the logic words and the shifts, whose count is the whole of B, with their words. -/
def Sys2Proof.Claim.LogicAndShifts : Prop :=
  ∀ (e : Ext) (d b : Fin 128) (a : LaneSrc),
    Spelled (.and e d a b) 0x06 e d a b.val ∧ Spelled (.or e d a b) 0x07 e d a b.val ∧ Spelled (.xor e d a b) 0x08 e d a b.val ∧
    Spelled (.shl e d a b) 0x09 e d a b.val ∧ Spelled (.shrN e d a b) 0x0A e d a b.val ∧ Spelled (.shrZ e d a b) 0x0B e d a b.val ∧
    Spelled (.iminZ e d a b) 0x0C e d a b.val ∧ Spelled (.imaxZ e d a b) 0x0D e d a b.val ∧ Spelled (.iminN e d a b) 0x0E e d a b.val ∧
    Spelled (.imaxN e d a b) 0x0F e d a b.val ∧
    WritesBlock (.iminZ e d a b) ⟨e, d, a, .lane b⟩ (fun x => if x.a.slt x.b then x.a else x.b) ∧
    WritesBlock (.imaxZ e d a b) ⟨e, d, a, .lane b⟩ (fun x => if x.b.slt x.a then x.a else x.b) ∧
    WritesBlock (.iminN e d a b) ⟨e, d, a, .lane b⟩ (fun x => if x.a.ult x.b then x.a else x.b) ∧
    WritesBlock (.imaxN e d a b) ⟨e, d, a, .lane b⟩ (fun x => if x.b.ult x.a then x.a else x.b) ∧
    WritesBlock (.and e d a b) ⟨e, d, a, .lane b⟩ (fun x => x.a &&& x.b) ∧
    WritesBlock (.or e d a b) ⟨e, d, a, .lane b⟩ (fun x => x.a ||| x.b) ∧
    WritesBlock (.xor e d a b) ⟨e, d, a, .lane b⟩ (fun x => x.a ^^^ x.b) ∧
    WritesBlock (.shl e d a b) ⟨e, d, a, .lane b⟩ (fun x => x.a <<< x.b) ∧
    WritesBlock (.shrN e d a b) ⟨e, d, a, .lane b⟩ (fun x => x.a >>> x.b) ∧
    WritesBlock (.shrZ e d a b) ⟨e, d, a, .lane b⟩ (fun x => x.a.sshiftRight' x.b)

/-- R139: the immediate shifts, with their words: the kind stands above the amount. -/
def Sys2Proof.Claim.ImmediateShifts : Prop :=
  ∀ (e : Ext) (d : Fin 128) (a : LaneSrc) (n : Fin 32),
    Spelled (.ishiShl e d a n) 0x05 e d a n.val ∧ Spelled (.ishiShrN e d a n) 0x05 e d a (32 + n.val) ∧
    Spelled (.ishiShrZ e d a n) 0x05 e d a (64 + n.val) ∧ Spelled (.ishiRol e d a n) 0x05 e d a (96 + n.val) ∧
    WritesBlock (.ishiShl e d a n) ⟨e, d, a, .none⟩ (fun x => x.a <<< n.val) ∧
    WritesBlock (.ishiShrN e d a n) ⟨e, d, a, .none⟩ (fun x => x.a >>> n.val) ∧
    WritesBlock (.ishiShrZ e d a n) ⟨e, d, a, .none⟩ (fun x => x.a.sshiftRight n.val) ∧
    WritesBlock (.ishiRol e d a n) ⟨e, d, a, .none⟩ (fun x => x.a.rotateLeft n.val)

/-- R137 to R139: the minima, the maxima, the logic words and the shifts by a register and by an immediate. -/
def Obligations.LogicAndShifts : Prop := Claim.LogicAndShifts ∧ Claim.ImmediateShifts

/-- R140: the position and the cut length of a field. -/
def Sys2Proof.cut (b : Word) : Nat × Nat := (b.toNat % 32, min (b.toNat / 32 % 64) (32 - b.toNat % 32))

/-- R140: BFX.N, BFX.Z and BFI, with their words. -/
def Sys2Proof.Claim.Bitfields : Prop :=
  ∀ (e : Ext) (d b : Fin 128) (a : LaneSrc),
    Spelled (.bfxN e d a b) 0x15 e d a b.val ∧ Spelled (.bfxZ e d a b) 0x16 e d a b.val ∧ Spelled (.bfi e d a b) 0x17 e d a b.val ∧
    WritesBlock (.bfxN e d a b) ⟨e, d, a, .lane b⟩ (fun x => BitVec.ofNat 32 (x.a.toNat / 2 ^ (cut x.b).1 % 2 ^ (cut x.b).2)) ∧
    WritesBlock (.bfxZ e d a b) ⟨e, d, a, .lane b⟩ (fun x => (x.a.extractLsb' (cut x.b).1 (cut x.b).2).signExtend 32) ∧
    WritesBlock (.bfi e d a b) ⟨e, d, a, .lane b⟩ (fun x =>
      BitVec.ofBoolListLE ((List.range 32).map fun i =>
        if (cut x.b).1 ≤ i ∧ i < (cut x.b).1 + (cut x.b).2 then x.a.getLsbD (i - (cut x.b).1) else x.c.getLsbD i))

/-- R141: the integer forms of IUN. -/
def Sys2Proof.Claim.IntegerUnary : Prop :=
  ∀ (e : Ext) (d : Fin 128) (a : LaneSrc),
    WritesBlock (.iunMov e d a) ⟨e, d, a, .none⟩ (fun x => x.a) ∧
    WritesBlock (.iunNot e d a) ⟨e, d, a, .none⟩ (fun x => ~~~x.a) ∧
    WritesBlock (.iunNeg e d a) ⟨e, d, a, .none⟩ (fun x => if x.mod = 1 ∧ x.a = 0x80000000#32 then 0x7FFFFFFF#32 else -x.a) ∧
    WritesBlock (.iunAbs e d a) ⟨e, d, a, .none⟩ (fun x => if x.mod = 1 ∧ x.a = 0x80000000#32 then 0x7FFFFFFF#32 else x.a.abs) ∧
    WritesBlock (.iunPopc e d a) ⟨e, d, a, .none⟩ (fun x => BitVec.ofNat 32 ((List.range 32).countP x.a.getLsbD)) ∧
    WritesBlock (.iunClz e d a) ⟨e, d, a, .none⟩ (fun x => x.a.clz) ∧
    WritesBlock (.iunCtz e d a) ⟨e, d, a, .none⟩ (fun x => BitVec.ofNat 32 (((List.range 32).takeWhile fun i => !x.a.getLsbD i).length)) ∧
    WritesBlock (.iunBrev e d a) ⟨e, d, a, .none⟩ (fun x => x.a.reverse) ∧
    WritesBlock (.iunBswap e d a) ⟨e, d, a, .none⟩ (fun x =>
      x.a.extractLsb' 0 8 ++ x.a.extractLsb' 8 8 ++ x.a.extractLsb' 16 8 ++ x.a.extractLsb' 24 8) ∧
    WritesBlock (.iunSext8 e d a) ⟨e, d, a, .none⟩ (fun x => (x.a.truncate 8).signExtend 32) ∧
    WritesBlock (.iunSext16 e d a) ⟨e, d, a, .none⟩ (fun x => (x.a.truncate 16).signExtend 32) ∧
    WritesBlock (.iunZext8 e d a) ⟨e, d, a, .none⟩ (fun x => x.a &&& 0xFF#32) ∧
    WritesBlock (.iunZext16 e d a) ⟨e, d, a, .none⟩ (fun x => x.a &&& 0xFFFF#32) ∧
    WritesBlock (.iunFneg e d a) ⟨e, d, a, .none⟩ (fun x => x.a ^^^ 0x80000000#32) ∧
    WritesBlock (.iunFabs e d a) ⟨e, d, a, .none⟩ (fun x => x.a &&& 0x7FFFFFFF#32)

/-- R140, R141: the bitfield words and the integer forms of IUN. -/
def Obligations.BitfieldsAndUnary : Prop := Claim.Bitfields ∧ Claim.IntegerUnary

/-- R142: the conditions of ICMP and ICMPI. -/
def Sys2Proof.intTest (c : Fin 8) (a b : Word) : Bool :=
  match c with
  | 0 => a == b
  | 1 => a != b
  | 2 => decide (a.toInt < b.toInt)
  | 3 => decide (b.toInt ≤ a.toInt)
  | 4 => decide (a.toNat < b.toNat)
  | 5 => decide (b.toNat ≤ a.toNat)
  | 6 => decide (a.toInt ≤ b.toInt)
  | 7 => decide (b.toInt < a.toInt)

/-- R142: a compare writes its condition, or under `.and` the conjunction with the old predicate. -/
def Sys2Proof.compared (and_ : Bool) (p : Fin 64) (t : Thread) (r : Bool) : Bool := if and_ then t.pred p.val && r else r

/-- R142, R143: the compares on integers, FCMP, and the PRED group; a write to q0 is ignored. -/
def Obligations.ComparesAndPredicates : Prop :=
  (∀ (c : Fin 8) (n : Bool) (p : Fin 64) (a : LaneSrc) (b : Fin 128) (m : BitVec 7),
    WritesPred (.icmp c n p a b) p (fun g t => compared n p t (intTest c (g.src t a 0) (t.lane g.ring b.val))) ∧
    WritesPred (.icmpi c n p a m) p (fun g t => compared n p t (intTest c (g.src t a 0) (m.signExtend 32))) ∧
    WritesPred (.fcmp c n p a b) p (fun g t => compared n p t (floatCond c.val (g.src t a 0) (t.lane g.ring b.val)))) ∧
  (∀ (d p q : Fin 64) (v : Fin 128) (a : LaneSrc),
    WritesPred (.predAnd q d p) d (fun _ t => t.pred p.val && t.pred q.val) ∧
    WritesPred (.predOr q d p) d (fun _ t => t.pred p.val || t.pred q.val) ∧
    WritesPred (.predXor q d p) d (fun _ t => xor (t.pred p.val) (t.pred q.val)) ∧
    WritesPred (.predAndn q d p) d (fun _ t => t.pred p.val && !t.pred q.val) ∧
    WritesPred (.predOrn q d p) d (fun _ t => t.pred p.val || !t.pred q.val) ∧
    WritesPred (.predNot d p) d (fun _ t => !t.pred p.val) ∧
    WritesPred (.predMov d p) d (fun _ t => t.pred p.val) ∧
    WritesPred (.predFromv d a) d (fun g t => g.src t a 0 != 0) ∧
    WritesLanes (.predTov v p) [v.val] (fun _ g _ t => t.setLane g.ring v.val (if t.pred p.val then 1 else 0))) ∧
  (∀ (t : Thread) (x : Bool), t.setPred 0 x = t ∧ t.pred 0 = true)

/-- R122: MOVI, with its word; a PREFIX with another MOD, or with RND, FOURTH or SCOPE, fails a static check with class 0x01. -/
def Sys2Proof.Claim.MoveImmediate : Prop :=
  ∀ (e : Ext) (d : Fin 128) (m : BitVec 15),
    encode (.movi e d m) = some (0x74000000 + e.val * 2 ^ 22 + d.val * 2 ^ 15 + m.toNat) ∧
    (∀ p : Pfx, 2 ≤ p.mod ∨ p.rnd ≠ 0 ∨ p.fourth ≠ 0 ∨ p.scope ≠ 0 → (infoOf (.movi e d m)).static (some p) = some (true, 0x01)) ∧
    WritesLanes (.movi e d m) (Block.of e d.val).regs (fun b g _ t => t.setBlock g.ring (Block.of e d.val).regs fun _ =>
      if (prefixOf b).mod = 1 then BitVec.ofNat 32 (m.toNat * 2 ^ 17) else m.signExtend 32)

/-! ### F32, packed and logarithmic lane words, and the special functions (R144 to R149) -/

/-- R144: the exact value rounded once to F32 under the prefix mode; MOD 1 clamps it to the interval from +0 to 1, and a NaN to +0. -/
def Sys2Proof.roundedF32 (x : ElemIn) (r : Exact) : Word :=
  let y : Word := BitVec.ofNat 32 (r.round .f32 x.mode (x.u 1 0)).code
  if x.mod ≠ 1 then y
  else if f32Val y = .nan ∨ y.msb = true then 0
  else if y.toNat ≤ 0x3F800000 then y else 0x3F800000#32

/-- R144, R145: the F32 words. The choice of log 74 is the model's own. -/
def Obligations.FloatArithmetic : Prop :=
  ∀ (e : Ext) (d b : Fin 128) (a : LaneSrc),
    WritesBlock (.fadd e d a b) ⟨e, d, a, .lane b⟩ (fun x => roundedF32 x (ieeeAdd x.mode (f32Val x.a) (f32Val x.b))) ∧
    WritesBlock (.fsub e d a b) ⟨e, d, a, .lane b⟩ (fun x => roundedF32 x (ieeeAdd x.mode (f32Val x.a) (f32Val (x.b ^^^ 0x80000000#32)))) ∧
    WritesBlock (.fmul e d a b) ⟨e, d, a, .lane b⟩ (fun x => roundedF32 x ((f32Val x.a).mul (f32Val x.b)).exact) ∧
    WritesBlock (.ffma e d a b) ⟨e, d, a, .lane b⟩
      (fun x => roundedF32 x (ieeeAdd x.mode ((f32Val x.a).mul (f32Val x.b)) (f32Val x.c))) ∧
    WritesBlock (.fdiv e d a b) ⟨e, d, a, .lane b⟩ (fun x => roundedF32 x (ieeeDiv (f32Val x.a) (f32Val x.b))) ∧
    WritesBlock (.fmin e d a b) ⟨e, d, a, .lane b⟩ (fun x => fminWord x.a x.b) ∧
    WritesBlock (.fmax e d a b) ⟨e, d, a, .lane b⟩ (fun x => fmaxWord x.a x.b)

/-- R12, R146: the two halves of a register, each the 16-bit code that `f` gives. -/
def Sys2Proof.halves (f : Nat → Nat) : Word := BitVec.ofNat 16 (f 1) ++ BitVec.ofNat 16 (f 0)

/-- R12, R146: the value of half `n` of a register. -/
def Sys2Proof.half (f : FloatFmt) (n : Nat) (x : Word) : Val := f.decode (x.extractLsb' (16 * n) 16).toNat

/-- R146: the packed words, BF16 under MOD 1 of HADD2 and HMUL2, round each half once. -/
def Sys2Proof.Claim.PackedArithmetic : Prop :=
  ∀ (e : Ext) (d b : Fin 128) (a : LaneSrc),
    WritesBlock (.hadd2 e d a b) ⟨e, d, a, .lane b⟩ (fun x => halves fun n =>
      let f : FloatFmt := if x.mod = 1 then .bf16 else .f16
      ((ieeeAdd x.mode (half f n x.a) (half f n x.b)).round f x.mode (x.u 2 n)).code) ∧
    WritesBlock (.hmul2 e d a b) ⟨e, d, a, .lane b⟩ (fun x => halves fun n =>
      let f : FloatFmt := if x.mod = 1 then .bf16 else .f16
      (((half f n x.a).mul (half f n x.b)).exact.round f x.mode (x.u 2 n)).code) ∧
    WritesBlock (.hfma2 e d a b) ⟨e, d, a, .lane b⟩ (fun x => halves fun n =>
      ((ieeeAdd x.mode ((half .f16 n x.a).mul (half .f16 n x.b)) (half .f16 n x.c)).round .f16 x.mode (x.u 2 n)).code) ∧
    WritesBlock (.bfma2 e d a b) ⟨e, d, a, .lane b⟩ (fun x => halves fun n =>
      ((ieeeAdd x.mode ((half .bf16 n x.a).mul (half .bf16 n x.b)) (half .bf16 n x.c)).round .bf16 x.mode (x.u 2 n)).code)

/-- R147: the elements of a logarithmic word, L8 under MOD 1 and else L16. -/
def Sys2Proof.logParts (x : ElemIn) (f : LogFmt → Nat → Nat → Coded) : List Coded :=
  if x.mod = 1 then (List.range 4).map fun n => f .l8 (x.a.extractLsb' (8 * n) 8).toNat (x.b.extractLsb' (8 * n) 8).toNat
  else (List.range 2).map fun n => f .l16 (x.a.extractLsb' (16 * n) 16).toNat (x.b.extractLsb' (16 * n) 16).toNat

/-- R12: the register that holds the codes of the elements of `w` bits, element 0 lowest. -/
def Sys2Proof.packed (w : Nat) (xs : List Coded) : Word := xs.foldr (fun c r => r <<< w ||| BitVec.ofNat 32 (c.code % 2 ^ w)) 0

/-- R147: LADD and LMUL give LogAdd and LogMul of each element and set CVX where one of them does. -/
def Sys2Proof.Claim.LogarithmicWords : Prop :=
  ∀ (e : Ext) (d b : Fin 128) (a : LaneSrc),
    WritesBlock (.ladd e d a b) ⟨e, d, a, .lane b⟩ (fun x => packed (if x.mod = 1 then 8 else 16) (logParts x LogFmt.add))
      (fun x => (logParts x LogFmt.add).any Coded.cvx) ∧
    WritesBlock (.lmul e d a b) ⟨e, d, a, .lane b⟩ (fun x => packed (if x.mod = 1 then 8 else 16) (logParts x LogFmt.mul))
      (fun x => (logParts x LogFmt.mul).any Coded.cvx)

/-- R146, R147: the packed and the logarithmic words. The choices of log 9 and 74 are the model's own. -/
def Obligations.PackedAndLogarithmic : Prop := Claim.PackedArithmetic ∧ Claim.LogarithmicWords

/-- The operations of the device are numbered below the next number. -/
def Sys2Proof.Numbered (s : State) : Prop := ∀ o ∈ s.ops, o.id < s.nextId

/-- R99, R102, R206: the word completes for the bundle's one group, where `when_` holds: it issues, the operation that it started completes by the step
`done`, which leaves no operation of that number, and `res` holds of the device and of the group then. No fixed-latency result of the group is on its way, and
the bundle runs the code that the group runs. -/
def Sys2Proof.ThenDone (i : Instr) (done : Nat → Instr) (when_ : State → Bundle → Group → Prop) (res : State → Bundle → Member → Group → State → Group → Prop) : Prop :=
  ∀ (s : State) (b : Bundle) (m : Member) (g : Group), Issues s b (infoOf i) → InAllot s b (infoOf i) → s.members b = [m] → s.group? b.core m.slot = some g →
    g.landing = [] → b.handler = g.handler.isSome → Numbered s → when_ s b g →
    ∃ t u h, exec i s = .next t ∧ exec (done (t.nextId - 1)) t = .next u ∧ u.op? (t.nextId - 1) = none ∧ u.group? b.core m.slot = some h ∧ res s b m g u h

/-- R68, R100: each active thread has in the register of each position the value that `f` gives, each inactive one zero under ZERO; every other lane
register, the predicates, the pip counts and the tiles are as they were before the word. -/
def Sys2Proof.LaneResults (regs : List Nat) (f : State → Bundle → Group → Lane → Nat → Word) (s : State) (b : Bundle) (m : Member) (g h : Group) : Prop :=
  h.pip = g.pip ∧ h.tiles = g.tiles ∧ ∀ l : Lane, (h.threads[l]).q = (g.threads[l]).q ∧ (h.threads[l]).v =
    (if g.active m (prefixOf b) l then (g.threads[l]).setBlock g.ring regs (f s b g l)
      else if hasBit m.sel l then zeroRegs b regs g l g.threads[l] else g.threads[l]).v

/-- R149, R150: the register `old` with a code of `width` bits put at a bit position. -/
def Sys2Proof.placed (width at_ code : Nat) (old : Word) : Word :=
  if width = 32 then BitVec.ofNat 32 code
  else (old &&& ~~~(BitVec.ofNat 32 (2 ^ width - 1) <<< at_)) ||| (BitVec.ofNat 32 (code % 2 ^ width) <<< at_)

/-- R99, R149: the word attaches an operation, and completes with it: the results are in the registers. -/
def Sys2Proof.PipCompletes (i : Instr) (op : LaneOp) (width : Nat) (f : ElemIn → Nat × Coded) : Prop :=
  AttachesPip i op width f ∧
  ThenDone i .pipOperationComplete (fun s b _ => NoCvxTrap s b (blockCvx b op fun x => (f x).2.cvx)) fun s b m g _ h =>
    h.s = g.s ∧ LaneResults (Block.of op.e op.d).regs (fun _ b g l pos =>
      let x := op.elem b.pfx (prefixOf b) g l g.threads[l] pos
      placed width (f x).1 (f x).2.code x.old) s b m g h

/-- R148, R149: a special function, rounded once under the prefix mode, lands in its whole register when its operation completes. -/
def Sys2Proof.CompletesFun (i : Ext → Fin 128 → LaneSrc → Instr) (f : Val → Exact) : Prop :=
  ∀ e d a, PipCompletes (i e d a) ⟨e, d, a, .none⟩ 32 fun x => (0, (f (f32Val x.a)).round .f32 x.mode (x.u 1 0))

/-- R148: the value of a special function is NaN for a NaN, and at the values that the table gives it is as the table says. -/
def Sys2Proof.specialCases : List ((Val → Exact) × List (Val × Exact)) :=
  let pos (k : Int) : Val := .fin false 1 (256 * k)
  let neg (k : Int) : Val := .fin true 1 (256 * k)
  [(funRcp, [(.nan, .nan), (.zero false, .inf false), (.zero true, .inf true), (.inf false, .zero false), (.inf true, .zero true)]),
   (funRsqrt, [(.nan, .nan), (.zero false, .inf false), (.zero true, .inf true), (neg 0, .nan), (.inf true, .nan), (.inf false, .zero false)]),
   (funSqrt, [(.nan, .nan), (.zero false, .zero false), (.zero true, .zero true), (neg 0, .nan), (.inf true, .nan), (.inf false, .inf false)]),
   (funExp2, [(.nan, .nan), (.inf true, .zero false), (.inf false, .inf false)]),
   (funLog2, [(.nan, .nan), (.zero false, .inf true), (.zero true, .inf true), (neg 0, .nan), (.inf true, .nan), (.inf false, .inf false), (pos 0, .zero false)]),
   (funSinpi, [(.nan, .nan), (.inf false, .nan), (.inf true, .nan), (.zero false, .zero false), (.zero true, .zero true), (pos 0, .zero false), (neg 0, .zero true), (pos 1, .zero false)]),
   (funCospi, [(.nan, .nan), (.inf false, .nan), (.inf true, .nan), (pos (-1), .zero false), (neg (-1), .zero false)]),
   (funTanh, [(.nan, .nan), (.zero false, .zero false), (.zero true, .zero true), (.inf false, .mag false (.term 1 0)), (.inf true, .mag true (.term 1 0))]),
   (funLogistic, [(.nan, .nan), (.inf true, .zero false), (.inf false, .mag false (.term 1 0))])]

/-- R148, R149: FUN attaches an operation to its pip, and completes with it: each result is the function rounded once, with the table's special cases.
The choices of log 9 and 74 are the model's own. -/
def Obligations.SpecialFunctions : Prop :=
  CompletesFun .funRcp funRcp ∧ CompletesFun .funRsqrt funRsqrt ∧ CompletesFun .funSqrt funSqrt ∧
  CompletesFun .funExp2 funExp2 ∧ CompletesFun .funLog2 funLog2 ∧ CompletesFun .funSinpi funSinpi ∧
  CompletesFun .funCospi funCospi ∧ CompletesFun .funTanh funTanh ∧ CompletesFun .funLogistic funLogistic ∧
  (∀ row ∈ specialCases, ∀ c ∈ row.2, row.1 c.1 = c.2) ∧
  ∀ (m : Nat) (e : Int), funRsqrt (.fin true m e) = .nan ∧ funSqrt (.fin true m e) = .nan ∧ funLog2 (.fin true m e) = .nan

/-! ### Conversions (R150 to R152) -/

/-- R150: what a conversion reads, and rounds to the code of its destination: element MOD of a packed source, or all of a register. -/
def Sys2Proof.convertedCode (src dst : Scalar) (x : ElemIn) : Coded :=
  dst.encode (src.decode (if src.bits = 32 then x.a else (x.a >>> (src.bits * x.mod)) &&& BitVec.ofNat 32 (2 ^ src.bits - 1)).toNat)
    x.mode (if dst.bits = 32 then x.u 1 0 else x.u (32 / dst.bits) x.mod)

/-- R150: element MOD of the old destination replaced, the others kept. -/
def Sys2Proof.elementPut (w mod : Nat) (old : Word) (code : Nat) : Word :=
  (old &&& ~~~(BitVec.ofNat 32 (2 ^ w - 1) <<< (w * mod))) ||| (BitVec.ofNat 32 (code % 2 ^ w) <<< (w * mod))

/-- R150: what a fixed-latency conversion writes. -/
def Sys2Proof.convertedWord (src dst : Scalar) (x : ElemIn) : Word :=
  if dst.bits = 32 then BitVec.ofNat 32 (convertedCode src dst x).code
  else elementPut dst.bits x.mod x.old (convertedCode src dst x).code

/-- R151: the fixed-latency conversions between scalar formats. -/
def Sys2Proof.fixedConversions : List ((Ext → Fin 128 → LaneSrc → Instr) × Scalar × Scalar) :=
  [(.cvtF16F32, .float .f32, .float .f16), (.cvtBf16F32, .float .f32, .float .bf16), (.cvtF32F16, .float .f16, .float .f32),
   (.cvtF32Bf16, .float .bf16, .float .f32), (.cvtE4m3F32, .float .f32, .float .e4m3), (.cvtE5m2F32, .float .f32, .float .e5m2),
   (.cvtF32E4m3, .float .e4m3, .float .f32), (.cvtF32E5m2, .float .e5m2, .float .f32), (.cvtZ32F32, .float .f32, .int ⟨32, true⟩),
   (.cvtN32F32, .float .f32, .int ⟨32, false⟩), (.cvtF32Z32, .int ⟨32, true⟩, .float .f32), (.cvtF32N32, .int ⟨32, false⟩, .float .f32),
   (.cvtZ16F32, .float .f32, .int ⟨16, true⟩), (.cvtN16F32, .float .f32, .int ⟨16, false⟩), (.cvtZ8F32, .float .f32, .int ⟨8, true⟩),
   (.cvtN8F32, .float .f32, .int ⟨8, false⟩), (.cvtF32Z8, .int ⟨8, true⟩, .float .f32), (.cvtF32N8, .int ⟨8, false⟩, .float .f32),
   (.cvtF32Z16, .int ⟨16, true⟩, .float .f32), (.cvtF32N16, .int ⟨16, false⟩, .float .f32), (.cvtZ16Z32, .int ⟨32, true⟩, .int ⟨16, true⟩),
   (.cvtN16Z32, .int ⟨32, true⟩, .int ⟨16, false⟩), (.cvtZ8Z32, .int ⟨32, true⟩, .int ⟨8, true⟩), (.cvtN8Z32, .int ⟨32, true⟩, .int ⟨8, false⟩)]

/-- R151: the conversions that are pip-tracked. -/
def Sys2Proof.sfuConversions : List ((Ext → Fin 128 → LaneSrc → Instr) × Scalar × Scalar) :=
  [(.cvtL16F32, .float .f32, .log .l16), (.cvtF32L16, .log .l16, .float .f32), (.cvtL8F32, .float .f32, .log .l8),
   (.cvtF32L8, .log .l8, .float .f32)]

/-- R150, R151: every scalar conversion: its formats, what it writes, and CVX. -/
def Sys2Proof.Claim.Conversions : Prop :=
  (∀ row ∈ fixedConversions, ∀ e d a, WritesBlock (row.1 e d a) ⟨e, d, a, .none⟩ (convertedWord row.2.1 row.2.2)
    (fun x => (convertedCode row.2.1 row.2.2 x).cvx)) ∧
  (∀ row ∈ sfuConversions, ∀ e d a, PipCompletes (row.1 e d a) ⟨e, d, a, .none⟩ row.2.2.bits fun x =>
    (if row.2.2.bits = 32 then 0 else row.2.2.bits * x.mod, convertedCode row.2.1 row.2.2 x))

/-- R27, R152: the five trits of byte MOD of A; the bytes 243 to 255 give zeros and CVX. -/
def Sys2Proof.tritsOf (x : ElemIn) : List Int × Bool :=
  let y := (x.a.extractLsb' (8 * x.mod) 8).toNat
  if y < 243 then ((List.range 5).map fun n => if y / 3 ^ n % 3 = 2 then -1 else ((y / 3 ^ n % 3 : Nat) : Int), false)
  else ([0, 0, 0, 0, 0], true)

/-- R152: a value clamped to a trit. -/
def Sys2Proof.clamped (v : Int) : Int := max (-1) (min 1 v)

/-- R152: the five values that CVT.TN5.Z8 packs. -/
def Sys2Proof.tritInputs (x : ElemIn) : List Int :=
  ((List.range 4).map fun n => (x.a.extractLsb' (8 * n) 8).toInt) ++ [(x.c.extractLsb' 0 8).toInt]

/-- R152: the TN5 forms. -/
def Sys2Proof.Claim.TernaryConversions : Prop :=
  ∀ (e : Ext) (d : Fin 128) (a : LaneSrc),
    WritesBlock (.cvtZ8Tn5lo e d a) ⟨e, d, a, .none⟩
      (fun x => ((tritsOf x).1.take 4).foldr (fun t r => r <<< 8 ||| (BitVec.ofInt 8 t).zeroExtend 32) 0) (fun x => (tritsOf x).2) ∧
    WritesBlock (.cvtZ8Tn5hi e d a) ⟨e, d, a, .none⟩
      (fun x => (BitVec.ofInt 8 ((tritsOf x).1.getD 4 0)).zeroExtend 32) (fun x => (tritsOf x).2) ∧
    WritesBlock (.cvtTn5Z8 e d a) ⟨e, d, a, .none⟩
      (fun x => elementPut 8 x.mod x.old (((tritInputs x).map clamped).foldr (fun t r => 3 * r + (if t = -1 then 2 else t.toNat)) 0))
      (fun x => (tritInputs x).any fun v => v != clamped v)

/-- R150 to R152: every form of CVT. The choices of log 9, 15 and 74 are the model's own. -/
def Obligations.FormatConversions : Prop := Claim.Conversions ∧ Claim.TernaryConversions

/-! ### QNT (R351) -/

/-- R351: the QNT words: what each names, what it writes, and CVX. The choices of log 15, 21, 30, 31 and 74 are the model's own. -/
def Obligations.Quantisation : Prop :=
  (∀ (f : Fin 8) (d : Fin 128) (a : LaneSrc) (x : MxFmt), qntMx f = some x →
    WritesRegs (.qntMxp f d a) (packRegs d.val false ++ wideRegs a) (packRegs d.val false) (mxpResult x a) ∧
    WritesRegs (.qntMxu f d a) (packRegs (srcBase a) false ++ regRun d.val 32) (regRun d.val 32) (mxuResult x a)) ∧
  (∀ (f : Fin 8) (d : Fin 128) (a : LaneSrc) (w : Nat), qntAq f = some w →
    WritesRegs (.qntAqp f d a) (packRegs d.val true ++ wideRegs a) (packRegs d.val false) (aqpResult w d a) ∧
    WritesRegs (.qntAqu f d a) (packRegs (srcBase a) true ++ regRun d.val 32) (regRun d.val 32) (aquResult w a))

/-! ### Uniform words (R153, R154) -/

/-- R153: the exact result of the operands as R135 directs: form 0 wraps, form 1 clamps to Z32 and form 2 to N32. -/
def Sys2Proof.uniExactly (n : Nat) (f : Int → Int → Int) (x y : Word) : Word :=
  if n = 1 then BitVec.ofInt 32 (max (-2 ^ 31) (min (2 ^ 31 - 1) (f x.toInt y.toInt)))
  else if n = 2 then BitVec.ofInt 32 (max 0 (min (2 ^ 32 - 1) (f x.toNat y.toNat)))
  else BitVec.ofInt 32 (f x.toInt y.toInt)

/-- R153: the word completes, and the register `d` of each group has the value `f` of A and B. -/
def Sys2Proof.WritesUni2 (i : Instr) (d a : Fin 128) (b : USrc) (f : Word → Word → Word) : Prop :=
  WritesUniform i d fun g => f (g.s[a.val]) (match b with | .reg n => g.s[n.val] | .imm m => m.signExtend 32)

/-- R153, R154: the uniform arithmetic words and UMOVLO and UMOVHI. -/
def Obligations.UniformArithmetic : Prop :=
  ∀ (d a : Fin 128) (b : USrc),
    WritesUni2 (.uadd d a b) d a b (uniExactly 0 (· + ·)) ∧ WritesUni2 (.uaddSatz d a b) d a b (uniExactly 1 (· + ·)) ∧
    WritesUni2 (.uaddSatn d a b) d a b (uniExactly 2 (· + ·)) ∧ WritesUni2 (.usub d a b) d a b (uniExactly 0 (· - ·)) ∧
    WritesUni2 (.usubSatz d a b) d a b (uniExactly 1 (· - ·)) ∧ WritesUni2 (.usubSatn d a b) d a b (uniExactly 2 (· - ·)) ∧
    WritesUni2 (.umul d a b) d a b (· * ·) ∧
    WritesUni2 (.umulhZ d a b) d a b (fun x y => ((x.signExtend 64) * (y.signExtend 64)).extractLsb' 32 32) ∧
    WritesUni2 (.umulhN d a b) d a b (fun x y => ((x.zeroExtend 64) * (y.zeroExtend 64)).extractLsb' 32 32) ∧
    WritesUni2 (.uand d a b) d a b (· &&& ·) ∧ WritesUni2 (.uor d a b) d a b (· ||| ·) ∧ WritesUni2 (.uxor d a b) d a b (· ^^^ ·) ∧
    WritesUni2 (.ushl d a b) d a b (fun x y => x <<< y) ∧ WritesUni2 (.ushrN d a b) d a b (fun x y => x >>> y) ∧
    WritesUni2 (.ushrZ d a b) d a b (fun x y => x.sshiftRight' y) ∧
    WritesUni2 (.uminZ d a b) d a b (fun x y => if x.slt y then x else y) ∧
    WritesUni2 (.umaxZ d a b) d a b (fun x y => if y.slt x then x else y) ∧
    WritesUni2 (.uminN d a b) d a b (fun x y => if x.ult y then x else y) ∧
    WritesUni2 (.umaxN d a b) d a b (fun x y => if y.ult x then x else y) ∧
    (∀ c : Fin 128, WritesUni2 (.ufmin d a c) d a (.reg c) fminWord ∧ WritesUni2 (.ufmax d a c) d a (.reg c) fmaxWord) ∧
    (∀ c : Fin 8, WritesUni2 (.ucmp d a c b) d a b (fun x y => if intTest c x y then 1 else 0)) ∧
    (∀ m : BitVec 18, WritesUniform (.umovlo d m) d fun _ => m.zeroExtend 32) ∧
    (∀ m : BitVec 14, WritesUniform (.umovhi d m) d fun g => (m.zeroExtend 32 <<< 18) ||| (g.s[d.val] &&& 0x3FFFF#32))

/-! ### Gathering words (R172 to R178) -/

/-- R176: a vote writes the register `d` with what `f` makes of the active lanes whose predicate `a` is true. -/
def Sys2Proof.VotesV (i : Instr) (d : Fin 128) (a : Fin 64) (f : List Lane → Word) : Prop :=
  Crosses i (fun _ g _ xs _ t => t.setLane g.ring d.val (f (xs.filter fun l => (g.threads[l]).pred a.val)))
    fun b => zeroRegs b [d.val]

/-- R176: a vote writes the predicate `d` with what `f` makes of the active lanes' values of predicate `a`. -/
def Sys2Proof.VotesQ (i : Instr) (d a : Fin 64) (f : List Bool → Bool) : Prop :=
  Crosses i (fun _ g _ xs _ t => t.setPred d.val (f (xs.map fun l => (g.threads[l]).pred a.val))) fun b => zeroPred b d.val

/-- R176: the votes. -/
def Sys2Proof.Claim.Votes : Prop :=
  (∀ (d : Fin 128) (a : Fin 64),
    VotesV (.xlnBallot d a) d a (fun xs => xs.foldl (fun w l => w ||| (1#32 <<< l.val)) 0) ∧
    VotesV (.xlnCount d a) d a (fun xs => BitVec.ofNat 32 xs.length)) ∧
  (∀ d a : Fin 64, VotesQ (.xlnAll d a) d a (·.all id) ∧ VotesQ (.xlnAny d a) d a (·.any id))

/-- R176: the value of a fold over the operands, from the first; with none the value is not used. -/
def Sys2Proof.folded (f : Word → Word → Word) (xs : List (Lane × Word)) : Word :=
  match xs.map Prod.snd with
  | [] => 0
  | x :: ys => ys.foldl f x

/-- R15, R176: the value of a fold of FMIN or FMAX; the NaN of a member that alone contributes is made canonical (log 72). -/
def Sys2Proof.foldedFloat (f : Word → Word → Word) (xs : List (Lane × Word)) : Word :=
  match xs.map Prod.snd with
  | [] => 0
  | [x] => if f32Val x = .nan then 0x7FC00000#32 else x
  | x :: ys => ys.foldl f x

/-- R176: the operands of the lanes up to `l`. -/
def Sys2Proof.through (l : Lane) (xs : List (Lane × Word)) : List (Lane × Word) := xs.filter fun x => decide (x.1 ≤ l)

/-- R176: the operands of the lanes below `l`. -/
def Sys2Proof.before (l : Lane) (xs : List (Lane × Word)) : List (Lane × Word) := xs.filter fun x => decide (x.1 < l)

/-- R176: the wrapped sum of the operands. -/
def Sys2Proof.wrappedSum (xs : List (Lane × Word)) : Word := BitVec.ofNat 32 ((xs.map fun x => x.2.toNat).sum)

/-- R177: the F32 sum of the operands under the kernel's contract, rounded once. -/
def Sys2Proof.floatSum (p : Pfx) (g : Group) (l : Lane) (pos : Nat) (xs : List (Lane × Word)) : Word :=
  BitVec.ofNat 32 ((sumRule (g.contract == 0) false Acc.zero (xs.map fun x => f32Val x.2)).1.round .f32 p.mode
    (srValue p.mode g.seed (32 * pos + l.val))).code

/-- R176, R177: the reductions and scans. -/
def Sys2Proof.Claim.ReductionsAndScans : Prop :=
  ∀ (e : Ext) (d : Fin 128) (a : LaneSrc),
    CrossesBlock (.xlnMatch e d a) e d a (fun _ g l pos xs => xs.foldl
      (fun w x => if x.2 = g.src (g.threads[l]) a (posOff e pos) then w ||| (1#32 <<< x.1.val) else w) 0) ∧
    CrossesBlock (.xlnRadd e d a) e d a (fun _ _ _ _ xs => wrappedSum xs) ∧
    CrossesBlock (.xlnRminZ e d a) e d a (fun _ _ _ _ xs => folded (fun x y => if x.slt y then x else y) xs) ∧
    CrossesBlock (.xlnRmaxZ e d a) e d a (fun _ _ _ _ xs => folded (fun x y => if y.slt x then x else y) xs) ∧
    CrossesBlock (.xlnRminN e d a) e d a (fun _ _ _ _ xs => folded (fun x y => if x.ult y then x else y) xs) ∧
    CrossesBlock (.xlnRmaxN e d a) e d a (fun _ _ _ _ xs => folded (fun x y => if y.ult x then x else y) xs) ∧
    CrossesBlock (.xlnRand e d a) e d a (fun _ _ _ _ xs => folded (· &&& ·) xs) ∧
    CrossesBlock (.xlnRor e d a) e d a (fun _ _ _ _ xs => folded (· ||| ·) xs) ∧
    CrossesBlock (.xlnRxor e d a) e d a (fun _ _ _ _ xs => folded (· ^^^ ·) xs) ∧
    CrossesBlock (.xlnRfadd e d a) e d a floatSum ∧
    CrossesBlock (.xlnRfmin e d a) e d a (fun _ _ _ _ xs => foldedFloat fminWord xs) ∧
    CrossesBlock (.xlnRfmax e d a) e d a (fun _ _ _ _ xs => foldedFloat fmaxWord xs) ∧
    CrossesBlock (.xlnIscanAdd e d a) e d a (fun _ _ l _ xs => wrappedSum (through l xs)) ∧
    CrossesBlock (.xlnXscanAdd e d a) e d a (fun _ _ l _ xs => wrappedSum (before l xs)) ∧
    CrossesBlock (.xlnIscanFadd e d a) e d a (fun p g l pos xs => floatSum p g l pos (through l xs)) ∧
    CrossesBlock (.xlnXscanFadd e d a) e d a (fun p g l pos xs => floatSum p g l pos (before l xs)) ∧
    CrossesBlock (.xlnIscanMinZ e d a) e d a (fun _ _ l _ xs => folded (fun x y => if x.slt y then x else y) (through l xs)) ∧
    CrossesBlock (.xlnIscanMaxZ e d a) e d a (fun _ _ l _ xs => folded (fun x y => if y.slt x then x else y) (through l xs)) ∧
    CrossesBlock (.xlnIscanOr e d a) e d a (fun _ _ l _ xs => folded (· ||| ·) (through l xs))

/-- R173, R178: SHFL reads A of the lane that B names, where that lane is a member of its gathering set that the guard selected, and else A of
its own lane. -/
def Sys2Proof.Claim.Shuffle : Prop :=
  ∀ (e : Ext) (d b : Fin 128) (a : LaneSrc),
    Crosses (.shfl e d a b) (fun u g m _ l t =>
      t.setBlock g.ring (Block.of e d).regs fun pos =>
        let j := t.lane g.ring (b.val + posOff e pos)
        match (List.finRange 32).find? fun k : Lane => decide (k.val = j.toNat) && m.sel.getLsbD k.val && g.inSet (prefixOf u).mod k &&
            t.together g.threads[k] (prefixOf u).mod with
        | some k => g.src (g.threads[k]) a (posOff e pos)
        | none => g.src (g.threads[l]) a (posOff e pos)) fun u => zeroRegs u (Block.of e d).regs

/-- R172 to R178: the gathering words. The choice of log 72 is the model's own. -/
def Obligations.CrossLaneWords : Prop := Claim.Votes ∧ Claim.ReductionsAndScans ∧ Claim.Shuffle

/-! ### Control flow (R121, R155 to R164) -/

/-- A thread stands at the header of a clause, in no bundle. -/
def Sys2Proof.standing (t : Thread) (pc : Word) : Thread := { t with run := .ready, pc := pc, inside := none }

/-- R50: the target of an offset: the address of the word that follows the terminal word, and four times the offset. -/
def Sys2Proof.targetOf (b : Bundle) (off : Int) : Word := b.after + BitVec.ofInt 32 (4 * off)

/-- The selected threads of each group are changed by `f`. -/
def Sys2Proof.onSelected (s : State) (b : Bundle) (f : Group → Lane → Thread → Thread) : State :=
  onGroups s b fun m g => g.mapThreads fun l t => if hasBit m.sel l then f g l t else t

/-- R157, R158: the branches: a BR that does not record moves each thread by its own predicate, BRA every thread of the group by a uniform register. -/
def Sys2Proof.Claim.Branches : Prop :=
  (∀ (q : Fin 64) (sense : Bool) (o : BitVec 17), Completes (.br q sense false o) (fun _ _ => True) fun s b =>
    onSelected s b fun _ _ t => standing t (if xor (t.pred q.val) sense then targetOf b o.toInt else b.after)) ∧
  (∀ o : BitVec 16, Completes (.bra o) (fun _ _ => True) fun s b => onSelected s b fun _ _ t => standing t (targetOf b o.toInt)) ∧
  (∀ (c : Fin 128) (o : BitVec 16), Completes (.braZ c o) (fun _ _ => True) fun s b =>
    onSelected s b fun g _ t => standing t (if g.s[c.val] = 0 then targetOf b o.toInt else b.after)) ∧
  (∀ (c : Fin 128) (o : BitVec 16), Completes (.braNz c o) (fun _ _ => True) fun s b =>
    onSelected s b fun g _ t => standing t (if g.s[c.val] = 0 then b.after else targetOf b o.toInt))

/-- R160: the thread `l` of a group pushes the offset of the next clause. -/
def Sys2Proof.pushing (b : Bundle) (s : State) (x : Member × Group) : State :=
  (maskLanes x.1.sel).foldl (fun s l => s.setCallEntry x.2 l (x.2.threads[l]).depth b.after) s

/-- R156, R160: CALL pushes the offset of the next clause where the call stack has room, and RET pops it; the threads for which the stack
has no room or no entry raise class 0x06 and do neither. -/
def Sys2Proof.Claim.CallsAndReturns : Prop :=
  (∀ o : BitVec 22, Completes (.call o)
    (fun s b => ∀ m ∈ s.members b, ∀ g, s.group? b.core m.slot = some g → ∀ l : Lane, hasBit m.sel l = true → (g.threads[l]).depth < s.callRoom g)
    fun s b => (groupsOf s b).foldl (pushing b) (onSelected s b fun _ _ t => { standing t (targetOf b o.toInt) with depth := t.depth + 1 })) ∧
  Completes .ret
    (fun s b => ∀ m ∈ s.members b, ∀ g, s.group? b.core m.slot = some g → ∀ l : Lane, hasBit m.sel l = true → 0 < (g.threads[l]).depth)
    (fun s b => onSelected s b fun g l t => { standing t (s.callEntry g l (t.depth - 1)) with depth := t.depth - 1 })

/-! ### Traps that a word raises (R164, R398 to R400) -/

/-- R398, R400: the threads `lanes` of a group trap: each that has not exited stands at the word, or past it under `after`, with the
first trap that it has recorded. -/
def Sys2Proof.trapping (b : Bundle) (after : Bool) (lanes : Lane → Bool) (cls : Nat) (detail : List Word) (g : Group) : Group :=
  g.mapThreads fun l t => if lanes l && !t.gone then
    { (t.standAt b (if after then b.idx + 1 else b.here) .ready) with trap := some (t.trap.getD ⟨cls, b.offset b.here, detail⟩) } else t

/-- No group of the bundle is in handler mode. -/
def Sys2Proof.NoHandler (s : State) (b : Bundle) : Prop := ∀ m ∈ s.members b, ∀ g, s.group? b.core m.slot = some g → g.handler = none

/-- R162, R163: EXIT ends the threads and discards their private bytes; YIELD keeps them from every bundle in the 32 cycles after its own. -/
def Sys2Proof.Claim.EndsAndYields : Prop :=
  Completes .exit (fun _ _ => True) (fun s b => (groupsOf s b).foldl (fun s x => s.dropOwn x.2 x.1.sel)
    (onSelected s b fun _ _ t => { t with run := .exited, inside := none, trap := none })) ∧
  Completes .yield (fun _ _ => True) (fun s b =>
    onSelected s b fun _ _ t => { standing t b.after with run := .yield ((s.cores[b.core]).cycles + 33) })

/-- R156, R160, R162, R163: CALL, RET, EXIT and YIELD. The choice of log 20 is the model's own. -/
def Obligations.ControlTransfers : Prop := Claim.CallsAndReturns ∧ Claim.EndsAndYields

/-- R121: a thread after LOOPR with counter `c`: the count falls by one, written where the name stood before the turn, and while it is not 0 the ring turns and the
thread goes back. -/
def Sys2Proof.loopedThread (b : Bundle) (c : Fin 128) (step : Fin 8) (o : BitVec 15) (g : Group) (t : Thread) : Thread :=
  let n := t.lane g.ring c.val
  if n = 0 then standing t b.after
  else if n = 1 then standing (t.setLane g.ring c.val 0) b.after
  else { standing (t.setLane g.ring c.val (n - 1)) (b.after - BitVec.ofNat 32 (4 * o.toNat)) with
    turn := if g.ring = 0 then 0 else (t.turn + 2 ^ step.val) % g.ring }

/-- R121, R63: LOOPR. Its word; a step code of 6 or 7 and an offset of 0 fail a static check with class 0x01, and so does a PREFIX; a counter outside the allotment raises class
0x02; and else each thread that the guard selects loops or falls through. -/
def Obligations.LoopBranch : Prop :=
  ∀ (c : Fin 128) (step : Fin 8) (o : BitVec 15), let i := Instr.loopr c step o
    encode i = some (0x7C000000 + c.val * 2 ^ 18 + step.val * 2 ^ 15 + o.toNat) ∧
    (infoOf i).terminal = true ∧ (6 ≤ step.val ∨ o = 0 → (infoOf i).static none = some (false, 0x01)) ∧
    (∀ p, (infoOf i).static (some p) = some (true, 0x01)) ∧
    Completes i (fun s b => ∀ x ∈ groupsOf s b, x.2.inAllot c.val = true) (fun s b => onSelected s b fun g _ t => loopedThread b c step o g t) ∧
    Completes i (fun s b => NoHandler s b ∧ ∀ x ∈ groupsOf s b, x.2.inAllot c.val = false)
      (fun s b => onGroups s b fun m g => trapping b false (fun l => hasBit m.sel l) 0x02 [b.current, BitVec.ofNat 32 (b.idx + 1)] g)

/-- R161: a thread after BRI to the offset `x` in a code image of `size` bytes. -/
def Sys2Proof.jumpedThread (b : Bundle) (size : Nat) (x : Word) (t : Thread) : Thread :=
  let trap := fun (cls : Nat) (cause : Nat) => { (t.standAt b b.here .ready) with trap := some (t.trap.getD ⟨cls, b.offset b.here, vaDetail cause 0⟩) }
  if x.extractLsb' 0 2 ≠ 0 then trap 0x07 0 else if size ≤ x.toNat then trap 0x06 4 else standing t x

/-- R161: BRI: each thread jumps to the offset in its register, through the rotation, or traps where that is not the offset of a word of the code image; no call
stack changes. -/
def Obligations.IndirectBranch : Prop :=
  ∀ a : Fin 128, Completes (.bri a) (fun s b => (∀ x ∈ groupsOf s b, x.2.inAllot a.val = true) ∧ (NoHandler s b ∨ ∀ x ∈ groupsOf s b, ∀ l : Lane,
      hasBit x.1.sel l = true → let t := (x.2.threads[l]).lane x.2.ring a.val; t.extractLsb' 0 2 = 0 ∧ t.toNat < 4 * (s.codeOf x.2).length))
    fun s b => onSelected s b fun g _ t => jumpedThread b (4 * (s.codeOf g).length) (t.lane g.ring a.val) t

/-- R164: TRAPC at the end of its clause: each thread that the guard selects and for which the test is true has the trap of class 0x16, with the argument in its record and
the word as its faulting word, and stands where it resumes, at the next clause; every other selected thread goes on there. -/
def Obligations.TrapTest : Prop :=
  ∀ (q : Fin 64) (sense : Bool) (arg : BitVec 8), Completes (.trapc q sense arg) (fun s b => NoHandler s b ∧ b.words.length = b.idx + 1)
    fun s b => onSelected s b fun _ _ t =>
      if xor (t.pred q.val) sense then { standing t b.after with trap := some (t.trap.getD ⟨0x16, b.offset b.idx, [arg.zeroExtend 32]⟩) } else standing t b.after

/-! ### Special registers (R123 to R125, R403) -/

/-- R125: the thread-scope numbers. -/
def Sys2Proof.threadScope : List Nat := [0x00, 0x01, 0x0A, 0x11, 0x12, 0x13]

/-- R88, R125: the value of a thread-scope register for the lane `l` of a group. -/
def Sys2Proof.threadRegister (s : State) (g : Group) (l : Lane) (n : Nat) : Word :=
  let tid := 32 * g.gid + l.val
  let shape := s.shapeOf g
  BitVec.ofNat 32 (match n with
    | 0x00 => l.val
    | 0x01 => tid
    | 0x0A => (g.threads[l]).turn
    | 0x11 => tid % shape.1
    | 0x12 => tid / shape.1 % shape.2.1
    | _ => tid / (shape.1 * shape.2.1))

/-- R125, R403: the group- and core-scope registers that hold a field of the state, with their values. -/
def Sys2Proof.groupRegisters (s : State) (c : CoreId) (k : Slot) (g : Group) : List (Nat × Word) :=
  let x := s.cores[c]
  [(0x02, BitVec.ofNat 32 g.gid), (0x05, BitVec.ofNat 32 (classOfChip (chipOf c).val)), (0x06, BitVec.ofNat 32 g.contract),
   (0x07, BitVec.ofNat 32 k.val), (0x08, BitVec.ofNat 32 x.cycles), (0x09, g.cychi), (0x0B, BitVec.ofNat 32 g.ring), (0x0C, g.allocWord),
   (0x0D, g.sticky), (0x0E, g.seed.extractLsb' 0 32), (0x0F, g.seed.extractLsb' 32 32), (0x40, x.hentry), (0x41, x.wdlim),
   (0x43, x.barlimt), (0x44, x.barlimc), (0x45, x.qlim), (0x46, x.tctl), (0x48, x.bp[0]), (0x49, x.bp[1]), (0x4A, x.bp[2]),
   (0x4B, x.bp[3]), (0x4C, x.bpctx), (0x4D, x.step), (0x4E, if g.handler.isSome then 1 else 0), (0x50, BitVec.ofNat 32 g.ctx.val)]

/-- R74: every group of the bundle may use the special number `n`: from 0x40 on only handler code may. -/
def Sys2Proof.MayRead (s : State) (b : Bundle) (n : Nat) : Prop :=
  ∀ m ∈ s.members b, ∀ g, s.group? b.core m.slot = some g → 0x40 ≤ n → g.handler.isSome = true

/-- R125: a read of %cycles latches the high half of the counter. -/
def Sys2Proof.latching (s : State) (c : CoreId) (n : Nat) (g : Group) : Word := if n = 0x08 then BitVec.ofNat 32 ((s.cores[c]).cycles / 2 ^ 32) else g.cychi

/-- R123: SREAD into a uniform register reads each group- and core-scope register; into a lane register it gives each thread of the bundle
the register's value for that thread. The choice of log 3 is the model's own. -/
def Obligations.SpecialRegisterReads : Prop :=
  ∀ (d a : Fin 128),
    (a.val ∉ threadScope → Completes (.sread d a) (fun s b => MayRead s b a.val) fun s b =>
      onGroups s b fun m g => { g with
        s := g.s.set d (((groupRegisters s b.core m.slot g).lookup a.val).getD (s.groupSpecial b.core m.slot g a.val))
        cychi := latching s b.core a.val g }) ∧
    Completes (.sreadV d a) (fun s b => MayRead s b a.val ∧ InAllot s b (infoOf (.sreadV d a))) fun s b =>
      onGroups s b fun m g => { g.mapThreads (fun l t => if hasBit m.sel l then t.setLane g.ring d.val (if a.val ∈ threadScope then threadRegister s g l a.val
          else ((groupRegisters s b.core m.slot g).lookup a.val).getD (s.groupSpecial b.core m.slot g a.val)) else t) with
        cychi := latching s b.core a.val g }

/-- R4, R123: SREAD.CLR reads %sticky and clears the bits of its mask; SREAD.XCHG exchanges half of the SR seed. -/
def Sys2Proof.Claim.SpecialRegisterExchanges : Prop :=
  ∀ (d : Fin 128),
    (∀ b : USrc, Completes (.sreadClr d 0x0D b) (fun _ _ => True) fun s bn => onGroups s bn fun _ g =>
      { g with s := g.s.set d g.sticky
               sticky := g.sticky &&& ~~~(match b with | .reg n => g.s[n.val] | .imm m => m.signExtend 32) }) ∧
    (∀ b : Fin 128,
      Completes (.sreadXchg d 0x0E b) (fun _ _ => True) (fun s bn => onGroups s bn fun _ g =>
        { g with s := g.s.set d (g.seed.extractLsb' 0 32), seed := g.seed.extractLsb' 32 32 ++ g.s[b.val] }) ∧
      Completes (.sreadXchg d 0x0F b) (fun _ _ => True) fun s bn => onGroups s bn fun _ g =>
        { g with s := g.s.set d (g.seed.extractLsb' 32 32), seed := g.s[b.val] ++ g.seed.extractLsb' 0 32 })

/-- R403: the core-scope registers that SWRITE writes, with the values that each accepts and what it keeps of them. -/
def Sys2Proof.coreRegisters : List (Nat × (Word → Bool) × (Core → Word → Core)) :=
  let limit : Word → Bool := fun v => v == 0 || decide (2 ^ 10 ≤ v.toNat)
  [(0x40, fun v => decide (v.toNat % 4 = 0), fun x v => { x with hentry := v }), (0x41, limit, fun x v => { x with wdlim := v }),
   (0x43, limit, fun x v => { x with barlimt := v }), (0x44, limit, fun x v => { x with barlimc := v }),
   (0x45, limit, fun x v => { x with qlim := v }), (0x46, fun _ => true, fun x v => { x with tctl := v &&& 1 }),
   (0x48, fun _ => true, fun x v => { x with bp := x.bp.set 0 (v &&& 0x83FFFFFC) }),
   (0x49, fun _ => true, fun x v => { x with bp := x.bp.set 1 (v &&& 0x83FFFFFC) }),
   (0x4A, fun _ => true, fun x v => { x with bp := x.bp.set 2 (v &&& 0x83FFFFFC) }),
   (0x4B, fun _ => true, fun x v => { x with bp := x.bp.set 3 (v &&& 0x83FFFFFC) }),
   (0x4C, fun _ => true, fun x v => { x with bpctx := v &&& 0x7F }), (0x4D, fun _ => true, fun x v => { x with step := v &&& 0x1F1F })]

/-- Every group of the bundle is in handler mode. -/
def Sys2Proof.InHandler (s : State) (b : Bundle) : Prop := ∀ m ∈ s.members b, ∀ g, s.group? b.core m.slot = some g → g.handler.isSome = true

/-- R124, R403: SWRITE by handler code: %sticky loses the bits that are 1, a half of the seed is replaced, and a core register takes a
value that it accepts; each group of the bundle writes in ascending slot order. -/
def Sys2Proof.Claim.SpecialRegisterWrites : Prop :=
  ∀ (a : Fin 128),
    Completes (.swrite 0x0D a) InHandler (fun s b => onGroups s b fun _ g => { g with sticky := g.sticky &&& ~~~g.s[a.val] }) ∧
    Completes (.swrite 0x0E a) InHandler (fun s b => onGroups s b fun _ g => { g with seed := g.seed.extractLsb' 32 32 ++ g.s[a.val] }) ∧
    Completes (.swrite 0x0F a) InHandler (fun s b => onGroups s b fun _ g => { g with seed := g.s[a.val] ++ g.seed.extractLsb' 0 32 }) ∧
    ∀ r ∈ coreRegisters, ∀ d : Fin 128, d.val = r.1 →
      Completes (.swrite d a) (fun s b => InHandler s b ∧ ∀ x ∈ groupsOf s b, r.2.1 x.2.s[a.val] = true) fun s b =>
        (groupsOf s b).foldl (fun s x => s.modCore b.core fun y => r.2.2 y x.2.s[a.val]) s

/-- R4, R123, R124, R403: the words that write special registers. The choice of log 86 is the model's own. -/
def Obligations.SpecialRegisterWrites : Prop := Claim.SpecialRegisterExchanges ∧ Claim.SpecialRegisterWrites

/-- R74, R400: outside handler mode the word raises class 0x03 for the threads of its bundle, and does nothing else. -/
def Sys2Proof.TurnedAway (i : Instr) : Prop :=
  Completes i NoHandler fun s b => onGroups s b fun m g => trapping b false (fun l => hasBit m.sel l) 0x03 [b.current] g

/-- R74, R123, R124: the privileged words, and the reads of special numbers from 0x40 on, are turned away outside handler mode. -/
def Obligations.PrivilegedWords : Prop :=
  ∀ (d a : Fin 128) (n : Fin 8) (r : Fin 32) (b : USrc),
    TurnedAway (.swrite d a) ∧ TurnedAway (.segld n a) ∧ TurnedAway (.segrd d n) ∧ TurnedAway .eret ∧ TurnedAway .eretStep ∧
    TurnedAway .eretKill ∧ TurnedAway .eretOut ∧ TurnedAway (.ctxRd d a b) ∧ TurnedAway (.ctxRdv d a) ∧ TurnedAway (.ctxWr d a b) ∧
    TurnedAway (.ctxWrv d a) ∧ TurnedAway (.ctxSave r) ∧ TurnedAway (.ctxRest r) ∧
    (0x40 ≤ a.val → TurnedAway (.sread d a) ∧ TurnedAway (.sreadV d a))

/-! ### TRAP, ERET and CTX (R401, R402, R404 to R407) -/

/-- R402: a group in handler mode that raises a trap ends its team, which is logged. -/
def Sys2Proof.killing (cls : Nat) (b : Bundle) (s : State) : State :=
  s.eachMember b fun m s => match s.group? b.core m.slot with
    | some g => (s.killTeam g.team cls).logged (.killed b.core m.slot cls)
    | none => s

/-- R402, R404: TRAP raises class 0x16 with its argument, past the word; in handler mode it ends the team. -/
def Sys2Proof.Claim.TrapWords : Prop :=
  (∀ n : Fin 128,
    Completes (.trapImm n) NoHandler (fun s b =>
      onGroups s b fun m g => trapping b true (fun l => hasBit m.sel l) 0x16 [BitVec.ofNat 32 n.val] g) ∧
    Completes (.trapImm n) InHandler fun s b => killing 0x16 b s) ∧
  (∀ a : Fin 128,
    Completes (.trapReg a) NoHandler (fun s b =>
      onGroups s b fun m g => trapping b true (fun l => hasBit m.sel l) 0x16 [g.s[a.val] &&& 0xFF#32] g) ∧
    Completes (.trapReg a) InHandler fun s b => killing 0x16 b s)

/-- R405, R406: what a thread has after ERET when ESTATE names no wait, no clause and no park: it stands at EPC with its v0 and v1. -/
def Sys2Proof.Returned (d : Delivery) (t u : Thread) : Prop :=
  u.v = (t.v.set 0 t.sv0).set 1 t.sv1 ∧ u.q = t.q ∧ u.depth = t.depth ∧ u.turn = t.turn ∧
  u.trap = (if (t.trap.map fun x => x.cls) = some d.cls then none else t.trap) ∧
  (fieldOf t.estate.toNat 1 7 = 0 → u.run = .ready ∧ u.pc = t.epc ∧ u.inside = none)

/-- R405, R414: ERET brings each group of the bundle out of the handler, with s124 to s127 and each thread's v0 and v1 as they were, and
clears the traps that were delivered (threads that go on waiting in an HWAIT, which may be answered at once, apart: R397); ERET.STEP then steps
the thread that %step names. -/
def Sys2Proof.Claim.ReturnFromTrap : Prop :=
  Completes .eret InHandler (fun s b => (s.members b).foldl (fun s m => s.leaveHandler b.core m.slot) s) ∧
  (∀ s b, Issues s b (infoOf .eret) → InHandler s b → ∃ t, exec .eret s = .next t ∧
    exec .eretStep s = .next ((s.members b).foldl (fun t m => t.stepNamed b.core m.slot) t)) ∧
  ∀ (s : State) (c : CoreId) (k : Slot) (g : Group) (d : Delivery), s.group? c k = some g → g.handler = some d →
    (∀ l : Lane, (g.threads[l]).gone = false → (g.threads[l]).estate.extractLsb' 4 4 ≠ 5) →
    ∃ h, (s.leaveHandler c k).group? c k = some h ∧ h.handler = none ∧ h.tiles = g.tiles ∧ h.b = g.b ∧ h.allot = g.allot ∧
      (∀ n : Fin 128, n.val < 124 → h.s[n] = g.s[n]) ∧ (∀ i : Fin 4, h.uni (124 + i.val) = d.shadow[i]) ∧
      ∀ l : Lane, (g.threads[l]).gone = false → Returned d g.threads[l] h.threads[l]

/-- R405, R411: ERET.KILL ends the team of each group of the bundle with the class delivered; ERET.OUT, in the handler of a pre-emption
whose operations are done, empties the slot and notes the group as out of its team, with the lane rows and the tiles that it keeps until the team is. -/
def Sys2Proof.Claim.HandlerEnds : Prop :=
  Completes .eretKill InHandler (fun s b => s.eachMember b fun m s => match s.group? b.core m.slot with
    | some g => (s.killTeam g.team ((g.handler.map fun d => d.cls).getD 0)).logged (.killed b.core m.slot ((g.handler.map fun d => d.cls).getD 0))
    | none => s) ∧
  Completes .eretOut (fun s b => (∀ m ∈ s.members b, s.outWaits b m = false) ∧
      ∀ x ∈ groupsOf s b, ∃ d, x.2.handler = some d ∧ d.cls = 0x17 ∧ d.restore = false)
    (fun s b => (groupsOf s b).foldl (fun s x => ((s.clearSlot b.core x.1.slot).modTeam x.2.team fun t =>
      { t with out := t.out ++ [⟨x.2.gid, laneMask fun l => (x.2.threads[l]).gone, x.2.lanes, x.2.tiles.length⟩] }).suspendTeam x.2.team) s)

/-- R405, R411, R414: every form of ERET. The choices of log 46, 84 and 91 are the model's own. -/
def Obligations.ReturnFromTrap : Prop := Claim.ReturnFromTrap ∧ Claim.HandlerEnds

/-- A form's source value as it stands: a uniform register, or the immediate zero-extended. -/
def Sys2Proof.resetValue (g : Group) : USrc → Nat
  | .reg n => (g.s[n.val]).toNat
  | .imm m => m.toNat

/-- R406: CTX.RD and CTX.RDV read the items of the group and of its threads, and CTX.WR and CTX.WRV write them; the shadows of v0 and v1 once no
atomic of kernel code is still to write there. -/
def Sys2Proof.Claim.ContextItems : Prop :=
  ∀ (d a : Fin 128) (b : USrc),
    Completes (.ctxRd d a b) (fun s bn => InHandler s bn ∧ ∀ x ∈ groupsOf s bn, resetValue x.2 b < (ctxIndices a.val).getD 0) (fun s bn =>
      onGroups s bn fun m g => { g with s := g.s.set d (s.groupItem bn.core m.slot g a.val (resetValue g b)) }) ∧
    Completes (.ctxRdv d a) (fun s bn => InHandler s bn ∧ InAllot s bn (infoOf (.ctxRdv d a)) ∧ ∀ m ∈ s.members bn, s.shadowWaits a.val bn m = false) (fun s bn =>
      onGroups s bn fun _ g => g.mapThreads fun _ t => if t.gone then t else t.setLane g.ring d.val (t.item a.val)) ∧
    Completes (.ctxWrv d a) (fun s bn => InHandler s bn ∧ (∀ m ∈ s.members bn, s.shadowWaits d.val bn m = false) ∧ ∀ x ∈ groupsOf s bn, x.2.inAllot a.val = true ∧
        (d.val = 2 → ∀ l : Lane, (x.2.threads[l]).gone = false → ((x.2.threads[l]).lane x.2.ring a.val).toNat ≤ s.depthLimit x.2)) (fun s bn =>
      onGroups s bn fun _ g => g.mapThreads fun _ t => if t.gone then t else t.setItem g.ring d.val (t.lane g.ring a.val)) ∧
    Completes (.ctxWr 0x23 a b) (fun s bn => InHandler s bn ∧ ∀ x ∈ groupsOf s bn, resetValue x.2 b < 4) (fun s bn =>
      onGroups s bn fun _ g => { g with handler := g.handler.map fun y =>
        { y with shadow := y.shadow.set (⟨resetValue g b % 4, Nat.mod_lt _ (by decide)⟩ : Fin 4) g.s[a.val] } }) ∧
    Completes (.ctxWr 0x24 a b) (fun s bn => InHandler s bn ∧ ∀ x ∈ groupsOf s bn, resetValue x.2 b < 1) (fun s bn =>
      onGroups s bn fun _ g => { g with sticky := g.s[a.val] &&& 7 }) ∧
    Completes (.ctxWr 0x25 a b) (fun s bn => InHandler s bn ∧ ∀ x ∈ groupsOf s bn, resetValue x.2 b < 2) (fun s bn =>
      onGroups s bn fun _ g => { g with seed := (
        if resetValue g b = 0 then g.seed.extractLsb' 32 32 ++ g.s[a.val] else g.s[a.val] ++ g.seed.extractLsb' 0 32) })

/-- R407, R314: CTX.SAVE for one group whose image area is translated: its handle-fed calls have read their vectors, and each byte of the image is
stored where it belongs. -/
def Sys2Proof.savedImage (b : Bundle) (r : Fin 32) (m : Member) (g : Group) (s : State) : State :=
  let u := s.readCalls b.core m.slot
  match u.placeGroup b m r.val (imageAccess 1 (u.esize b.core m.slot g) g.b[r]) 0 with
  | (u, none) => u
  | (u, some q) =>
    let im := u.imageOf b.core m.slot g
    let v := { u with nextId := u.nextId + 1, board := { u.board with saved := im :: u.board.saved } }.atWrite b.core m.slot m.sel
    q.elems.foldl (fun w e => (w.storeElem b.core m.slot m.sel (v.pastOf b.core m.slot m.sel) none (w.storeWay b.core (Rec.of g.b[r]) {}) [] e.1 e.2
      (Config.imageByte im.id e.1.n).toNat).1) v

/-- R407: CTX.REST for one group puts back the image that its record holds, once all its bytes are translated and read; a record that holds none raises class 0x06. -/
def Sys2Proof.restoredImage (b : Bundle) (r : Fin 32) (m : Member) (g : Group) (s : State) : State :=
  let refuse := fun u : State => u.raise b m.slot (fun l => hasBit m.sel l) 0x06 (vaDetail 0 0)
  match s.placeGroup b m r.val (imageAccess 0 (s.esize b.core m.slot g) g.b[r]) 0 with
  | (u, none) => u
  | (u, some _) =>
    match (u.imageAt b.core m.slot g g.b[r] none).orElse fun _ => u.imageAt b.core m.slot g g.b[r] (some (s.esize b.core m.slot g)) with
    | none => refuse u
    | some im => match u.placeGroup b m r.val (imageAccess 0 im.size g.b[r]) 0 with
      | (v, none) => v
      | (v, some q) => match v.imageRead b m im q.elems with
        | (w, true) => match w.group? b.core m.slot with
          | some h => w.putBack b.core m.slot h im
          | none => w
        | (w, false) => refuse w

/-- R407, R410: in the handler of a pre-emption, once the operations that a save does not keep are done, CTX.SAVE writes the group's
image; in the handler of a restore, once the allotment is granted and the entries fit, CTX.REST puts an image back. -/
def Sys2Proof.Claim.ContextImages : Prop :=
  ∀ r : Fin 32,
    Completes (.ctxSave r) (fun s b => ∃ m g d, s.members b = [m] ∧ s.group? b.core m.slot = some g ∧ g.handler = some d ∧ d.cls = 0x17 ∧
        d.restore = false ∧ s.outWaits b m = false)
      (fun s b => s.eachMember b fun m s => match s.group? b.core m.slot with
        | some g => savedImage b r m g s
        | none => s) ∧
    Completes (.ctxRest r) (fun s b => ∃ m g d, s.members b = [m] ∧ s.group? b.core m.slot = some g ∧ g.handler = some d ∧ d.cls = 0x17 ∧
        d.restore = true ∧ s.restReady b m r = (s, true))
      (fun s b => s.eachMember b fun m s => match s.group? b.core m.slot with
        | some g => restoredImage b r m g s
        | none => s)

/-- R406, R407, R410: every form of CTX. The choices of log 16, 43 and 84 are the model's own. -/
def Obligations.ContextItemsAndImages : Prop := Claim.ContextItems ∧ Claim.ContextImages

/-! ### Segments and buffer records (R183 to R187) -/

/-- Four uniform registers from `a`, lowest first. -/
def Sys2Proof.four (g : Group) (a : Nat) : BitVec 128 := g.uni (a + 3) ++ g.uni (a + 2) ++ g.uni (a + 1) ++ g.uni a

/-- A group with four uniform registers from `d` replaced. -/
def Sys2Proof.putFour (g : Group) (d : Nat) (x : BitVec 128) : Group :=
  (List.range 4).foldl (fun h n => { h with s := h.s.set (regIx (d + n)) (x.extractLsb' (32 * n) 32) }) g

/-- A record with `width` bits from bit `at_` replaced. -/
def Sys2Proof.field (x : BitVec 128) (at_ width v : Nat) : BitVec 128 :=
  (x &&& ~~~(BitVec.ofNat 128 (2 ^ width - 1) <<< at_)) ||| (BitVec.ofNat 128 (v % 2 ^ width) <<< at_)

/-- R187: the record after RECSET writes a field of a value that the form accepts. -/
def Sys2Proof.Resets (i : Instr) (r : Fin 32) (ok : Group → Prop) (f : Group → BitVec 128 → BitVec 128) : Prop :=
  Completes i (fun s b => ∀ x ∈ groupsOf s b, ok x.2) fun s b => onGroups s b fun _ g => { g with b := g.b.set r (f g g.b[r]) }

/-- R188: the effective stride of a record. -/
def Sys2Proof.strideOf (x : BitVec 128) : Nat := if x.extractLsb' 96 16 = 0 then 2 ^ (x.extractLsb' 61 3).toNat else (x.extractLsb' 96 16).toNat

/-- R183, R186, R187: the words that read and write segments and records, with the fields of R184. The choice of log 94 is the model's own. -/
def Obligations.SegmentsAndRecords : Prop :=
  (∀ (n : Fin 8) (a : Fin 128),
    Completes (.segld n a) (fun s b => InHandler s b ∧ ∀ x ∈ groupsOf s b, (four x.2 a.val).extractLsb' 121 7 = 0 ∧
        (four x.2 a.val).extractLsb' 58 6 = 0 ∧ (n = 6 → (four x.2 a.val).getLsbD 57 = true))
      (fun s b => onGroups s b fun _ g => { g with seg := g.seg.set n (four g a.val) }) ∧
    Completes (.segrd a n) InHandler (fun s b => onGroups s b fun _ g => putFour g a.val g.seg[n])) ∧
  ∀ (r : Fin 32) (a c : Fin 128) (b : USrc),
    Completes (.recld r a) (fun _ _ => True) (fun s bn => onGroups s bn fun _ g => { g with b := g.b.set r (four g a.val) }) ∧
    Completes (.recrd a r) (fun _ _ => True) (fun s bn => onGroups s bn fun _ g => putFour g a.val g.b[r]) ∧
    Resets (.recsetBase r a c) r (fun g => (g.s[c.val]).toNat < 2 ^ 25)
      (fun g x => field x 0 57 ((g.s[c.val]).toNat * 2 ^ 32 + (g.s[a.val]).toNat)) ∧
    Resets (.recsetExt r b) r (fun _ => True) (fun g x => field x 64 32 (resetValue g b)) ∧
    Resets (.recsetStride r b) r (fun g => resetValue g b ≤ 0xFFFF) (fun g x => field x 96 16 (resetValue g b)) ∧
    Resets (.recsetSwz r b) r (fun g => resetValue g b ≤ 15) (fun g x => field x 112 4 (resetValue g b)) ∧
    Resets (.recsetTag r b) r (fun g => resetValue g b ≤ 63) (fun g x => field x 122 6 (resetValue g b)) ∧
    Resets (.recsetFlags r b) r (fun g => resetValue g b ≤ 63) (fun g x => field x 116 6 (resetValue g b)) ∧
    Resets (.recsetFmt r b) r (fun g => resetValue g b ≤ 127) (fun g x => field x 57 7 (resetValue g b)) ∧
    Resets (.recsetAdv r b) r (fun _ => True) (fun g x =>
      let v := (g.usrc b).toInt
      field (field x 0 57 ((((x.extractLsb' 0 57).toNat : Int) + v * strideOf x) % 2 ^ 57).toNat) 64 32
        (max 0 (min (2 ^ 32 - 1) (((x.extractLsb' 64 32).toNat : Int) - v))).toNat)

/-! ### Memory words in the scratch of a cluster (R188 to R207, R252) -/

/-- R252: the byte at an offset of a team's scratch: the partitions of its cores stand one after the other. -/
def Sys2Proof.scratchCell (s : State) (t : Team) (off : Nat) : CoreId × Nat :=
  let p := (s.cores[t.core]).part
  if p = 0 then (t.cores.getD 0 t.core, off) else (t.cores.getD (off / p) t.core, off % p)

/-- The little-endian value of `n` bytes of a team's scratch. -/
def Sys2Proof.scratchValue (s : State) (t : Team) (off n : Nat) : Nat :=
  ((List.range n).map fun i => (getCell (s.cores[(scratchCell s t (off + i)).1]).scratch (scratchCell s t (off + i)).2).toNat * 2 ^ (8 * i)).sum

/-- The state with the low `n` bytes of a value at an offset of a team's scratch. -/
def Sys2Proof.scratchPut (t : Team) (off n x : Nat) (s : State) : State :=
  (List.range n).foldl (fun s i => s.modCore (scratchCell s t (off + i)).1 fun y =>
    { y with scratch := setCell y.scratch (scratchCell s t (off + i)).2 (BitVec.ofNat 8 (x / 2 ^ (8 * i))) }) s

/-- R185, R188, R190, R206: the element `n` of the record in `r` is an element of `size` bytes in scratch that passes every check. -/
structure Sys2Proof.InScratch (g : Group) (r : Fin 32) (write : Bool) (size : Nat) (n : Int) : Prop where
  seg    : (Rec.of g.b[r]).seg = 2
  legal  : (Rec.of g.b[r]).legal false = true
  fits   : size ≤ 2 ^ (Rec.of g.b[r]).size
  mayset : write = true → (Rec.of g.b[r]).ro = false ∧ segReadOnly (g.seg[2]) = false
  inside : 0 ≤ n ∧ n < (Rec.of g.b[r]).extent
  limit  : (Rec.of g.b[r]).offset n.toNat + size ≤ segLimit (g.seg[2])
  align  : (Rec.of g.b[r]).offset n.toNat % size = 0

/-- R188: the offset of the element that lane `l` reaches at position `p` of a block under the index register `i`. -/
def Sys2Proof.laneOffset (g : Group) (r : Fin 32) (i : Fin 128) (l : Lane) (p : Nat) : Nat :=
  (Rec.of g.b[r]).offset (((g.threads[l]).lane g.ring i.val).toInt + (p : Int)).toNat

/-- R56: the positions of a block. -/
def Sys2Proof.positions (e : Ext) : List Nat := List.range ((extShape e).1 * (extShape e).2)

/-- Every element of every active lane is a word of scratch, and each group's team is resident. -/
def Sys2Proof.LanesInScratch (s : State) (b : Bundle) (e : Ext) (r : Fin 32) (i : Fin 128) (write : Bool) : Prop :=
  ∀ x ∈ groupsOf s b, (∃ t, s.team? x.2.team = some t) ∧ (Rec.of x.2.b[r]).legal false = true ∧ 2 ≤ (Rec.of x.2.b[r]).size ∧
    (write = true → (Rec.of x.2.b[r]).ro = false) ∧
    ∀ l : Lane, x.2.active x.1 (prefixOf b) l = true → ∀ p ∈ positions e,
      InScratch x.2 r write 4 (((x.2.threads[l]).lane x.2.ring i.val).toInt + (p : Int))

/-- R68, R120: the writes of a word that loads: `f` gives the word of each active lane at each position; an inactive lane gets zero under
ZERO. -/
def Sys2Proof.loadedWrites (b : Bundle) (e : Ext) (d : Fin 128) (m : Member) (g : Group) (f : Lane → Nat → Nat) : List LaneWrite :=
  (if (prefixOf b).zero then (List.finRange 32).flatMap fun l : Lane =>
    if hasBit m.sel l && !g.active m (prefixOf b) l then
      (positions e).map fun p => ⟨l, rowOf g.ring (g.threads[l]).turn (d.val + posOff e p), 0, 32, 0⟩ else [] else []) ++
  (List.finRange 32).flatMap fun l : Lane => if g.active m (prefixOf b) l then
    (positions e).map fun p => ⟨l, rowOf g.ring (g.threads[l]).turn (d.val + posOff e p), 0, 32, f l p⟩ else []

/-- A group without what orders its accesses. -/
def Sys2Proof.unorderedGroup (g : Group) : Group :=
  { g with threads := g.threads.map fun t => { t with ord := .none }, tokens := g.tokens.map fun t => { t with did := .none } }

/-- The device without what orders accesses and without the numbers from `n` on (log 7). Every register, token, operation, table, cache and byte stays. -/
def Sys2Proof.unordered (n : Nat) (s : State) : State :=
  { s with hist := [], writes := [], reads := [], rereads := [], fences := [], outside := [], chains := [], fresh := 0, nextId := 0
           board := { s.board with clocks := Vector.replicate 17 (Vector.replicate 17 0) }
           ops := s.ops.map fun o => { o with id := min o.id n, view := .none, did := .none }
           cores := s.cores.map fun x => { x with slots := x.slots.map (Option.map unorderedGroup) } }

/-- The word completes: where `when_` holds, it leaves the state `u`, but for what orders accesses. Nothing else changes. -/
def Sys2Proof.CompletesBut (i : Instr) (when_ : State → Bundle → Prop) (u : State → Bundle → State) : Prop :=
  ∀ s b, Issues s b (infoOf i) → when_ s b → ∃ t, exec i s = .next t ∧ Agrees (unordered s.nextId (u s b)) (unordered s.nextId t)

/-- R220: each write to scratch has been seen by all that read there, so that a read takes what the scratch holds. -/
def Sys2Proof.ScratchSettled (s : State) : Prop := ∀ v ∈ s.hist, ∀ c n, v.place ≠ .scratch c n

/-- The words that the active lanes of a group store, lanes and positions ascending. -/
def Sys2Proof.storingLanes (b : Bundle) (e : Ext) (d : Fin 128) (r : Fin 32) (i : Fin 128) (s : State) (x : Member × Group) : State :=
  match s.team? x.2.team with
  | none => s
  | some t => (List.finRange 32).foldl (fun s l => if x.2.active x.1 (prefixOf b) l then
      (positions e).foldl (fun s p => scratchPut t (laneOffset x.2 r i l p) 4 ((x.2.threads[l]).lane x.2.ring (d.val + posOff e p)).toNat s) s
    else s) s

/-- The word of scratch that a lane loads at a position. -/
def Sys2Proof.scratchWord (_ : Ext) (r : Fin 32) (i : Fin 128) (s : State) (_ : Bundle) (g : Group) (l : Lane) (p : Nat) : Word :=
  match s.team? g.team with
  | some t => BitVec.ofNat 32 (scratchValue s t (laneOffset g r i l p) 4)
  | none => 0

/-- R197 to R203, R252: 32-bit loads and stores in scratch. LD attaches an operation whose results are the words read, ST stores the words
of the registers, and LDA starts its token for an operation that holds the words read. Nothing else changes but the order of later accesses. LD and LDA
complete with their operations: the words are in the registers, and the token of LDA holds its status word. -/
def Sys2Proof.Claim.ScratchLoadsAndStores : Prop :=
  ∀ (e : Ext) (d i : Fin 128) (r : Fin 32),
    let loads := fun (s : State) (b : Bundle) (m : Member) (g : Group) => loadedWrites b e d m g fun l p => (scratchWord e r i s b g l p).toNat
    CompletesBut (.ld e d r 4 i) (fun s b => InAllot s b (infoOf (.ld e d r 4 i)) ∧ LanesInScratch s b e r i false ∧ ScratchSettled s ∧ (prefixOf b).rnd = 0)
      (fun s b => starting s b (fun _ g => { g with pip := g.pip.set b.attach (g.pip[b.attach] + 1) }) fun m g => .pip b.attach (loads s b m g) 0 [] false) ∧
    ThenDone (.ld e d r 4 i) .pipOperationComplete (fun s b _ => LanesInScratch s b e r i false ∧ ScratchSettled s ∧ (prefixOf b).rnd = 0)
      (fun s b m g _ h => h.s = g.s ∧ LaneResults (Block.of e d).regs (scratchWord e r i) s b m g h) ∧
    CompletesBut (.st e d r 4 i) (fun s b => InAllot s b (infoOf (.st e d r 4 i)) ∧ LanesInScratch s b e r i true ∧ ScratchSettled s ∧ (prefixOf b).rnd = 0)
      (fun s b => (groupsOf s b).foldl (storingLanes b e d r i) s) ∧
    ∀ t : Fin 8, CompletesBut (.lda e d r t i) (fun s b => InAllot s b (infoOf (.lda e d r t i)) ∧ LanesInScratch s b e r i false ∧ ScratchSettled s ∧
        ∀ x ∈ groupsOf s b, ∀ y, s.team? x.2.team = some y → (s.cores[y.core]).part % 4 = 0) (fun s b =>
      starting s b (fun _ g => g.startToken (120 + t.val)) fun m g => .lda (120 + t.val) (loads s b m g) [] 0 false false) ∧
      ThenDone (.lda e d r t i) .ldaComplete (fun s b g => LanesInScratch s b e r i false ∧ ScratchSettled s ∧ g.engineHeld = false ∧
          ∀ x ∈ groupsOf s b, ∀ y, s.team? x.2.team = some y → (s.cores[y.core]).part % 4 = 0) fun s b m g _ h =>
        h.s = g.s.set (regIx (120 + t.val)) 0x00000301 ∧ (∃ v, (⟨120 + t.val, true, false, v⟩ : Token) ∈ h.tokens) ∧
        LaneResults (Block.of e d).regs (scratchWord e r i) s b m g h

/-- R206: the element that a ULD or UST reaches is in scratch. -/
def Sys2Proof.GroupInScratch (s : State) (b : Bundle) (r : Fin 32) (a : Fin 128) (write : Bool) (size : Nat) : Prop :=
  ScratchSettled s ∧ ∀ x ∈ groupsOf s b, (∃ t, s.team? x.2.team = some t) ∧ InScratch x.2 r write size (x.2.s[a.val]).toInt

/-- R206: a ULD of `size` bytes into `k` registers starts an operation that holds the registers' values, and completes with it: the values are in the
registers. -/
def Sys2Proof.LoadsUniform (i : Fin 128 → Fin 128 → Fin 32 → Instr) (size k : Nat) (signed : Bool) : Prop :=
  ∀ d a r,
    let off := fun g : Group => (Rec.of g.b[r]).offset ((g.s[a.val]).toInt).toNat
    let values := fun (s : State) (g : Group) =>
      let x := match s.team? g.team with | some t => scratchValue s t (off g) size | none => 0
      let y : Nat := if signed then ((BitVec.ofNat (8 * size) x).signExtend 32).toNat else x
      (List.range k).map fun n => (regIx (d.val + n), BitVec.ofNat 32 (y / 2 ^ (32 * n)))
    ThenDone (i d a r) .uldDataReturn (fun s b _ => GroupInScratch s b r a false size) (fun s b m g _ h =>
      h.s = (values s g).foldl (fun v w => v.set w.1 w.2) g.s ∧ LaneResults [] (fun _ _ _ _ _ => 0) s b m g h) ∧
    CompletesBut (i d a r) (fun s b => GroupInScratch s b r a false size) fun s b =>
      starting s b (fun _ g => g) fun _ g => .uld (values s g) false (g.byteVa (Rec.of g.b[r]) 0 (off g) 0)

/-- R206: a UST stores the low `size` bytes of `k` registers. -/
def Sys2Proof.StoresUniform (i : Fin 128 → Fin 128 → Fin 32 → Instr) (size k : Nat) : Prop :=
  ∀ d a r, CompletesBut (i d a r) (fun s b => GroupInScratch s b r a true size) fun s b =>
    let off := fun g : Group => (Rec.of g.b[r]).offset ((g.s[a.val]).toInt).toNat
    (groupsOf s b).foldl (fun s x => match s.team? x.2.team with
      | some t => scratchPut t (off x.2) size (((List.range k).map fun n => (x.2.uni (d.val + n)).toNat * 2 ^ (32 * n)).sum) s
      | none => s) s

/-- R206: every form of ULD and UST in scratch. -/
def Sys2Proof.Claim.UniformLoadsAndStores : Prop :=
  LoadsUniform .uld 4 1 false ∧ LoadsUniform .uldZ8 1 1 true ∧ LoadsUniform .uldN8 1 1 false ∧ LoadsUniform .uldZ16 2 1 true ∧
  LoadsUniform .uldN16 2 1 false ∧ LoadsUniform .uld64 8 2 false ∧ LoadsUniform .uld128 16 4 false ∧
  StoresUniform .ust 4 1 ∧ StoresUniform .ust8 1 1 ∧ StoresUniform .ust16 2 1 ∧ StoresUniform .ust64 8 2 ∧ StoresUniform .ust128 16 4

/-- R197 to R203, R206, R252: loads and stores of lanes and of groups in the scratch of a cluster. The choice of log 7 is the model's own. -/
def Obligations.ScratchAccess : Prop := Claim.ScratchLoadsAndStores ∧ Claim.UniformLoadsAndStores

/-! ### The checks of an access, and accesses to memory (R188 to R196, R216) -/

/-- R189: the swizzles. -/
def Sys2Proof.swizzled (code a : Nat) : Nat :=
  if code = 1 then a ^^^ (a / 2 ^ 7 % 4 * 16) else if code = 2 then a ^^^ (a / 2 ^ 7 % 8 * 16) else if code = 3 then a ^^^ (a / 2 ^ 10 % 8 * 16)
  else if code = 4 then a ^^^ (a / 2 ^ 7 % 32 * 4) else if code = 5 then a ^^^ (a / 2 ^ 9 % 32 * 4) else a

/-- R190: the class of the first check that an access of one element fails, in the order of the checks. -/
def Sys2Proof.firstFailure (g : Group) (a : Access) (n : Int) (off : Nat) : Option Nat :=
  let r := Rec.of a.record
  let bounds := decide (0 ≤ n) && decide (n < (r.extent : Int))
  if !r.legal a.plyWord || !a.fits then some 0x02
  else if a.kind ≠ 0 ∧ r.ro then some 0x06
  else if !bounds then (if r.trapoob then some 0x04 else none)
  else if segLimit (g.segment r) < off + a.size then some 0x06
  else if (a.kind ≠ 0 ∧ segReadOnly (g.segment r)) ∨ r.seg ∉ a.segs then some 0x06
  else if g.det ∧ a.det then some 0x0E
  else if off % a.align ≠ 0 then some 0x07
  else none

/-- R188 to R191: the offset of an element is the base and its index times the stride, swizzled, which changes only the bits [6:2]; a record with
another swizzle code is not legal; and an access of one element, in a
segment without exact cells, traps with the class of the first check that fails, and else passes, in bounds or out of bounds.
The choices of log 36 and 83 are the model's own. -/
def Obligations.AccessChecks : Prop :=
  (∀ (x : BitVec 128) (n : Nat),
    (Rec.of x).offset n = swizzled (x.extractLsb' 112 4).toNat ((x.extractLsb' 0 57).toNat + n * strideOf x)) ∧
  (∀ code a : Nat, swizzled code a / 2 ^ 7 = a / 2 ^ 7 ∧ swizzled code a % 2 ^ 2 = a % 2 ^ 2) ∧
  (∀ (x : BitVec 128) (ply : Bool), 6 ≤ (x.extractLsb' 112 4).toNat → (Rec.of x).legal ply = false) ∧
  ∀ (g : Group) (a : Access) (cells lane : Nat) (n : Int), a.poss = [0] → (Rec.of a.record).seg ≠ 3 →
    let off := (Rec.of a.record).offset n.toNat
    (∀ cls, firstFailure g a n off = some cls → ∃ d, g.check a cells lane n = .inl (cls, d)) ∧
    (firstFailure g a n off = none → g.check a cells lane n =
      if 0 ≤ n ∧ n < ((Rec.of a.record).extent : Int) then .inr ([⟨0, n.toNat, off, false⟩], []) else .inr ([], [0]))

/-- R199, R207, R223: the L1 may serve the access: its segment is cached, and it is not an ordered access at a scope beyond the core. -/
def Sys2Proof.servedByL1 (b : Bundle) (g : Group) (r : Fin 32) : Bool :=
  segCached (Rec.of g.b[r]).seg && !(decide ((prefixOf b).rnd ≠ 0) && decide (3 ≤ (prefixOf b).scope))

/-- R198, R202: what ST stores for an element: the low bytes of a register, the code of a typed store, or a row of registers. -/
def Sys2Proof.storedElem (e : Ext) (d : Fin 128) (r : Fin 32) (w : Fin 8) (g : Group) (l : Lane) (p : Nat) : Coded :=
  let word := fun n => (g.threads[l]).lane g.ring n
  if w = 6 then ⟨((List.range (extShape e).2).map fun j => (word (d.val + 8 * p + j)).toNat * 2 ^ (32 * j)).sum, false⟩
  else if w = 5 then storeValue 5 (Rec.of g.b[r]).tag (word (d.val + posOff e p))
  else ⟨(word (d.val + posOff e p)).toNat, false⟩

/-- The bytes of some elements. -/
def Sys2Proof.bytesOf (passed : List Passed) : List Target := passed.flatMap fun q => q.elems.flatMap fun x => x.2

/-- R200, R202, R204, R222: a lane of LD loads an element: its results join the operation's, and until they land the element of a plain load may still take effect; an
element with a poisoned byte is not written. -/
def Sys2Proof.loadStep (e : Ext) (d : Fin 128) (r : Fin 32) (w : Fin 8) (b : Bundle) (m : Member) (g : Group) (acq : Option Reach)
    (acc : State × List LaneWrite × List Reread) (x : Lane × View × Elem × List Target) : State × List LaneWrite × List Reread :=
  let s := acc.1
  let (lane, past, elem, ts) := x
  let regs := elemRegs e w.val d.val elem.pos
  if ts.any s.poisonedTarget then acc
  else
    let (t, value, read) := s.loadElem b.core m.slot (oneBit lane.val) past (servedByL1 b g r) acq elem ts
    (t, acc.2.1 ++ elemWrites g lane regs (loadValue w.val (Rec.of g.b[r]).tag value),
      acc.2.2 ++ if acq.isSome || elem.cell then [] else
        [⟨read, 0, b.core, m.slot, oneBit lane.val, regs.map (rowOf g.ring (g.threads[lane]).turn), w.val, (Rec.of g.b[r]).tag, servedByL1 b g r, ts, s.known past, []⟩])

/-- R190, R199, R200, R204, R216, R373: LD of one group, once the checks have left the state `p` and the elements `passed`: an acquire as the ordering says, the lines that
the L1 does not give are met below it, each element loads, the L1 is filled unless the word goes past it, and an operation is attached with the results, zero for an
element out of bounds, and with the lanes that read poison; unless every lane has trapped. -/
def Sys2Proof.loadedFor (b : Bundle) (e : Ext) (d : Fin 128) (r : Fin 32) (w : Fin 8) (i : Fin 128) (m : Member) (g : Group) (p : State) (passed : List Passed) : State :=
  let x := Rec.of g.b[r]
  let f := prefixOf b
  let zero := g.zeroWrites m f (infoOf (.ld e d r w i))
  if p.allTrapped b m (g.active m f) passed && zero.isEmpty then p
  else
    let acq := acquires f.rnd (p.reach f.scope)
    let u := if passed.isEmpty then p else p.beforeRead b m.slot (laneMask fun l => passed.any fun q => q.lane == l) f.rnd (p.reach f.scope)
    let v := u.touchAll (corePort b.core (f.mod == 2)) x.comp false (u.missing b.core (servedByL1 b g r) (bytesOf passed))
    let work := passed.flatMap fun q => q.elems.map fun y => (q.lane, v.pastOf b.core m.slot (oneBit q.lane.val), y)
    let (t, ws, rs) := work.foldl (loadStep e d r w b m g acq) (v, [], [])
    let outs := passed.flatMap fun q => q.oob.flatMap fun o => elemWrites g q.lane (elemRegs e w.val d.val o) 0
    let t := if servedByL1 b g r && f.mod != 1 then t.fillAll b.core (f.mod == 2) (bytesOf passed) else t
    (t.attachPip b m (zero ++ ws ++ outs) 0 (t.badElems g x passed) (passed.any fun q => !q.oob.isEmpty)).openLoads t.nextId rs

/-- R190, R193, R199, R201, R202, R216: ST of one group, once the checks have left the state `p` and the elements `passed`: a release as the ordering says, each element
stored, behind those of the word before it, through the L1 or past it, and CVX where a typed store clamps. -/
def Sys2Proof.storedFor (b : Bundle) (e : Ext) (d : Fin 128) (r : Fin 32) (w : Fin 8) (first : Nat) (m : Member) (g : Group) (p : State) (passed : List Passed) : State :=
  let f := prefixOf b
  let lanes := laneMask fun l => passed.any fun q => q.lane == l
  let reach := p.reach f.scope
  let u := if passed.isEmpty then p else p.beforeWrite b m.slot lanes f.rnd reach
  let work := passed.flatMap fun q => q.elems.map fun x => (q.lane, u.pastOf b.core m.slot (oneBit q.lane.val), x)
  let v := work.foldl (fun s x => (s.storeElem b.core m.slot (oneBit x.1.val) x.2.1 (releases f.rnd reach) (s.storeWay b.core (Rec.of g.b[r]) f) (s.writesFrom first)
    x.2.2.1 x.2.2.2 (storedElem e d r w g x.1 x.2.2.1.pos).code).1) u
  let t := if passed.isEmpty then v else v.afterWrite b.core m.slot lanes f.rnd reach
  if passed.any fun q => q.elems.any fun x => (storedElem e d r w g q.lane x.1.pos).cvx then t.modGroup b.core m.slot fun g => g.flag cvxBit else t

/-- R188 to R204, R216, R222, R223, R373: LD and ST of every group of the bundle, in ascending slot order, in any segment, of any width and under any ordering. The checks of
a group come first (a lane that fails one traps, one whose line does not translate parks). The choices of log 2, 7, 36 and 95 are the model's own. -/
def Obligations.LoadsAndStores : Prop :=
  ∀ (e : Ext) (d i : Fin 128) (r : Fin 32) (w : Fin 8),
    Completes (.ld e d r w i) (fun s b => InAllot s b (infoOf (.ld e d r w i))) (fun s b => s.eachMember b fun m s => match s.group? b.core m.slot with
      | some g =>
        let (p, passed) := s.place b m r.val { laneAccess e w.val 0 g.b[r] with notes := false } (g.active m (prefixOf b)) (g.index i)
        loadedFor b e d r w i m g p passed
      | none => s) ∧
    Completes (.st e d r w i) (fun s b => InAllot s b (infoOf (.st e d r w i)) ∧ s.cvxOn b.core = false) fun s b => s.eachMember b fun m t => match t.group? b.core m.slot with
      | some g =>
        let (p, passed) := t.place b m r.val (laneAccess e w.val 1 g.b[r]) (g.active m (prefixOf b)) (g.index i)
        storedFor b e d r w s.nextId m g p passed
      | none => t

/-! ### MEMC (R209, R210, R217) -/

/-- Some thread of the bundle executes the word. -/
def Sys2Proof.Executed (s : State) (b : Bundle) : Prop := ∃ x ∈ groupsOf s b, ∃ l : Lane, x.2.active x.1 (prefixOf b) l = true

/-- R217, R218, R221: a fence of the active threads of a member: unless it is an acquire it releases, over all that they have done or, for `ld`, over their loads; unless it
is a release it then acquires, for all that follows or, for `st`, for stores; one of SC does both over all, and stands behind the SC fences that matched it before. -/
def Sys2Proof.fenced (ld st : Bool) (b : Bundle) (m : Member) (s : State) : State :=
  match s.group? b.core m.slot with
  | none => s
  | some g =>
    let lanes := laneMask (g.active m (prefixOf b))
    let r := s.reach (prefixOf b).scope
    if lanes = 0 then s
    else match (prefixOf b).rnd with
      | 4 => ((s.releaseFence b.core m.slot lanes false r).acquireFence b.core m.slot lanes false r).scPoint b.core m.slot lanes r
      | 1 => s.acquireFence b.core m.slot lanes st r
      | 2 => s.releaseFence b.core m.slot lanes ld r
      | _ => (s.releaseFence b.core m.slot lanes ld r).acquireFence b.core m.slot lanes st r

/-- R217: a fence acts for each group of its bundle. -/
def Sys2Proof.Fences (i : Instr) (ld st : Bool) : Prop := Completes i (fun _ _ => True) fun s b => s.eachMember b (fenced ld st b)

/-- The lines, each with its key, of elements whose bytes stand in memory. -/
def Sys2Proof.linesAt (passed : List Passed) : List (Nat × Option (Fin 8)) :=
  (((passed.flatMap fun q => q.elems.flatMap fun x => x.2).filterMap Target.pa?).map fun x => (x.1 / 128 * 128, x.2)).eraseDups

/-- R209, R210: MEMC.WBL and MEMC.INVL act on each line that a lane names which passes the checks, of the bundle's one group, after those that
fail them have trapped or parked. -/
def Sys2Proof.OnLines (i : Fin 128 → Fin 32 → Instr) (f : State → CoreId → Nat → State) : Prop :=
  ∀ d r (s : State) (b : Bundle) (m : Member) (g : Group) (p : State) (passed : List Passed), Issues s b (infoOf (i d r)) → InAllot s b (infoOf (i d r)) →
    s.members b = [m] → s.group? b.core m.slot = some g → NoHandler s b ∨ p = s →
    s.place b m r.val (lineAccess g.b[r]) (g.active m (prefixOf b)) (g.index d) = (p, passed) →
    ∃ t, exec (i d r) s = .next t ∧
      Agrees ((linesAt passed).foldl (fun s x => f s b.core (x.1 / 128)) p) t

/-- R210: a prefetch of the lines that the active lanes of the bundle's one group name; `walks` is how each translates. -/
def Sys2Proof.Prefetches (i : Fin 128 → Fin 32 → Instr) (l1 : Bool) : Prop :=
  ∀ d r (s : State) (b : Bundle) (m : Member) (g : Group), Issues s b (infoOf (i d r)) → InAllot s b (infoOf (i d r)) →
    s.members b = [m] → s.group? b.core m.slot = some g →
    let lines := ((List.finRange 32).filter (g.active m (prefixOf b))).flatMap fun l : Lane =>
      match g.check (lineAccess g.b[r]) (s.cellCount g.ctx) l.val (g.index d l) with
      | .inr x => g.linesOf (lineAccess g.b[r]) l.val x.1
      | .inl _ => []
    let tr := s.translateLines (.core b.core) g.ctx false lines.eraseDups
    ∃ t, exec (i d r) s = .next t ∧ Agrees (tr.2.foldl (fun s w => match w.2 with
      | .ok pa key =>
        let u := s.touch (corePort b.core) key pa (Rec.of g.b[r]).comp false
        if l1 && segCached (Rec.of g.b[r]).seg && (s.cores[b.core]).hasL1 then u.fillL1 b.core false key pa else u
      | _ => s) tr.1) t

/-- R209: a line leaves the dirty bytes that a core's L1 and its chiplet's L2 hold of it to the level above, and stays clean. -/
def Sys2Proof.cleaned (s : State) (c : CoreId) (line : Nat) : State := (s.writeBack c fun x => x / 128 == line).l2Clean (chipOf c) line

/-- R209, R210, R217: the MEMC forms. The choices of log 7 and 19 are the model's own. -/
def Obligations.CacheControl : Prop :=
  Fences .memcFence false false ∧ Fences .memcFenceLd true false ∧ Fences .memcFenceSt false true ∧
  Completes .memcWbL1 Executed (fun s b => s.writeBack b.core fun _ => true) ∧
  Completes .memcInvL1 Executed (fun s b => s.dropL1 b.core fun _ => true) ∧
  OnLines .memcWbl cleaned ∧ OnLines .memcInvl (fun s c line => s.dropL1 c fun x => x / 128 == line) ∧ Prefetches .memcPf false ∧ Prefetches .memcPfl1 true

/-! ### Atomic words (R229 to R251) -/

/-- R234, R236: the element that lane `l` of the one group asks for: the value and the compared value in its registers, low word first,
and the registers that receive the old value. -/
def Sys2Proof.askedElem (u : AtomicUnit) (g : Group) (k : Slot) (op w : Nat) (d : Fin 128) (ret : Bool) (r : Fin 32) (l : Lane) (x : Elem × List Target) :
    AtomicElem :=
  let t := g.threads[l]
  let word := fun n => (t.lane g.ring n).toNat
  let double := decide (w = 3 ∨ w = 4)
  let value := fun n => if double then word n + word (n + 1) * 2 ^ 32 else word n
  { slot := k, lane := l, targets := x.2, cell := x.1.cell, far := u.isFar (Rec.of g.b[r]), comp := (Rec.of g.b[r]).comp, past := .none, heads := []
    va := g.byteVa (Rec.of g.b[r]) l.val x.1.off 0, op := op, w := w
    v := if op = 7 then (if double then value (d.val + 2) else value (d.val + 1)) else value d.val
    cmp := if op = 7 then value d.val else 0
    dst := if ret then (if double then [rowOf g.ring t.turn d.val, rowOf g.ring t.turn (d.val + 1)] else [rowOf g.ring t.turn d.val]) else [] }

/-- R229 to R238: an atomic word of the unit `u` for one group of its bundle. After the checks a lane whose element is out of bounds has zero for the old value where the
word returns one, and so has an inactive lane under ZERO; the other elements join those of the groups before. -/
def Sys2Proof.asking (u : AtomicUnit) (op w : Nat) (d : Fin 128) (r : Fin 32) (x : Fin 128) (b : Bundle) (acc : State × List AtomicElem) (m : Member) :
    State × List AtomicElem :=
  match acc.1.group? b.core m.slot with
  | none => acc
  | some g =>
    let ret := u != .bred && (prefixOf b).mod == 0
    let act := g.active m (prefixOf b)
    let (p, passed) := acc.1.place b m r.val (atomicAccess u op w ret g.b[r]) act (g.index x)
    let old := if u != .reserve && (w == 3 || w == 4) then [d.val, d.val + 1] else [d.val]
    (p.modGroup b.core m.slot fun h => h.mapThreads fun l t =>
      if (ret && passed.any fun q => q.lane == l && !q.oob.isEmpty) || ((prefixOf b).zero && hasBit m.sel l && !act l) then t.setBlock h.ring old fun _ => 0 else t,
     acc.2 ++ passed.flatMap fun q => q.elems.map fun e => askedElem u g m.slot op w d ret r q.lane e)

/-- R229 to R238: an atomic word of the unit `u`: the elements of its groups wait for the unit in one operation, behind what their ordering asks for (R216), and their
lines leave the issuer's L1 (R231). -/
def Sys2Proof.AsksFor (i : Instr) (u : AtomicUnit) (op w : Nat) (d : Fin 128) (r : Fin 32) (x : Fin 128)
    (work : List AtomicElem → Nat → Reach → Work) : Prop :=
  Completes i (fun s b => InAllot s b (infoOf i)) fun s b =>
    match (s.members b).foldl (asking u op w d r x b) (s, []) with
    | (z, []) => z
    | (z, e :: es) =>
      let (v, fs) := z.beforeAtomic b (prefixOf b).rnd (z.reach (prefixOf b).scope) (e :: es)
      (v.dropNamed b.core (fs.flatMap fun e => e.targets)).addOp b e.slot 0 (work fs (prefixOf b).rnd (v.reach (prefixOf b).scope))

/-- R229, R236: the atomic words with their units and operations. -/
def Sys2Proof.atomicWords : List ((Fin 128 → Fin 32 → Fin 8 → Fin 128 → Instr) × AtomicUnit × Nat) :=
  [(.amoNAdd, .near, 0), (.amoNMin, .near, 1), (.amoNMax, .near, 2), (.amoNAnd, .near, 3), (.amoNOr, .near, 4), (.amoNXor, .near, 5),
   (.amoNXchg, .near, 6), (.amoNCas, .near, 7), (.amoFAdd, .far, 0), (.amoFMin, .far, 1), (.amoFMax, .far, 2), (.amoFAnd, .far, 3),
   (.amoFOr, .far, 4), (.amoFXor, .far, 5), (.amoFXchg, .far, 6), (.amoFCas, .far, 7), (.amoCAdd, .common, 0), (.amoCMin, .common, 1),
   (.amoCMax, .common, 2), (.amoCAnd, .common, 3), (.amoCOr, .common, 4), (.amoCXor, .common, 5), (.amoCXchg, .common, 6),
   (.amoCCas, .common, 7)]

/-- R246: the BRED words and their operations. -/
def Sys2Proof.bredWords : List ((Fin 128 → Fin 32 → Fin 8 → Fin 128 → Instr) × Nat) :=
  [(.bredAdd, 0), (.bredMin, 1), (.bredMax, 2), (.bredAnd, 3), (.bredOr, 4), (.bredXor, 5)]

/-- R229 to R238, R245, R246: what every atomic word asks of its unit; a BRED word first combines the elements that name one location. -/
def Sys2Proof.Claim.AtomicWords : Prop :=
  (∀ row ∈ atomicWords, ∀ d r (w : Fin 8) x, AsksFor (row.1 d r w x) row.2.1 row.2.2 w.val d r x Work.atomic) ∧
  (∀ d r x, AsksFor (.amoRAdd d r x) .reserve 0 5 d r x Work.atomic) ∧
  (∀ row ∈ bredWords, ∀ d r (w : Fin 8) x, AsksFor (row.1 d r w x) .bred row.2 w.val d r x fun es => Work.bred (sameLocation es))

/-- R236: what an operation makes of the old value under a type code (0 Z32, 1 N32, 2 F32, 3 Z64, 4 N64). -/
def Sys2Proof.combinedValue (op w old v : Nat) : Nat :=
  let bits := if w = 3 ∨ w = 4 then 64 else 32
  let below : Bool := if w = 0 ∨ w = 3 then decide ((BitVec.ofNat bits v).toInt < (BitVec.ofNat bits old).toInt) else decide (v < old)
  let above : Bool := if w = 0 ∨ w = 3 then decide ((BitVec.ofNat bits old).toInt < (BitVec.ofNat bits v).toInt) else decide (old < v)
  let x := BitVec.ofNat 32 old
  let y := BitVec.ofNat 32 v
  match op with
  | 0 => if w = 2 then ((ieeeAdd .rne (f32Val x) (f32Val y)).round .f32 .rne 0).code else (old + v) % 2 ^ bits
  | 1 => if w = 2 then (fminWord x y).toNat else if below then v else old
  | 2 => if w = 2 then (fmaxWord x y).toNat else if above then v else old
  | 3 => old &&& v
  | 4 => old ||| v
  | 5 => old ^^^ v
  | _ => v

/-- R196, R220: what a unit finds in some bytes, as a number, low byte first. -/
def Sys2Proof.foundIn (s : State) (ts : List Target) : Nat := leValue (ts.map fun t => if s.unwritten t then 0 else s.byteNow t.spot.1 t.spot.2)

/-- The device with a number in some bytes, low byte first; private bytes among them are written (R196). -/
def Sys2Proof.putAt (ts : List Target) (x : Nat) (s : State) : State :=
  let u := match ts.head? with
    | some (.own key _ _ _) => s.modTeam key fun t => { t with wrote := addIds t.wrote (ts.filterMap fun x => match x with | .own _ o _ _ => some o | _ => none) }
    | _ => s
  (ts.zip (leBytes ts.length x)).foldl (fun s b => s.setByte b.1.spot.1 b.1.spot.2 b.2) u

/-- The bytes lie in one block, each once, and no write to the block is kept of which some agent has yet to hear (R214, R220). -/
def Sys2Proof.Alone (s : State) (ts : List Target) : Prop :=
  ts.Nodup ∧ (∀ t ∈ ts, ∀ u ∈ ts, t.sameBlock u = true) ∧ ∀ v ∈ s.hist, ∀ t ∈ ts, v.place ≠ t.spot.1

/-- An element that is neither an exact cell nor poisoned. -/
def Sys2Proof.PlainElem (s : State) (e : AtomicElem) : Prop := e.cell = false ∧ e.targets.any s.poisonedTarget = false

/-- R233: the element has the bytes of its type, and its value fits them. -/
def Sys2Proof.Sized (e : AtomicElem) : Prop :=
  e.targets.length = (if e.w = 3 ∨ e.w = 4 then 8 else 4) ∧ e.v < 2 ^ (if e.w = 3 ∨ e.w = 4 then 64 else 32)

/-- Two states of the device differ at most in what orders accesses. -/
def Sys2Proof.SameBut (s t : State) : Prop := unordered s.nextId s = unordered s.nextId t

/-- R236 to R240, R245, R248, R249: what the unit does with an element of an atomic word: the old value lands in the registers and the new value is stored where the
operation stores one; an exact cell gives its value and takes the addend, or the value exchanged; a reservation adds its amount only within the limit that its cell
holds for the team, and else raises class 0x06 or 0x04 for its thread; a poisoned element goes to a report, which raises class 0x08. -/
def Sys2Proof.Claim.AtomicElements : Prop :=
  (∀ (s : State) (o : Op) (order : Nat) (r : Reach) (e : AtomicElem), PlainElem s e → Sized e → Alone s e.targets → e.w < 5 → e.op < 8 →
    let old := foundIn s e.targets
    SameBut ((if e.op = 7 ∧ old ≠ e.cmp then s else putAt e.targets (if e.op = 7 then e.v else combinedValue e.op e.w old e.v) s).landOld o e old)
      (s.performOne o order r e)) ∧
  (∀ (s : State) (o : Op) (order : Nat) (r : Reach) (e : AtomicElem) (pa : Nat) (key : Option (Fin 8)) (ts : List Target), e.cell = true →
    e.targets = .phys pa key :: ts → e.targets.any s.poisonedTarget = false → e.w = 2 →
    SameBut ((s.setCellAt pa (if e.op = 0 then (s.cell pa).add (f32Val (BitVec.ofNat 32 e.v)) else .ofWord (BitVec.ofNat 32 e.v))).landOld o e (s.cell pa).read.toNat)
      (s.performOne o order r e)) ∧
  (∀ (s : State) (o : Op) (order : Nat) (r : Reach) (e : AtomicElem) (g : Group) (t : Team), PlainElem s e → e.w = 5 → e.targets.length = 16 →
    Alone s (e.targets.take 4) → (∀ x ∈ e.targets, s.unwritten x = false) → s.group? o.core e.slot = some g → s.team? g.team = some t →
    let word := fun n => foundIn s ((e.targets.drop (4 * n)).take 4)
    let trap := fun cls detail => s.performOne o order r e = s.raiseLater { o with slot := e.slot } (fun l => l == e.lane) cls detail
    (word 2 ≠ t.index ∨ word 3 ≠ 0 → trap 0x06 (vaDetail 0 e.va)) ∧
    (word 2 = t.index → word 3 = 0 → word 1 < word 0 ∨ word 1 - word 0 < e.v → trap 0x04 [(o.word.extractLsb' 10 5).zeroExtend 32, 0]) ∧
    (word 2 = t.index → word 3 = 0 → word 0 ≤ word 1 → e.v ≤ word 1 - word 0 →
      SameBut ((putAt (e.targets.take 4) ((word 0 + e.v) % 2 ^ 32) s).landOld o e (word 0)) (s.performOne o order r e))) ∧
  (∀ (s : State) (o : Op) (order : Nat) (r : Reach) (e : AtomicElem), e.targets.any s.poisonedTarget = true →
    s.performOne o order r e = s.addFrom o e.slot (.report [(e.slot, e.lane, e.va)])) ∧
  ∀ (s : State) (id : Nat) (o : Op) (k : Slot) (l : Lane) (va : Nat), s.op? id = some o → o.work = .report [(k, l, va)] →
    exec (.atomicPoisonReport id 0) s = .next ((s.dropOp id).raiseLater { o with slot := k } (fun x => x == l) 0x08 (vaDetail 0 va))

/-- R237: the elements of an operation that lie on the line of one of them. -/
def Sys2Proof.onLine (e : AtomicElem) (es : List AtomicElem) : List AtomicElem := es.filter fun x => x.line == e.line

/-- R236, R237, R246: a unit performs an element with the others of its word on that line, in order, at once: the lines have left the core's L1, what the ordering asks
for follows, and the operation ends with its last element. BRED makes one update of the combined elements of each location. -/
def Sys2Proof.Claim.AtomicUpdates : Prop :=
  (∀ (s : State) (id n : Nat) (o : Op) (e : AtomicElem) (es : List AtomicElem) (order : Nat) (r : Reach), s.op? id = some o → o.work = .atomic es order r →
    es[n]? = some e →
    let rest := es.filter fun x => x.line != e.line
    let u := ((onLine e es).foldl (fun s x => s.performOne o order r x) (s.atUnit o.core (onLine e es))).afterAtomic o.core order r (onLine e es)
    exec (.atomicElementPerformed id n) s = .next (if rest = [] then u.dropOp id else u.modOp id fun o => { o with work := .atomic rest order r })) ∧
  (∀ (s : State) (id n : Nat) (o : Op) (e : AtomicElem) (es : List AtomicElem) (us : List (List AtomicElem)) (order : Nat) (r : Reach), s.op? id = some o →
    o.work = .bred us order r → us[n]? = some (e :: es) →
    let here := fun x : List AtomicElem => (x.head?.map fun y => y.line) == some e.line
    let now := us.filter here
    let rest := us.filter fun x => !here x
    let u := (now.foldl (fun s x => s.performCombined o r x) (s.atUnit o.core now.flatten)).afterAtomic o.core order r now.flatten
    exec (.bredUpdate id n) s = .next (if rest = [] then u.dropOp id else u.modOp id fun o => { o with work := .bred rest order r })) ∧
  ∀ (s : State) (o : Op) (r : Reach) (e : AtomicElem) (es : List AtomicElem), (∀ x ∈ e :: es, x.op = e.op ∧ x.w = e.w ∧ Sized x) → e.w < 5 → e.op < 6 →
    PlainElem s e → Alone s e.targets →
    let old := foundIn s e.targets
    SameBut (putAt e.targets (if e.op = 0 ∧ e.w = 2 then
        (sumRule false false (Acc.ofVal (f32Val (BitVec.ofNat 32 old))) ((e :: es).map fun x => f32Val (BitVec.ofNat 32 x.v))).1.f32
      else combinedValue e.op e.w old (es.foldl (fun v x => combinedValue e.op e.w v x.v) e.v)) s) (s.performCombined o r (e :: es))

/-- R229 to R246: what the atomic words ask of their units, and what the units do. The choices of log 7, 35 and 71 are the model's own. -/
def Obligations.AtomicOperations : Prop := Claim.AtomicWords ∧ Claim.AtomicUpdates ∧ Claim.AtomicElements

/-! ### Stream handles (R255 to R267) -/

/-- R261, R126: what an HWAIT on an instance that is as it wants does to its group: sD takes the status, and CVX and BOUNDS of a tile join
the sticky flags. -/
def Sys2Proof.joined (d : Fin 128) (h : Handle) (g : Group) : Group :=
  { g with s := g.s.set d h.status
           sticky := if h.eos then g.sticky else g.sticky ||| (if h.cvx then cvxBit else 0) ||| (if h.bounds then boundsBit else 0) }

/-- R261: the instance answers an HWAIT of the direction `free`. -/
def Sys2Proof.Answers (h : Handle) (free : Bool) : Prop :=
  h.declared = true ∧ h.out = free ∧ (if free then h.st = .free else h.st = .full ∨ h.eos = true)

/-- R261: an HWAIT that goes on: an acquire unless the stream has ended, and the join; one that must wait leaves its threads at the word; one
on an instance that is not declared, or of the other direction, raises class 0x0F. -/
def Sys2Proof.Waits (i : Fin 128 → Fin 32 → Instr) (free : Bool) : Prop :=
  ∀ d n,
    Completes (i d n) (fun s b => ∀ x ∈ groupsOf s b, ∃ t h, s.handleOf x.2 n = some (t, h) ∧ Answers h free ∧
        (h.eos = true ∨ (h.fault = false ∧ h.poison = false ∧ (h.cvx = false ∨ s.cvxOn b.core = false))))
      (fun s b => s.eachMember b fun m s => match s.group? b.core m.slot with
        | some g => match s.handleOf g n with
          | some (_, h) => (if h.eos then s else s.joinAt b.core m.slot m.sel 5 h.view).modGroup b.core m.slot (joined d h)
          | none => s
        | none => s) ∧
    Completes (i d n) (fun s b => ∀ x ∈ groupsOf s b, ∃ t h, s.handleOf x.2 n = some (t, h) ∧ h.declared = true ∧ h.out = free ∧ ¬Answers h free)
      (fun s b => onSelected s b fun _ _ t => t.standAt b b.idx (.hwait free n)) ∧
    Completes (i d n) (fun s b => NoHandler s b ∧ ∀ x ∈ groupsOf s b, ∃ t h, s.handleOf x.2 n = some (t, h) ∧ (h.declared = false ∨ h.out ≠ free))
      (fun s b => onGroups s b fun m g => trapping b false (fun l => hasBit m.sel l) 0x0F
        [BitVec.ofNat 32 n.val, ((s.handleOf g n).map fun x => x.2.status).getD 0] g)

/-- R259: the fields of the status word of a declared instance. -/
def Sys2Proof.StatusFields (h : Handle) : Prop :=
  h.status.extractLsb' 0 2 = BitVec.ofNat 2 h.st.code ∧ h.status.getLsbD 2 = h.out ∧ h.status.getLsbD 3 = h.eos ∧
  h.status.getLsbD 4 = h.fault ∧ h.status.getLsbD 5 = h.poison ∧ h.status.getLsbD 6 = h.cvx ∧ h.status.getLsbD 7 = h.bounds ∧
  h.status.getLsbD 8 = true ∧ h.status.extractLsb' 9 7 = 0 ∧ h.status.extractLsb' 16 8 = BitVec.ofNat 8 h.cls ∧
  h.status.extractLsb' 24 3 = BitVec.ofNat 3 h.stream ∧ h.status.extractLsb' 27 5 = 0

/-- R255, R259, R261: HWAIT. -/
def Sys2Proof.Claim.HandleWaits : Prop :=
  Waits .hwaitFull false ∧ Waits .hwaitFree true ∧ ∀ h : Handle, h.declared = true → StatusFields h

/-- R262, R263, R267: HREL by the bundle's one group makes a FULL input instance DRAINING and, when every receiver of the tile has released
it, FREE; HCOMMIT makes a FREE output instance DRAINING with the unit's next tile, behind a release; HQRY and its forms read. -/
def Sys2Proof.Claim.HandleWords : Prop :=
  (∀ n : Fin 32, Completes (.hrel n) (fun s b => ∃ m g t h, s.members b = [m] ∧ s.group? b.core m.slot = some g ∧ s.handleOf g n = some (t, h) ∧
      h.declared = true ∧ h.out = false ∧ h.st = .full ∧ s.hrelWaits n b m = false)
    (fun s b => (groupsOf s b).foldl (fun s x => match s.handleOf x.2 n with
      | some (t, h) => (s.modHandle t.key n fun h => { h with st := .draining, view := h.view.join (s.bufferView (s.viewOf b.core x.1.slot x.1.sel) t h) }).freeInputs t h n
      | none => s) s)) ∧
  (∀ n : Fin 32, Completes (.hcommit n) (fun s b => ∃ m g t h f, s.members b = [m] ∧ s.group? b.core m.slot = some g ∧
      s.handleOf g n = some (t, h) ∧ h.declared = true ∧ h.out = true ∧ h.st = .free ∧ s.flow t h = some f)
    (fun s b => (groupsOf s b).foldl (fun s x => match s.handleOf x.2 n with
      | some (t, h) => match s.flow t h with
        | some f =>
          let i : Fin 4 := ⟨h.stream % 4, Nat.mod_lt _ (by decide)⟩
          let k := f.tile t.outNext[i]
          ((s.releaseBy b 5).modTeam t.key fun t => { t with outNext := t.outNext.set i (t.outNext[i] + 1) }).modHandle t.key n fun h =>
            { h with st := .draining, tile := some k, cursor := 0, wait := none, cvx := false, poison := false, fault := false, cls := 0
                     bounds := !f.hasTile k, eos := !f.hasTile k, view := s.viewOf b.core x.1.slot x.1.sel }
        | none => s
      | none => s) s)) ∧
  (∀ (d : Fin 128) (n : Fin 32),
    Completes (.hqry d n) (fun s b => ∀ x ∈ groupsOf s b, ∃ t h, s.handleOf x.2 n = some (t, h))
      (fun s b => s.eachMember b fun m s => match s.group? b.core m.slot with
        | some g => match s.handleOf g n with
          | some (_, h) => (if h.declared && h.out && h.st == .free then s.joinAt b.core m.slot m.sel 5 h.view else s).modGroup b.core m.slot
              fun g => { g with s := g.s.set d h.status }
          | none => s
        | none => s) ∧
    Completes (.hqryBase d n) (fun _ _ => True) (fun s b => onGroups s b fun _ g => { g with s := g.s.set d (match s.handleOf g n with
      | some (t, h) => if h.declared then BitVec.ofNat 32 (t.rank * (s.cores[b.core]).part + t.base + h.buf) else 0xFFFFFFFF
      | none => 0xFFFFFFFF) }) ∧
    Completes (.hqryTile d n) (fun _ _ => True) (fun s b => onGroups s b fun _ g => { g with s := g.s.set d (match s.handleOf g n with
      | some (_, h) => if h.declared then (h.tile.map (BitVec.ofNat 32)).getD 0xFFFFFFFF else 0xFFFFFFFF
      | none => 0xFFFFFFFF) })) ∧
  (∀ d : Fin 128,
    Completes (.hqryScr d) (fun _ _ => True) (fun s b => onGroups s b fun _ g => { g with
      s := g.s.set d (BitVec.ofNat 32 (((s.team? g.team).map fun t => t.rank).getD 0 * (s.cores[b.core]).part + s.allotOffset g)) }) ∧
    Completes (.hqryCore d) (fun s b => ∀ x ∈ groupsOf s b, (s.team? x.2.team).isSome = true) (fun s b => onGroups s b fun _ g => { g with
      s := g.s.set d (match s.team? g.team with
        | some t => BitVec.ofNat 16 ((s.cores[b.core]).part / 1024) ++ BitVec.ofNat 8 t.cores.length ++ BitVec.ofNat 8 t.rank
        | none => 0) }))

/-- R255 to R267: the words on stream handles. The choices of log 37, 75 and 88 are the model's own. -/
def Obligations.StreamHandles : Prop := Claim.HandleWaits ∧ Claim.HandleWords

/-! ### Crossbar patterns (R268 to R271) -/

/-- R269, R271: the byte that an entry of a pattern selects: 0, or a byte of A in a lane of the bundle. -/
def Sys2Proof.selectedByte (g : Group) (m : Member) (a : LaneSrc) (off : Nat) (entry : Byte) : Byte :=
  let k : Lane := ⟨entry.toNat % 32, Nat.mod_lt _ (by decide)⟩
  if entry.getLsbD 7 = true ∨ m.sel.getLsbD k.val = false then 0
  else (g.src (g.threads[k]) a off).extractLsb' (8 * (entry.toNat / 32 % 4)) 8

/-- R270, R222: an element of a pattern is loaded: its bytes, which take their places in the pattern, and a load that may still take effect later. -/
def Sys2Proof.patternElem (b : Bundle) (m : Member) (r : Rec) (past : View) (acc : State × List (Nat × Byte) × List Reread) (e : Elem × List Target) :
    State × List (Nat × Byte) × List Reread :=
  let s := acc.1
  let got := s.loadOf b.core m.slot m.sel past (segCached r.seg) none none e.2
  let places := (List.range (2 ^ r.size)).map fun i => e.1.pos * 2 ^ r.size + i
  (got.1, acc.2.1 ++ places.zip got.2.1, acc.2.2 ++ [{ read := got.2.2, op := 0, core := b.core, slot := m.slot, lanes := m.sel, rows := places.map regIx, w := 4
                                                       tag := 0, cached := segCached r.seg, targets := e.2, known := s.known past, by_ := [] }])

/-- R268 to R271: XBAR attaches an operation whose results are the bytes that the pattern of its slot selects, and completes with it; XPLD of the
bundle's one group, when its 128 bytes pass the checks, starts an operation with the pattern that it reads (an element out of bounds gives zeros), and
completes with it: the slot holds the pattern. The choices of log 49 and 87 are the model's own. -/
def Obligations.CrossbarPatterns : Prop :=
  (∀ (e : Ext) (d : Fin 128) (a : LaneSrc) (x : Fin 16),
    let word := fun (s : State) (b : Bundle) (m : Member) (g : Group) (l : Lane) (p : Nat) =>
      let byte := fun j => selectedByte g m a (posOff e p) ((s.cores[b.core]).xslot[x].getD (4 * l.val + j) 0)
      byte 3 ++ byte 2 ++ byte 1 ++ byte 0
    Completes (.xbar e d a x) (fun s b => InAllot s b (infoOf (.xbar e d a x))) (fun s b =>
      starting s b (fun _ g => { g with pip := g.pip.set b.attach (g.pip[b.attach] + 1) }) fun m g =>
        .pip b.attach (loadedWrites b e d m g fun l p => (word s b m g l p).toNat) 0 [] false) ∧
    ThenDone (.xbar e d a x) .pipOperationComplete (fun _ _ _ => True) fun s b m g _ h =>
      h.s = g.s ∧ LaneResults (Block.of e d).regs (fun s b g l p => word s b m g l p) s b m g h) ∧
  (∀ (x : Fin 16) (a : Fin 128) (r : Fin 32) (s : State) (b : Bundle) (m : Member) (g : Group) (p : State) (q : Passed),
    Issues s b (infoOf (.xpld x a r)) → s.members b = [m] → s.group? b.core m.slot = some g → NoHandler s b ∨ p = s →
    s.placeGroup b m r.val (g.xpldAccess g.b[r] (g.s[a.val]).toInt) (g.s[a.val]).toInt = (p, some q) →
    let x' := Rec.of g.b[r]
    let ts := q.elems.flatMap fun e => e.2
    let cached := segCached x'.seg
    let zeros := ((List.range (128 / 2 ^ x'.size)).filter fun p => !q.elems.any fun e => e.1.pos == p).flatMap fun p =>
      (List.range (2 ^ x'.size)).map fun i => (p * 2 ^ x'.size + i, (0 : Byte))
    let u := p.touchAll (corePort b.core) x'.comp false (p.missing b.core cached ts)
    (∀ e ∈ q.elems, e.2.any u.poisonedTarget = false) →
    let w := q.elems.foldl (patternElem b m x' (u.pastOf b.core m.slot m.sel)) (u, zeros, [])
    let v := if cached then w.1.fillAll b.core false ts else w.1
    ∃ t, exec (.xpld x a r) s = .next t ∧ Agrees ((v.addOp b m.slot m.sel (.xpld x w.2.1 false 0)).openLoads v.nextId w.2.2) t ∧
      (Numbered v → ∃ y, exec (.xpldDataReturn v.nextId) t = .next y ∧ y.op? v.nextId = none ∧
        (y.cores[b.core]).xslot[x] = w.2.1.foldl (fun z n => z.set n.1 n.2) (s.cores[b.core]).xslot[x]))

/-! ### Ply tapes (R315 to R334) -/

/-- The bundle acts for one group. -/
def Sys2Proof.OneGroup (s : State) (b : Bundle) (m : Member) (g : Group) : Prop := s.members b = [m] ∧ s.group? b.core m.slot = some g

/-- R317, R320: mark frame 0: every lane, kind 2, one frame, and no number. -/
def Sys2Proof.firstMark : List Byte := leBytes 4 0xFFFFFFFF ++ leBytes 4 0x80010000 ++ List.replicate 56 0

/-- R316, R320: an open tape at its start, with mark frame 0. -/
def Sys2Proof.openedTape (x : Rec) (drop : Bool) : Tape :=
  ⟨.recording, drop, false, x.base, x.extent, x.comp, [⟨0, 1, 2, 0, 0, 0xFFFFFFFF, 0⟩], Vector.replicate 32 0⟩

/-- R320: PLYC.OPEN for the bundle's one group, whose tape is closed, with a legal record within seg5 whose first frame translates, in the state `v` that the
translation leaves. -/
def Sys2Proof.Opens (i : Fin 32 → Instr) (drop : Bool) : Prop :=
  ∀ (r : Fin 32) (s : State) (b : Bundle) (m : Member) (g : Group) (u v : State) (w walks : List (Nat × Walk)), Issues s b (infoOf (i r)) → OneGroup s b m g →
    let x := Rec.of g.b[r]
    g.tape.st = .closed → x.tapeLegal = true → x.base + x.extent ≤ segLimit g.seg[5] →
    s.engineLines b.core m.slot g true (g.frameLines (x.tape drop) 0 1) = (u, w, false) →
    u.engineLines b.core m.slot g true (g.frameLines (x.tape drop) 0 1) = (v, walks, false) →
    (walks.find? fun w => w.2 == .failure) = none →
    ∃ t, exec (i r) s = .next t ∧
      Agrees ((((v.modGroup b.core m.slot fun g => { g with refused := [] }).touchLines (x.tape drop) walks true).writeFrame g (x.tape drop) walks 0 firstMark).modGroup
        b.core m.slot fun g => { g with tape := openedTape x drop }) t

/-- R321: the word's record, which a mark makes outside a suppressed segment too. -/
def Sys2Proof.unsuppressed (g : Group) : Group := { g with tape := { g.tape with suppr := false } }

/-- R320 to R323: the words of tape control. Opening makes an empty tape with mark frame 0, closing ends it; PLYC.REV turns a recording tape to
replay from its end, and a replaying tape, no record of which is partly consumed, back to recording behind the records that no thread has
consumed; PLYC.MARK places a mark and gives its number; PLYC.STAT reads the state, the frames and the newest mark. -/
def Sys2Proof.Claim.TapeControl : Prop :=
  Opens .plycOpen false ∧ Opens .plycOpenDrop true ∧
  Completes .plycClose (fun _ _ => True) (fun s b => onGroups s b fun _ g => { g with tape := ⟨.closed, false, false, 0, 0, false, [], Vector.replicate 32 0⟩ }) ∧
  Completes .plycRev (fun s b => ∀ x ∈ groupsOf s b, x.2.tape.st = .recording) (fun s b => onGroups s b fun _ g =>
    { g with tape := { g.tape with st := .replaying, pos := Vector.replicate 32 g.tape.recs.length } }) ∧
  Completes .plycRev (fun s b => ∀ x ∈ groupsOf s b, x.2.tape.st = .replaying ∧ x.2.partly = false) (fun s b => onGroups s b fun _ g =>
    { g with tape := g.cutBack }) ∧
  (∀ (d : Fin 128) (s : State) (b : Bundle) (m : Member) (g : Group) (u v : State), Issues s b (infoOf (.plycMark d)) → OneGroup s b m g →
    g.tape.st = .recording →
    (∃ p w, s.recordPlan b.core m.slot (unsuppressed g) [] ((g.markRecording m).form s) = (u, p, w, false)) →
    u.recordFor b m (unsuppressed g) (g.markRecording m) = (v, true) →
    ∃ t, exec (.plycMark d) s = .next t ∧ Agrees (v.modGroup b.core m.slot fun h =>
      { h with s := h.s.set d (BitVec.ofNat 32 ((h.tape.recs.filter fun r => r.kind == 2).length - 1)) }) t) ∧
  (∀ d : Fin 128, Completes (.plycStat d) (fun _ _ => True) fun s b => onGroups s b fun _ g =>
    (List.range 3).foldl (fun h n => { h with s := h.s.set (regIx (d.val + n)) (match n with
      | 0 => BitVec.ofNat 32 ((match g.tape.st with | .closed => 0 | .recording => 1 | .replaying => 2) + g.tape.drop.toNat * 4
          + g.tape.suppr.toNat * 8 + (g.tape.recs.any fun r => r.kind == 3).toNat * 16)
      | 1 => BitVec.ofNat 32 g.tape.frames
      | _ => if g.tape.st = .closed then 0xFFFFFFFF else BitVec.ofNat 32 ((g.tape.recs.filter fun r => r.kind == 2).length - 1)) }) g)

/-- R318, R327: the differences of a value record come back from its payload, whatever the words and the references. -/
def Sys2Proof.Claim.TapeRoundTrip : Prop :=
  (∀ ds : List Word, plyUnpack ds.length (plyPayload ds) = (ds, (plyPayload ds).length)) ∧
  (∀ (rs : PlyRefs) (cover : Word) (w : Nat) (value : Lane → Nat → Word),
    let ds := (maskLanes cover).flatMap fun l => (List.range w).map fun j => value l j ^^^ (refWords rs l w).getD j 0
    plyDecode rs cover w (plyPayload ds) = ((maskLanes cover).map fun l => (l, (List.range w).map (value l)), (plyPayload ds).length)) ∧
  ∀ (t : Tape) (r : PlyRec) (payload : List Byte), t.frames + r.nfr ≤ t.extent / 64 →
    t.plan r payload = .place (((({ r with first := t.frames } : PlyRec).frameBytes payload).zipIdx.map fun f => (t.frames + f.2, f.1)))
      { t with recs := t.recs ++ [{ r with first := t.frames }], suppr := if r.kind = 2 then false else t.suppr }

/-- R319, R327: the records from which the lane's words of its pending value record are decoded: of the segment's earlier ones with its slot and extent
those that cover the lane, and the record itself; of a decision, the record alone. -/
def Sys2Proof.decodedFrom (g : Group) (l : Lane) (x : Nat × PlyRec) : List PlyRec :=
  if x.2.kind = 0 then ((g.tape.history x.1 x.2.slot x.2.extc).filter fun r => r.mask.getLsbD l.val) ++ [x.2] else [x.2]

/-- R326, R328: what the replay word of one group finds for each lane of `lanes`, once the lines of its records translate, which leaves `y`: its pending
record, which is good, and all that it is decoded from translated and not poisoned. -/
def Sys2Proof.Replays (s y : State) (b : Bundle) (m : Member) (g : Group) (want : Option (Nat × Nat)) (lanes : Lane → Bool) (walks : List (Nat × Walk))
    (found : Lane → Nat × PlyRec) : Prop :=
  let lines := g.recordLines g.tape (g.replayRecords lanes)
  ∃ v, (s.engineLines b.core m.slot g false lines).2.2 = false ∧
    (s.engineLines b.core m.slot g false lines).1.engineLines b.core m.slot g false lines = (v, walks, false) ∧
    y = (v.modGroup b.core m.slot fun g => { g with refused := [] }).touchLines g.tape walks false ∧
    ∀ l : Lane, lanes l = true → g.replayCheck want (y.recordGood g walks l) l = .inr (found l) ∧
      ∀ r ∈ decodedFrom g l (found l), recordLost g g.tape walks r = false ∧ y.recordPoison g g.tape walks r = false

/-- R324 to R328: the ply words of the bundle's one group. PUT and a recording BR place their record first (or nothing, where the tape does not
record); GET consumes the pending record of each active lane and starts its token for the words read; BRX consumes the pending decision of
each selected lane and moves the lane as it says. -/
def Sys2Proof.Claim.TapeWords : Prop :=
  (∀ (e : Ext) (slot : Fin 8) (a : LaneSrc) (s : State) (b : Bundle) (m : Member) (g : Group) (u v : State), Issues s b (infoOf (.plyPut e slot a)) →
    OneGroup s b m g → (∀ n ∈ (infoOf (.plyPut e slot a)).blocks.flatMap Block.regs, g.inAllot n = true) →
    s.recordReady b (fun m g => if (putInfo e a).blocks.flatMap Block.regs |>.all g.inAllot then
      some (g.putRecording m (prefixOf b) e slot.val a) else none) = (u, true) →
    u.recordFor b m g (g.putRecording m (prefixOf b) e slot.val a) = (v, true) →
    ∃ t, exec (.plyPut e slot a) s = .next t ∧ Agrees v t) ∧
  (∀ (q : Fin 64) (sense : Bool) (o : BitVec 17) (s : State) (b : Bundle) (m : Member) (g : Group) (u v : State),
    Issues s b (infoOf (.br q sense true o)) → OneGroup s b m g →
    s.recordReady b (fun m g => some (g.brRecording m q sense)) = (u, true) → u.recordFor b m g (g.brRecording m q sense) = (v, true) →
    ∃ t, exec (.br q sense true o) s = .next t ∧ Agrees (onSelected v b fun _ _ t =>
      standing t (if xor (t.pred q.val) sense then targetOf b o.toInt else b.after)) t) ∧
  (∀ (s : State) (b : Bundle) (m : Member) (g : Group) (r : Recording), g.tape.records = false → g.tape.st ≠ .replaying →
    s.recordFor b m g r = (s, true)) ∧
  (∀ (e : Ext) (d : Fin 128) (t slot : Fin 8) (s y : State) (b : Bundle) (m : Member) (g : Group) (walks : List (Nat × Walk))
    (found : Lane → Nat × PlyRec), Issues s b (infoOf (.plyGet e d t slot)) → InAllot s b (infoOf (.plyGet e d t slot)) → OneGroup s b m g →
    let act := g.active m (prefixOf b)
    Replays s y b m g (some (slot.val, e.val)) act walks found →
    let lanes := (List.finRange 32).filter act
    let recs := (lanes.map found).eraseDups
    let ws := lanes.flatMap fun l =>
      (refWords (y.tapeRefs g g.tape walks (decodedFrom g l (found l))).1 l (plyWidth e.val)).zipIdx.map fun x =>
        (⟨l, rowOf g.ring (g.threads[l]).turn (d.val + x.2), 0, 32, x.1.toNat⟩ : LaneWrite)
    ∃ v, exec (.plyGet e d t slot) s = .next v ∧
      Agrees ((y.modGroup b.core m.slot fun g => (g.consume (lanes.map fun l => (l, found l))).startToken (104 + t.val)).addOp b m.slot m.sel
        (.plyGet (104 + t.val) (g.zeroWrites m (prefixOf b) (infoOf (.plyGet e d t slot)) ++ ws) recs.length false false)) v) ∧
  (∀ (o : BitVec 18) (s y : State) (b : Bundle) (m : Member) (g : Group) (walks : List (Nat × Walk)) (found : Lane → Nat × PlyRec),
    Issues s b (infoOf (.plyBrx o)) → OneGroup s b m g → Replays s y b m g none (fun l => hasBit m.sel l) walks found →
    let taken := fun l : Lane => (leValue ((plyPayloadOf (y.recordBytes g g.tape walks (found l).2) 1).take 4)).testBit l.val
    ∃ t, exec (.plyBrx o) s = .next t ∧ Agrees (y.modGroup b.core m.slot fun g =>
      (g.consume (((List.finRange 32).filter fun l : Lane => hasBit m.sel l).map fun l => (l, found l))).mapThreads fun l t =>
        if hasBit m.sel l then standing t (if taken l then targetOf b o.toInt else b.after) else t) t)

/-- R315 to R328: the words of ply tapes, and their records. The choices of log 33 and 73 are the model's own. -/
def Obligations.PlyTapes : Prop := Claim.TapeControl ∧ Claim.TapeRoundTrip ∧ Claim.TapeWords

/-! ### Matrix engines (R272 to R299) -/

/-- R276: the tag codes that A may have beside each set of codes of B, with whether the sums are integers. -/
def Sys2Proof.tagPairs : List (List Nat × List Nat) :=
  [([0x08], [0x08]), ([0x09], [0x09]), ([0x0A], [0x0A]), ([0x0C, 0x0D], [0x0C, 0x0D]), ([0x14, 0x15], [0x14, 0x15]), ([0x19], [0x19]),
   ([0x16, 0x17, 0x18], [0x16, 0x17, 0x18]), ([0x0E, 0x0F, 0x10], [0x0E, 0x0F, 0x10]), ([0x1C, 0x1D], [0x09, 0x0A, 0x0C, 0x0D, 0x14, 0x15]),
   ([0x01, 0x05], [0x01, 0x05]), ([0x20], [0x20]), ([0x21], [0x21]), ([0x24], [0x01, 0x0C])]

/-- R276: the tag codes that A may have under a sparsity. -/
def Sys2Proof.sparseCodes : List Nat := [0x09, 0x0A, 0x0C, 0x0D, 0x0E, 0x0F, 0x10, 0x14, 0x15, 0x16, 0x17, 0x18, 0x19, 0x01, 0x05]

/-- R275, R276: a configuration word is valid. -/
def Sys2Proof.validConfig (w : Word) : Bool :=
  let a := (w.extractLsb' 4 6).toNat
  let b := (w.extractLsb' 10 6).toNat
  w.extractLsb' 18 14 == 0 && w.extractLsb' 2 2 == 0 && (tagPairs.any fun p => p.1.contains a && p.2.contains b)
  && w.extractLsb' 16 2 != 3 && (w.extractLsb' 16 2 == 0 || sparseCodes.contains a)

/-- R281: a set form need not wait: the register is neither OPEN nor POSTWAIT. -/
def Sys2Proof.Settable (s : State) (b : Bundle) (n : Fin 8) : Prop := ∀ x ∈ groupsOf s b, (x.2.cv[n]).st = .empty ∨ (x.2.cv[n]).st = .idle

/-- R282: the fields of the status word of a convergence register. -/
def Sys2Proof.cvStatus (c : Cv) : Word :=
  match c.st with
  | .empty => 0
  | .idle => 1
  | .open_ => c.fword.extractLsb' 2 24 ++ (0x02 : BitVec 8)
  | .postwait => c.fword.extractLsb' 2 24 ++ (0x06 : BitVec 8)

/-- R274, R281: the configuration and convergence words; one that may wait completes once the register is settled, and a configuration that
is not valid raises class 0x02. -/
def Obligations.MatrixSetup : Prop :=
  (∀ a : Fin 128,
    Completes (.mcfg a) (fun s b => ∀ x ∈ groupsOf s b, validConfig x.2.s[a] = true) (fun s b => onGroups s b fun _ g => { g with mcfg := g.s[a] }) ∧
    Completes (.mcfg a) (fun s b => NoHandler s b ∧ ∀ x ∈ groupsOf s b, validConfig x.2.s[a] = false)
      (fun s b => onGroups s b fun m g => trapping b false (fun l => hasBit m.sel l) 0x02 [b.current, BitVec.ofNat 32 (b.idx + 1)] g)) ∧
  (∀ d : Fin 128, WritesUniform (.mcfgRd d) d fun g => g.mcfg) ∧
  (∀ (n : Fin 8) (a : Fin 128), Completes (.cvset n a) (Settable · · n) fun s b => onGroups s b fun _ g =>
    { g with cv := g.cv.set n { g.cv[n] with mask := g.s[a], signed := 0, st := if g.s[a] = 0 then .empty else .idle } }) ∧
  ∀ n : Fin 8, Completes (.cvsetAll n) (Settable · · n) fun s b => onGroups s b fun _ g =>
    { g with cv := g.cv.set n { g.cv[n] with mask := BitVec.allOnes 32, signed := 0, st := .idle } }

/-- R282: the fields of the status word. -/
def Sys2Proof.CvStatusFields (c : Cv) : Prop :=
  let w := cvStatus c
  let open_ := decide (c.st = .open_) || decide (c.st = .postwait)
  w.extractLsb' 8 24 = (if open_ then c.fword.extractLsb' 2 24 else 0) ∧ w.extractLsb' 3 5 = 0 ∧ w.getLsbD 2 = decide (c.st = .postwait) ∧
  w.extractLsb' 0 2 = (if open_ then 2 else if c.st = .idle then 1 else 0)

/-- R282: CVRD returns the mask, the signed mask and the status word, whose fields are those of the table. -/
def Obligations.ConvergenceStatus : Prop :=
  (∀ c : Cv, CvStatusFields c) ∧
  ∀ (d : Fin 128) (n : Fin 8), Completes (.cvrd d n) (fun _ _ => True) fun s b => onGroups s b fun _ g =>
    { g with s := ((g.s.set (regIx d.val) (g.cv[n]).mask).set (regIx (d.val + 1)) (g.cv[n]).signed).set (regIx (d.val + 2)) (cvStatus g.cv[n]) }

/-! #### MMA -/

/-- R284: the lanes for which an MMA word acts. -/
def Sys2Proof.mmaLanes (m : Member) : List Lane := (List.finRange 32).filter fun l : Lane => hasBit (m.sel ||| m.skip) l

/-- R278, R284: what an operand holds once the lanes of a member have signed: rows L and L + 32 of each that the guard selected, behind those
captured before, or the values of the descriptor registers as the signing opened. -/
def Sys2Proof.signedOperand (g : Group) (m : Member) (fresh : Bool) (x : LaneSrc) (old : Captured) : Captured :=
  match x with
  | .s n => if fresh then .desc (g.uni n.val) (g.uni (n.val + 1)) else old
  | .v n => .rows ((match fresh, old with | false, .rows xs => xs | _, _ => []) ++
      ((mmaLanes m).filter fun l : Lane => hasBit m.sel l.val).flatMap fun l : Lane => (List.range 32).map fun o => (l.val, o, (g.threads[l]).lane g.ring (n.val + o)))

/-- R284: the convergence register once the lanes of a member have signed by the MMA word of the variant `var` on the tile `n`. -/
def Sys2Proof.signedCv (b : Bundle) (m : Member) (g : Group) (var : Nat) (n : Fin 16) (cv : Fin 8) (x y : LaneSrc) : Cv :=
  let c := g.cv[cv]
  let fresh := c.st == .idle
  let lanes := m.sel ||| m.skip
  let known := (mmaLanes m).foldl (fun v l => v.join (g.threads[l]).ord.view) (if fresh then .none else c.view)
  if fresh then ⟨c.mask, lanes, .open_, b.offset b.idx, var, n.val, g.mcfg, signedOperand g m true x c.a, signedOperand g m true y c.b, m.sel, known⟩
  else { c with a := signedOperand g m false x c.a, b := signedOperand g m false y c.b, signed := c.signed ||| lanes, contrib := c.contrib ||| m.sel, view := known }

/-- The bundle holds threads of one group, those that the guard skipped among them. -/
def Sys2Proof.SoleGroup (s : State) (b : Bundle) (m : Member) (g : Group) : Prop :=
  b.members.map (s.trim b.core) = [m] ∧ s.group? b.core m.slot = some g

/-- R278 to R280, R284: a signing on the tile may open in the group. -/
def Sys2Proof.MayOpen (g : Group) (n : Fin 16) (cv : Fin 8) (x y : LaneSrc) : Prop :=
  n.val < g.tiles.length ∧ validConfig g.mcfg = true ∧
  (∀ i : Fin 8, i ≠ cv → (g.cv[i]).tile = n.val → (g.cv[i]).st = .empty ∨ (g.cv[i]).st = .idle) ∧
  ∀ c, Mcfg.of g.mcfg = some c → g.mmaCheck x c.a c.spa c.kj = none ∧ g.mmaCheck y c.b 0 c.kj = none

/-- R284: each lane of the bundle signs: it belongs to the mask and has not signed, and the register is IDLE on a tile on which a signing may
open, or OPEN for this word. -/
def Sys2Proof.MaySign (b : Bundle) (m : Member) (g : Group) (n : Fin 16) (cv : Fin 8) (x y : LaneSrc) : Prop :=
  let c := g.cv[cv]
  (m.sel ||| m.skip) &&& ~~~ c.mask = 0 ∧
  ((c.st = .idle ∧ MayOpen g n cv x y) ∨ (c.st = .open_ ∧ c.fword = b.offset b.idx ∧ (m.sel ||| m.skip) &&& c.signed = 0))

/-- R285: every thread of the mask has signed or has exited. -/
def Sys2Proof.AllSigned (g : Group) (c : Cv) : Prop := ∀ l : Lane, hasBit c.mask l = true → hasBit c.signed l = true ∨ (g.threads[l]).gone = true

/-- R285, R288: a complete signing takes an entry of the reservation table: the register is IDLE, threads that wait at it are ready, and QEXIT
is set if a member exited before it signed. -/
def Sys2Proof.posting (u : State) (core : CoreId) (k : Slot) (g : Group) (cv : Fin 8) (c : Cv) : State :=
  { u with
    quads := u.quads.set (quadOf core) { u.quads[quadOf core] with entries := (u.quads[quadOf core]).entries ++
      [(⟨u.nextId, core, k, g.team, some c.tile, false, (u.cores[core]).cycles, .pass c.var c.mcfg c.a c.b c.contrib c.view⟩ : Entry)] }
    nextId := u.nextId + 1 }.modGroup core k fun g =>
      { (g.mapThreads fun _ t =>
          let kept := g.handler.isSome && !t.gone && t.estate.extractLsb' 4 4 == 7
          { t with run := (match t.run with | .mma _ => .ready | r => r), estate := if kept then t.estate &&& ~~~0xF0#32 else t.estate }) with
        cv := g.cv.set cv { c with st := .idle, signed := 0 }
        sticky := if c.mask &&& ~~~ c.signed = 0 then g.sticky else g.sticky ||| qexitBit }

/-- The bundle with the threads that the guard skipped among those that it selected. -/
def Sys2Proof.signers (b : Bundle) : Bundle := { b with members := b.members.map fun m => { m with sel := m.sel ||| m.skip } }

/-- R284, R285: an MMA of the bundle's one group, all of whose lanes sign: the register holds their rows and signatures; and when the last
member has signed and an entry is free, the pass is posted. -/
def Sys2Proof.Signs (i : Fin 16 → Fin 8 → LaneSrc → LaneSrc → Instr) (var : Nat) : Prop :=
  ∀ (n : Fin 16) (cv : Fin 8) (x y : LaneSrc) (s : State) (b : Bundle) (m : Member) (g : Group), Issues s b (infoOf (i n cv x y)) →
    SoleGroup s b m g → MaySign b m g n cv x y → s.skippedOwes b = false →
    let c := signedCv b m g var n cv x y
    let u := s.releaseBy (signers b) 3
    (¬AllSigned g c → ∃ t, exec (i n cv x y) s = .next t ∧ Agrees (u.modGroup b.core m.slot fun g => { g with cv := g.cv.set cv c }) t) ∧
    (AllSigned g c → (s.quads[quadOf b.core]).entries.length < 32 → ∃ t, exec (i n cv x y) s = .next t ∧
      Agrees (posting u b.core m.slot g cv c) t)

/-- R283 to R286: MMA signs, and the last signature posts the pass; on a register that is EMPTY it raises class 0x02.
The choices of log 37, 41 and 90 are the model's own. -/
def Obligations.MatrixMultiply : Prop :=
  Signs .mma 0 ∧ Signs .mmaZ 1 ∧
  ∀ (n : Fin 16) (cv : Fin 8) (x y : LaneSrc) (i : Instr), i = .mma n cv x y ∨ i = .mmaZ n cv x y →
    Completes i (fun s b => NoHandler s b ∧ ∃ m g, SoleGroup s b m g ∧ (g.cv[cv]).st = .empty ∧ m.skip = 0)
      fun s b => onGroups (s.releaseBy (signers b) 3) b fun m g => trapping b false (fun l => hasBit m.sel l) 0x02 [b.current, BitVec.ofNat 32 (b.idx + 1)] g

/-! #### MACC -/

/-- R293, R294: the groups of the bundle may use the tile: it is within each allotment, no signing holds it and no entry names it, no pass on it
has failed, and the word names no register beyond the allotment. -/
def Sys2Proof.TileFree (s : State) (b : Bundle) (i : Instr) (n : Fin 16) : Prop :=
  InAllot s b (infoOf i) ∧ ∀ x ∈ groupsOf s b, n.val < x.2.tiles.length ∧ (x.2.tiles.getD n.val Tile.fresh).err = 0 ∧
    (∀ c : Fin 8, (x.2.cv[c]).tile = n.val → (x.2.cv[c]).st = .empty ∨ (x.2.cv[c]).st = .idle) ∧
    (∀ e ∈ (s.quads[quadOf b.core]).entries, ¬(e.core = b.core ∧ e.slot = x.1.slot ∧ e.tile = some n.val)) ∧
    (List.finRange 32).any (x.2.active x.1 (prefixOf b)) = true

/-- The state after a synchronous form of MACC: for each group a join of the passes on the tile (R226), the tile and the threads that the word leaves, and CVX, which the
tile hands to the sticky flags; an inactive thread has zero in the registers `regs` under ZERO. -/
def Sys2Proof.usingTile (s : State) (b : Bundle) (n : Fin 16) (regs : List Nat) (tile : Member → Group → Tile → Tile) (thread : Member → Group → Tile → Lane → Thread → Thread)
    (cvx : Member → Group → Tile → Bool) : State :=
  s.eachMember b fun m s =>
    let known := ((s.group? b.core m.slot).bind fun g => g.tiles[n.val]?).map fun t => t.view
    (s.joinAt b.core m.slot m.sel 3 (known.getD .none)).modGroup b.core m.slot fun g =>
    let t := g.tiles.getD n.val Tile.fresh
    { (g.mapThreads fun l x => if g.active m (prefixOf b) l then thread m g t l x else if hasBit m.sel l then zeroRegs b regs g l x else x) with
      tiles := g.tiles.set n.val { tile m g { t with cvx := false } with view := .none }
      sticky := if t.cvx || cvx m g t then g.sticky ||| cvxBit else g.sticky }

/-- R294: the value of the element (r, c) of a tile, rounded into the word's MOD; outside `xf`, MOD 0 copies what the element holds. -/
def Sys2Proof.elementCode (b : Bundle) (g : Group) (t : Tile) (r c : Nat) : Coded :=
  match t.at_ r c, (prefixOf b).mod, g.contract with
  | .nan w, 0, n => if n = 0 then tileCode t.z32 0 (.nan w) (prefixOf b).mode (srValue (prefixOf b).mode g.seed (64 * r + c)) else ⟨w.toNat, false⟩
  | x, k, _ => tileCode t.z32 k x (prefixOf b).mode (srValue (prefixOf b).mode g.seed (64 * r + c))

/-- R294: the two elements that position `o` of the block names for lane `l`: one element under MOD 0, else two neighbours. -/
def Sys2Proof.positionCodes (b : Bundle) (g : Group) (t : Tile) (w : Fin 16) (o : Nat) (l : Lane) : List Coded :=
  if (prefixOf b).mod = 0 then [elementCode b g t (4 * w.val + o / 2) (2 * l.val + o % 2)]
  else [elementCode b g t (4 * w.val + o) (2 * l.val), elementCode b g t (4 * w.val + o) (2 * l.val + 1)]

/-- R294: element `i` of a tile after MACC.WR: the word in the block of the lane and position that name it, if the lane is active. -/
def Sys2Proof.writtenElem (b : Bundle) (m : Member) (g : Group) (t : Tile) (e : Ext) (d : Fin 128) (w : Fin 16) (i : Fin 4096) : Acc :=
  let l : Lane := ⟨i.val % 64 / 2, by omega⟩
  let o := 2 * (i.val / 64 - 4 * w.val) + i.val % 2
  let x := (g.threads[l]).lane g.ring (d.val + posOff e o)
  if 4 * w.val ≤ i.val / 64 ∧ o < (extShape e).1 * (extShape e).2 ∧ g.active m (prefixOf b) l = true then
    (if t.z32 then Acc.ofVal (Val.ofInt x.toInt) else Acc.held x)
  else t.elems[i]

/-- R292 to R294: the forms of MACC that act at once, where no group is to trap on CVX: MACC.ZERO clears the tile and sets its kind, MACC.RD reads
elements into the block of each active lane, MACC.WR writes elements from it. -/
def Sys2Proof.Claim.TileWords : Prop :=
  (∀ n : Fin 16, Completes (.maccZero n) (fun s b => TileFree s b (.maccZero n) n ∧ s.cvxOn b.core = false) fun s b =>
    usingTile s b n [] (fun _ _ _ => ⟨(prefixOf b).mod == 1, Vector.replicate 4096 .zero, false, 0, .none⟩) (fun _ _ _ _ x => x) fun _ _ _ => false) ∧
  ∀ (e : Ext) (d : Fin 128) (w n : Fin 16),
    let size := (extShape e).1 * (extShape e).2
    Completes (.maccRd e d w n) (fun s b => TileFree s b (.maccRd e d w n) n ∧ s.cvxOn b.core = false) (fun s b =>
      usingTile s b n (Block.of e d).regs (fun _ _ t => t)
        (fun _ g t l x => x.setBlock g.ring (Block.of e d).regs fun o =>
          let cs := positionCodes b g t w o l
          BitVec.ofNat 32 ((cs.map (·.code)).getD 0 0 + 2 ^ 16 * (cs.map (·.code)).getD 1 0))
        fun m g t => (List.finRange 32).any fun l : Lane => g.active m (prefixOf b) l && (List.range size).any fun o =>
          (positionCodes b g t w o l).any (·.cvx)) ∧
    Completes (.maccWr e d w n) (fun s b => TileFree s b (.maccWr e d w n) n ∧ s.cvxOn b.core = false) (fun s b =>
      usingTile s b n [] (fun m g t => { t with elems := Vector.ofFn (writtenElem b m g t e d w) })
        (fun _ _ _ _ x => x) fun _ _ _ => false)

/-- R295 to R297: a drain of the bundle's one group, on a tile that no signing holds, with a token that is not pending, whose destination passes
its checks: a release, the token pending, an operation that holds the destination, and an entry for the tile. -/
def Sys2Proof.Drains (i : Instr) (n : Fin 16) (token : Nat) (z : Bool) (dst : Bundle → Group → Option DrainDst) : Prop :=
  ∀ (s : State) (b : Bundle) (m : Member) (g : Group) (x : DrainDst), Issues s b (infoOf i) → OneGroup s b m g →
    (List.finRange 32).any (g.active m (prefixOf b)) = true → n.val < g.tiles.length →
    (∀ c : Fin 8, (g.cv[c]).tile = n.val → (g.cv[c]).st = .empty ∨ (g.cv[c]).st = .idle) →
    (s.quads[quadOf b.core]).entries.length < 32 → g.pendingToken token = false → g.pendingCount < 16 → (s.loading b.core m.slot g).contains token = false →
    dst b g = some x →
    let u := s.releaseBy b 5
    ∃ t, exec i s = .next t ∧ Agrees (((u.modGroup b.core m.slot fun g => g.startToken token).addOp b m.slot
      (laneMask (g.active m (prefixOf b)))
      (.drain token n.val z (prefixOf b).mod (prefixOf b).rnd g.seed x false [] (tileWidth (prefixOf b).mod) none none false 0)).modEntries
        (quadOf b.core) fun es => es ++ [⟨u.nextId, b.core, m.slot, g.team, some n.val, false, (u.cores[b.core]).cycles, .drain⟩]) t

/-- R296: a scratch destination that passes its checks: TP 0, base and pitch multiples of 4, and every element within seg2. -/
def Sys2Proof.scratchDst (d : Fin 128) (b : Bundle) (g : Group) : Option DrainDst :=
  let lo := (g.s[d]).toNat
  let hi := g.uni (d.val + 1)
  let rp := (hi.extractLsb' 0 16).toNat
  if hi.extractLsb' 16 12 = 0 ∧ lo % 4 = 0 ∧ rp % 4 = 0 ∧ ((List.range 4096).all fun i =>
      decide (rotate (hi.extractLsb' 28 4).toNat (i / 64) (lo + i / 64 * rp + i % 64 * tileWidth (prefixOf b).mod) + tileWidth (prefixOf b).mod ≤ segLimit g.seg[2]))
  then some (.scratch g.s[d] hi) else none

/-- R297: a record destination that passes its checks. -/
def Sys2Proof.recordDst (d : Fin 128) (r : Fin 16) (b : Bundle) (g : Group) : Option DrainDst :=
  let bits := g.b[(⟨r.val, by omega⟩ : Fin 32)]
  if g.drmCheck r.val bits (g.s[d]).toInt (g.uni (d.val + 1)).toNat (tileWidth (prefixOf b).mod) = none
  then some (.record bits (g.s[d]).toInt (g.uni (d.val + 1)).toNat (g.segment (Rec.of bits))) else none

/-- R292, R295 to R297: the drain forms. -/
def Sys2Proof.Claim.TileDrains : Prop :=
  ∀ (k : Fin 8) (d : Fin 128) (r n : Fin 16),
    Drains (.maccDrs k d n) n (112 + k.val) false (scratchDst d) ∧ Drains (.maccDrsZ k d n) n (112 + k.val) true (scratchDst d) ∧
    Drains (.maccDrm k d r n) n (112 + k.val) false (recordDst d r) ∧ Drains (.maccDrmZ k d r n) n (112 + k.val) true (recordDst d r)

/-- R292 to R297: the forms of MACC. The choices of log 65 and 66 are the model's own. -/
def Obligations.TileWordsAndDrains : Prop := Claim.TileWords ∧ Claim.TileDrains

/-! ### Matrix-vector calls and launches (R300 to R314, R378 to R396) -/

/-- R300, R301, R305: an MVX of the bundle's one group that passes the checks: a release, the token pending, and an operation that holds what the
call needs, the tenant's steering word, its path, and all its rows as still to be computed; the vectors of a handle are still to be read. -/
def Sys2Proof.Calls (i : Fin 128 → Fin 128 → Instr) (form : MvxForm) : Prop :=
  ∀ (d a : Fin 128) (s u : State) (b : Bundle) (m : Member) (g : Group) (p : MvxPlan) (path : Option Bool), Issues s b (infoOf (i d a)) → OneGroup s b m g →
    let words : Vector Word 4 := #v[g.uni a.val, g.uni (a.val + 1), g.uni (a.val + 2), g.uni (a.val + 3)]
    let x := MvxDesc.of words
    let th := if x.vh then s.handleOf g x.vsrc else none
    g.mvxCheck x (th.map (·.2)) (th.bind fun q => s.flow q.1 q.2) g.b[x.mrec] g.b[x.vsrc] g.b[x.orec] = .inl p →
    (s.releaseBy b 5).choosePath form b.core g.ctx (s.steerOf g.ctx) p g.b[x.mrec] (g.segment (Rec.of g.b[x.mrec])) (List.range (x.nr + 1)) = (u, path) →
    (form = .core → u = s.releaseBy b 5 ∧ path = some false) ∧
    ∃ t, exec (i d a) s = .next t ∧ Agrees ((u.modGroup b.core m.slot fun g => g.startToken d.val).addOp b m.slot m.sel
      (.mvx { token := d.val, desc := words, mrec := g.b[x.mrec], vrec := g.b[x.vsrc], orec := g.b[x.orec], seg0 := g.seg[0], seg4 := g.seg[4]
              ctx := g.ctx, contract := g.contract, seed := g.seed, steer := s.steerOf g.ctx
              vbuf := if x.vh then some x.vsrc else none, vecs := none
              vtag := p.b.code, bank := path.getD false, banked := false, todo := List.range (x.nr + 1), partials := [], wait := none
              fault := if path.isNone then some 0x02 else none, poison := false, cvx := false
              oob := (p.spans g.b[x.mrec] g.b[x.vsrc] g.b[x.orec]).any fun q => q.beyond.isSome, dropped := 0 })) t

/-- R300 to R305, R310: the MVX words. -/
def Sys2Proof.Claim.MatrixVectorCalls : Prop := Calls .mvx .guidon ∧ Calls .mvxC .core ∧ Calls .mvxB .bank

/-- The launch and the team of a group, where the launch has a ticket (R394). -/
def Sys2Proof.HasTicket (s : State) (g : Group) (l : Launch) (t : Team) : Prop :=
  s.launch? g.launch = some l ∧ s.team? g.team = some t ∧ l.tkt = true

/-- R395: the acquire read at `pkg` of a ticket word by the threads of a member, and the bytes that it gives. -/
def Sys2Proof.ticketRead (b : Bundle) (m : Member) (ts : List Target) (u : State) : State × List Byte :=
  let v := (u.acquire b.core 5).touchAll (corePort b.core) false false ts
  let got := v.loadOf b.core m.slot m.sel (v.pastOf b.core m.slot m.sel) false (some (v.reach 5)) none ts
  (got.1, got.2.1)

/-- R381, R394, R395: LAUNCH starts the operation that hands over a record of 576 bytes that lies in seg0 on a 64-byte boundary. TKT.WAIT goes on
once NEXT has reached the team, with what the ticket says, and else leaves its threads at the word; TKT.POST moves NEXT past the team whose turn it is, and does nothing for one whose turn has passed. -/
def Sys2Proof.Claim.LaunchAndTicketWords : Prop :=
  (∀ d a : Fin 128, Completes (.launch d a)
    (fun s b => ∃ m g, OneGroup s b m g ∧ ((g.uni (a.val + 1)).extractLsb' 0 25 ++ g.s[a]).toNat % 64 = 0 ∧
      ((g.uni (a.val + 1)).extractLsb' 0 25 ++ g.s[a]).toNat + 576 ≤ segLimit g.seg[0])
    fun s b => (groupsOf s b).foldl (fun s x => ((s.releaseBy b 5).modGroup b.core x.1.slot fun g => g.startToken d.val).addOp b x.1.slot x.1.sel
      (.launch d.val ((segBase x.2.seg[0] + ((x.2.uni (a.val + 1)).extractLsb' 0 25 ++ x.2.s[a]).toNat) % 2 ^ 57))) s) ∧
  (∀ (d : Fin 128) (s u : State) (b : Bundle) (m : Member) (g : Group) (l : Launch) (t : Team) (pa : Nat) (key : Option (Fin 8)),
    Issues s b (infoOf (.tktWait d)) → OneGroup s b m g → HasTicket s g l t →
    s.translate (.core b.core) l.ctx (l.counterVa l.tktoff / 128 * 128) false = (u, .ok pa key) →
    let x := ticketRead b m (lineTargets pa key (l.counterVa l.tktoff) 8) u
    let next := leValue (x.2.take 4)
    let bad := BitVec.ofNat 32 (leValue (x.2.drop 4))
    ∃ v, exec (.tktWait d) s = .next v ∧ Agrees (if t.index ≤ next then
        let past : Bool := decide (t.index < next)
        x.1.modGroup b.core m.slot fun g => { g with s := g.s.set d (bad.extractLsb' 16 16 ++ (0 : BitVec 14) ++ BitVec.ofBool past
          ++ BitVec.ofBool (bad.getLsbD 0 && decide ((bad.extractLsb' 16 16).toNat < t.index))) }
      else x.1.modGroup b.core m.slot fun g => g.mapThreads fun l t => if hasBit m.sel l then t.standAt b b.idx .tkt else t) v) ∧
  ∀ (s u : State) (b : Bundle) (m : Member) (g : Group) (l : Launch) (t : Team) (pa : Nat) (key : Option (Fin 8)),
    Issues s b (infoOf .tktPost) → OneGroup s b m g → HasTicket s g l t →
    s.translate (.core b.core) l.ctx (l.counterVa l.tktoff / 128 * 128) true = (u, .ok pa key) →
    let ts := lineTargets pa key (l.counterVa l.tktoff) 8
    let x := ticketRead b m ts u
    let next := leValue (x.2.take 4)
    ∃ v, exec .tktPost s = .next v ∧ Agrees (if next = t.index then
        let w := ((x.1.release b.core 5).atWrite b.core m.slot m.sel).touchAll (corePort b.core) false true ts
        (w.storeOf b.core m.slot m.sel (w.pastOf b.core m.slot m.sel) (some (w.reach 5)) Way.past [] (ts.zip (leBytes 4 (t.index + 1)))).1.modTeam
          t.key fun t => { t with posted := true }
      else if t.index < next then x.1
      else x.1.modGroup b.core m.slot fun g => g.mapThreads fun l t => if hasBit m.sel l then t.standAt b b.idx .tkt else t) v

/-- R392, R393: RESV of the bundle's one group, whose worst cases and slots pass the checks: slot `i` has the cursor, the end and the number that the running
sum of the worst cases from the origin gives, and sD the end of the last; BOUNDS is set where a worst case is out of bounds. -/
def Sys2Proof.Claim.Reservations : Prop :=
  ∀ (d a : Fin 128) (r : Fin 32) (s u v w : State) (b : Bundle) (m : Member) (g : Group) (q z : Passed) (worst : List Nat), Issues s b (infoOf (.resv d a r)) →
    OneGroup s b m g →
    let n := (g.uni a.val).toNat
    let origin := (g.uni (a.val + 1)).toNat
    let off := (g.uni (a.val + 2)).toNat
    0 < n → n ≤ 65536 → (Rec.of g.b[r]).legal false = true → (Rec.of g.b[r]).elem = 4 → off % 16 = 0 → off + 16 * n ≤ segLimit g.seg[3] →
    4 * s.cellCount g.ctx ≤ off →
    s.placeGroup b m r.val (resvSource g.b[r] n) 0 = (u, some q) → u.resvLoad b m (Rec.of g.b[r]) n q.elems = (v, worst) →
    let from_ := fun i => origin + (worst.take i).sum
    q.elems.any (fun e => e.2.any u.poisonedTarget) = false → from_ n ≤ 0xFFFFFFFF → v.placeGroup b m 0 (resvSlots off n) 0 = (w, some z) →
    let x := w.atWrite b.core m.slot m.sel
    ∃ t, exec (.resv d a r) s = .next t ∧ Agrees (((z.elems.foldl (fun s e =>
      (s.storeElem b.core m.slot m.sel (x.pastOf b.core m.slot m.sel) none Way.past (s.writesFrom w.nextId) e.1 e.2
        (if e.1.pos < n then from_ e.1.pos + from_ (e.1.pos + 1) * 2 ^ 32 + e.1.pos * 2 ^ 64 else e.1.pos * 2 ^ 64)).1)
      (x.touchAll .home false true (z.elems.flatMap fun e => e.2))).noteBounds b m (!q.oob.isEmpty)).modGroup b.core m.slot
        fun g => { g with s := g.s.set d (BitVec.ofNat 32 (from_ n)) }) t

/-- R381, R392 to R395: LAUNCH, TKT and RESV. The choices of log 35 and 37 are the model's own. -/
def Obligations.TicketsAndReservations : Prop := Claim.LaunchAndTicketWords ∧ Claim.Reservations

/-! ### Prefixes, reconvergence and barriers (R66, R165 to R169) -/

/-- R66: a PREFIX that stands before another word of its clause, and behind no prefix, keeps its fields for that word, counts as an issue (R108), and one cycle passes. -/
def Sys2Proof.Claim.Prefixes : Prop :=
  ∀ (q : Fin 64) (sense : Bool) (r : Fin 8) (z : Bool) (f : Fin 128) (o : Fin 8) (c : Fin 16) (s : State) (b : Bundle) (rest : List Bundle),
    s.bundles = b :: rest → (∀ m ∈ s.members b, s.breaks b m = none) → s.stalls b {} = false → b.pfx = none → b.idx + 1 < b.words.length →
    let counted := (s.members b).foldl (fun s m => s.modCore b.core fun x =>
      { x with sched := x.sched.set m.slot ((x.sched[m.slot]).issued (b.offset b.here) false) }) s
    exec (.pfx q sense r z f o c) s = .next ({ counted with bundles := { b with idx := b.idx + 1
                                                                                pfx := some ⟨q.val, sense, r.val, z, f.val, o.val, c.val⟩ } :: rest }.elapse b.core 1)

/-- R66, R122: MOVI and PREFIX. -/
def Obligations.MoveImmediateAndPrefixes : Prop := Claim.MoveImmediate ∧ Claim.Prefixes

/-- The address of the word at which a thread of no handler waits. -/
def Sys2Proof.waitAddress (t : Thread) : Word :=
  match t.inside with
  | some i => t.pc + 4 * BitVec.ofNat 32 i + 4
  | none => t.pc

/-- R165, R167, R168, R219: RCV and the barriers leave the threads at the word, BAR.CLU behind a release at the cluster. When
each thread of a group is held, those that wait at the lowest RCV go on together; when each thread of a team that has not exited waits at the
barrier, and no group of the team is away (R171), they all go on, and what was before the barrier in any of them is before what follows it in each. -/
def Sys2Proof.Claim.Reconvergence : Prop :=
  Completes .rcv (fun _ _ => True) (fun s b => onSelected s b fun _ _ t => t.standAt b b.idx .rcv) ∧
  (∀ n : Fin 16,
    Completes (.barTeam n) (fun _ _ => True) (fun s b => onSelected s b fun _ _ t => t.standAt b b.idx (.bar false n)) ∧
    Completes (.barClu n) (fun _ _ => True)
      (fun s b => onSelected (s.releaseBy b 3) b fun _ _ t => t.standAt b b.idx (.bar true n))) ∧
  (∀ (s : State) (c : CoreId) (k : Slot) (g : Group) (low : Word), s.group? c k = some g → g.handler = none →
    (∀ l : Lane, let r := (g.threads[l]).run; r = .exited ∨ r = .rcv ∨ ∃ clu n, r = .bar clu n) →
    (∃ l : Lane, (g.threads[l]).run = .rcv ∧ waitAddress g.threads[l] = low) →
    (∀ l : Lane, (g.threads[l]).run = .rcv → low ≤ waitAddress g.threads[l]) →
    (s.settleRcv c k).group? c k = some (g.mapThreads fun _ t => if t.run = .rcv ∧ waitAddress t = low then standing t (low + 4) else t)) ∧
  (∀ (s : State) (c : CoreId) (k : Slot) (g : Group) (l : Lane), s.group? c k = some g → g.handler = none →
    (g.threads[l]).run = .ready → (g.threads[l]).inside.isSome = true → s.settleRcv c k = s) ∧
  ∀ (s : State) (t : Team) (n : Fin 16), s.team? t.key = some t →
    (s.arrived t false n = s.expected t → s.expected t ≠ 0 → t.out = [] → ∀ p ∈ s.teamGroups t, p.2.handler = none →
      ∃ h, (s.settleBar t.key false n).group? t.core p.1 = some h ∧
        h.threads = (p.2.mapThreads fun _ x => if x.run = .bar false n then
          { standing x (waitAddress x + 4) with ord := x.ord.hear (s.barView [t] false n) } else x).threads) ∧
    (s.arrived t false n ≠ s.expected t → s.settleBar t.key false n = s)

/-- R157, R158, R165 to R168: the branches, RCV and the barriers. -/
def Obligations.BranchesAndReconvergence : Prop := Claim.Branches ∧ Claim.Reconvergence

/-! ### Allotments and tokens (R102 to R106, R113 to R118) -/

/-- R116, R117: a grant: the group has its allotment and its tiles, every register of its threads from v16 on is zero, every turn is 0, threads
that wait in ACQ are ready, and the first grant zeroes the scratch allotment. -/
def Sys2Proof.Grants (s : State) : Prop :=
  ∀ (c : CoreId) (k : Slot) (g : Group), s.group? c k = some g → ∃ h, (s.grant c k).group? c k = some h ∧
    h.allot = { g.allot with granted := true, zeroed := true } ∧ h.tiles = List.replicate g.allot.a ⟨false, Vector.replicate 4096 .zero, false, 0, .none⟩ ∧
    (∀ l : Lane, (g.threads[l]).gone = false → (h.threads[l]).turn = 0 ∧
      (∀ n : Fin 128, (h.threads[l]).v[n] = if n.val < 16 then (g.threads[l]).v[n] else 0) ∧
      (h.threads[l]).run = (if (g.threads[l]).run = .acq then .ready else (g.threads[l]).run) ∧
      (h.threads[l]).q = (g.threads[l]).q ∧ (h.threads[l]).pc = (g.threads[l]).pc) ∧
    (g.allot.zeroed = false → ∀ o, s.allotOffset g ≤ o → o < s.allotOffset g + g.allot.c → getCell ((s.grant c k).cores[c]).scratch o = 0) ∧
    (∀ o, g.allot.zeroed = true ∨ o < s.allotOffset g ∨ s.allotOffset g + g.allot.c ≤ o →
      getCell ((s.grant c k).cores[c]).scratch o = getCell (s.cores[c]).scratch o) ∧
    (s.grant c k).mem = s.mem ∧ ∀ d j, (d, j) ≠ (c, k) → (s.grant c k).group? d j = s.group? d j

/-- R115 to R117, R299: ACQ returns at once in a group that holds its allotment, and else posts its group's request and leaves its threads behind the
word; ACQ.TRY says whether the group holds or now gets it; ACQ.REL gives lanes and tiles back once the group's operations have ended. The
arbiter of a quad grants the first request when its resources are free. -/
def Sys2Proof.Claim.Allotments : Prop :=
  (∀ s : State, Grants s) ∧
  Completes .acq (fun s b => ∀ x ∈ groupsOf s b, x.2.allot.granted = true) (fun s _ => s) ∧
  Completes .acq (fun s b => ∀ x ∈ groupsOf s b, x.2.allot.granted = false ∧ (b.core, x.1.slot) ∉ (s.quads[quadOf b.core]).acq)
    (fun s b => { onSelected s b fun _ _ t => t.standAt b (b.idx + 1) .acq with
      quads := s.quads.set (quadOf b.core) { s.quads[quadOf b.core] with
        acq := (s.quads[quadOf b.core]).acq ++ (groupsOf s b).map fun x => (b.core, x.1.slot) } }) ∧
  (∀ d : Fin 128,
    Completes (.acqTry d) (fun s b => ∃ m g, OneGroup s b m g) fun s b => (groupsOf s b).foldl (fun s x =>
      let now := !x.2.allot.granted && s.standsFirst b.core x.1.slot && decide (s.rowsHeld b.core + (x.2.allot.k - 16) ≤ 3968)
        && decide (s.tilesHeld (quadOf b.core) + x.2.allot.a ≤ 128)
      (if now then s.grant b.core x.1.slot else s).modGroup b.core x.1.slot fun g =>
        { g with s := g.s.set d (if x.2.allot.granted || now then 1 else 0) }) s) ∧
  Completes .acqRel (fun s b => ∀ x ∈ groupsOf s b, x.2.allot.granted = true →
      (∀ n : Fin 12, x.2.pip[n] = 0) ∧ (∀ t ∈ x.2.tokens, t.done = true) ∧
      (∀ e ∈ (s.quads[quadOf b.core]).entries, e.core = b.core → e.slot = x.1.slot → e.tile = none) ∧
      ∀ n : Fin 8, (x.2.cv[n]).st = .empty ∨ (x.2.cv[n]).st = .idle)
    (fun s b => onGroups s b fun _ g => if g.allot.granted then
      { (g.mapThreads fun _ t => { t with turn := 0 }) with allot := { g.allot with granted := false }, tiles := [] } else g) ∧
  ∀ (s : State) (q : QuadId) (c : CoreId) (k : Slot) (rest : List (CoreId × Slot)) (g : Group), (s.quads[q]).acq = (c, k) :: rest →
    s.group? c k = some g → s.rowsHeld c + (g.allot.k - 16) ≤ 3968 → s.tilesHeld (quadOf c) + g.allot.a ≤ 128 →
    exec (.acqGrant q) s = .next (s.grant c k)

/-- R104, R106: a group after the join of the completed token `a`: its CVX and BOUNDS join the sticky flags. -/
def Sys2Proof.joining (a : Fin 128) (g : Group) : Group :=
  let done := g.tokens.filter fun t => t.done && t.reg == a.val
  let status := g.s[a]
  let oob := done.any fun t => t.bounds || (status.extractLsb' 8 8 == 1 && !status.getLsbD 3 && status.getLsbD 17)
  { g with
    tokens := g.tokens.filter fun t => !(t.done && t.reg == a.val)
    sticky := g.sticky ||| (if !done.isEmpty && status.getLsbD 1 then cvxBit else 0) ||| (if oob then boundsBit else 0) }

/-- R104: the join of the register `a` raises nothing. -/
def Sys2Proof.JoinsWell (s : State) (b : Bundle) (a : Fin 128) (g : Group) : Prop :=
  (g.tokens.any fun t => t.done && t.reg == a.val) = true →
    (let w := g.s[a]; (w.extractLsb' 8 8 = 4 ∨ (w.getLsbD 3 = false ∧ w.getLsbD 2 = false)) ∧ (w.getLsbD 1 = false ∨ s.cvxOn b.core = false))

/-- R102, R106: the words of TSYNC: ALL goes on when the group has no pending token; POLL reads 0 of a pending one, and joins a completed one and
reads its status, behind an acquire where R226 asks for one; COUNT and PIPS read how many tokens are pending and which pips are. -/
def Obligations.TokenSynchronisation : Prop :=
  Completes .tsyncAll (fun s b => ∀ x ∈ groupsOf s b, ∀ t ∈ x.2.tokens, t.done = true) (fun s _ => s) ∧
  ∀ d a : Fin 128,
    WritesUniform (.tsyncCount d) d (fun g => BitVec.ofNat 32 (g.tokens.filter fun t => !t.done).length) ∧
    WritesUniform (.tsyncPips d) d (fun g => BitVec.ofNat 32 ((List.finRange 12).map fun n : Fin 12 => if g.pip[n] = 0 then 0 else 2 ^ n.val).sum) ∧
    Completes (.tsyncPoll d a) (fun s b => ∀ x ∈ groupsOf s b, x.2.tokens.any (fun t => t.reg == a.val && !t.done) = true)
      (fun s b => onGroups s b fun _ g => { g with s := g.s.set d 0 }) ∧
    Completes (.tsyncPoll d a) (fun s b => ∀ x ∈ groupsOf s b, x.2.tokens.any (fun t => t.reg == a.val && !t.done) = false ∧ JoinsWell s b a x.2)
      (fun s b => s.eachMember b fun m s => match s.group? b.core m.slot with
        | some g =>
          let mine := g.tokens.filter fun t => t.done && t.reg == a.val
          (s.joinAt b.core m.slot m.sel (if mine.any fun _ => decide ((g.s[a]).extractLsb' 8 8 ≤ 2) then 3 else 0) (View.joins (mine.map fun t => t.did))).modGroup
            b.core m.slot fun g => { joining a g with s := g.s.set d g.s[a] }
        | none => s)

/-! ### The picker and the active set (R91 to R98, R107, R110, R163) -/

/-- The event happens: where `when_` holds, it leaves the state `u`. -/
def Sys2Proof.Happens (i : Instr) (when_ : State → Prop) (u : State → State) : Prop := ∀ s, when_ s → exec i s = .next (u s)

/-- R172: the masks of cv0 to cv3. -/
def Sys2Proof.setsNow (g : Group) : Vector Word 4 := #v[(g.cv[(0 : Fin 8)]).mask, (g.cv[(1 : Fin 8)]).mask, (g.cv[(2 : Fin 8)]).mask, (g.cv[(3 : Fin 8)]).mask]

/-- R48, R172: a thread whose group joins a bundle at the header `pc`: it is in the bundle, with the gathering sets as they stand, if the guard reading
selects it, and else stands at the next header. -/
def Sys2Proof.readGuard (pc after : Word) (guard : Nat) (sense : Bool) (sets : Vector Word 4) (t : Thread) : Thread :=
  if t.pred guard != sense then { t with run := .member, pc := pc, inside := none, guard := true, sets := sets } else standing t after

/-- R45, R48, R94, R98, R173: the picker opens a bundle at the header of its lead thread, with the threads that stand there, or inside the clause where the
lead thread resumes, with those of its group that `share` names and resume there, at a gathering word with all of them. -/
def Sys2Proof.Claim.BundleFormation : Prop :=
  (∀ (core : CoreId) (share : BitVec 32) (s u : State) (k : Slot) (l : Lane) (g : Group) (h : Word) (ws : List Word),
    (s.cores[core]).stopped = false → (s.fillActive core).lead core = some (k, l) → (s.fillActive core).group? core k = some g →
    (g.threads[l]).inside = none →
    let pc := (g.threads[l]).pc
    (s.fillActive core).fetchClause core g pc = (u, .ok) → u.ecc = [] → codeAt (u.codeOf g) pc = some h → clauseWords (u.codeOf g) pc = some ws →
    clauseFault h ws = none → (∀ w ∈ ws, w.extractLsb' 25 7 ≠ 0x38) →
    let ms := u.gathered core g.launch g.handler.isSome pc
    ms ≠ [] →
    let hit := fun (m : Slot × Word) (l : Lane) => hasBit m.2 l && match u.group? core m.1 with
      | some x => (x.threads[l]).pred (h.extractLsb' 1 6).toNat != h.getLsbD 0
      | none => false
    let members := (ms.filter fun m => (List.finRange 32).any (hit m)).map fun m => (⟨m.1, laneMask (hit m), 0⟩ : Member)
    ∃ t, exec (.pickerFormBundle core share) s = .next t ∧
      t.bundles = u.bundles ++ (if members.isEmpty then [] else [⟨core, pc, g.handler.isSome, ws, 0, setA h, setB h, true, members, none, false, u.nextId⟩]) ∧
      ∀ m ∈ ms, t.group? core m.1 = (u.group? core m.1).map fun x => x.mapThreads fun l y =>
        if hasBit m.2 l then readGuard pc (pc + BitVec.ofNat 32 (4 * (ws.length + 1))) (h.extractLsb' 1 6).toNat (h.getLsbD 0) (setsNow x) y else y) ∧
  ∀ (core : CoreId) (share : BitVec 32) (s : State) (k : Slot) (l : Lane) (g : Group) (i : Nat) (h : Word) (ws : List Word),
    (s.cores[core]).stopped = false → (s.fillActive core).lead core = some (k, l) → (s.fillActive core).group? core k = some g →
    (g.threads[l]).inside = some i → codeAt ((s.fillActive core).codeOf g) (g.threads[l]).pc = some h →
    clauseWords ((s.fillActive core).codeOf g) (g.threads[l]).pc = some ws →
    let in_ := fun x : Lane => x == l || ((hasBit share x || (gatherAt ws i).isSome) && (s.fillActive core).formable g x && (g.threads[x]).inside == some i &&
      (g.threads[x]).pc == (g.threads[l]).pc)
    exec (.pickerFormBundle core share) s = .next { (s.fillActive core).setGroup core k (some (g.mapThreads fun x t =>
        if in_ x then { t with run := .member, inside := none } else t)) with
      nextId := (s.fillActive core).nextId + 1
      bundles := (s.fillActive core).bundles ++ [⟨core, (g.threads[l]).pc, g.handler.isSome, ws, i, setA h, setB h, !(ws.take i).any pipTracked,
        [⟨k, laneMask fun x => in_ x && (g.threads[x]).guard, laneMask fun x => in_ x && !(g.threads[x]).guard⟩], none, false, (s.fillActive core).nextId⟩] }

/-- R53: a static check fails in the clause at the header where a bundle would form: every thread gathered there raises its class before any word takes
effect and before any pip changes, whatever its guard is, with the failing word (of an index 0, the header) and its index in the record; no
bundle opens. In handler mode the team ends. -/
def Sys2Proof.Claim.ClauseChecks : Prop :=
  ∀ (core : CoreId) (share : BitVec 32) (s u : State) (k : Slot) (l : Lane) (g : Group) (h : Word) (ws : List Word) (n cls : Nat),
    (s.cores[core]).stopped = false → (s.fillActive core).lead core = some (k, l) → (s.fillActive core).group? core k = some g →
    (g.threads[l]).inside = none →
    let pc := (g.threads[l]).pc
    (s.fillActive core).fetchClause core g pc = (u, .ok) → u.ecc = [] → codeAt (u.codeOf g) pc = some h → clauseWords (u.codeOf g) pc = some ws →
    clauseFault h ws = some (n, cls) →
    let ms := u.gathered core g.launch g.handler.isSome pc
    (g.handler = none → ∃ t, exec (.pickerFormBundle core share) s = .next t ∧
      (∀ b ∈ t.bundles, ∃ c ∈ u.bundles, c.born = b.born) ∧
      ∀ m ∈ ms, ∀ x, u.group? core m.1 = some x → ∃ y, t.group? core m.1 = some y ∧ y.pip = x.pip ∧ y.sticky = x.sticky ∧ y.s = x.s ∧
        ∀ l : Lane, hasBit m.2 l = true → y.threads[l] = { x.threads[l] with
          trap := some ((x.threads[l]).trap.getD ⟨cls, pc, [if n = 0 then h else ws.getD (n - 1) 0, BitVec.ofNat 32 n]⟩) }) ∧
    ∀ (m : Slot × Word) (x : Group), ms = [m] → u.group? core m.1 = some x → x.handler.isSome = true →
      exec (.pickerFormBundle core share) s = .next ((u.killTeam x.team cls).logged (.killed core m.1 cls))

/-- R91 to R93, R107, R110, R163: how groups enter and leave the active set, and threads come back from YIELD. A blocked ACTIVE group that qualifies makes
room for the PENDING group that comes next; a group that has been ready for 1,536 cycles without issue is STARVED, and a STARVED PENDING group
comes in, into free room or for the group that it displaces. -/
def Sys2Proof.Claim.ActiveSet : Prop :=
  (∀ (core : CoreId) (a p : Slot), Happens (.swapOut core a) (fun s => s.swappable core a = true ∧ s.nextPending core s.swapReady = some p)
    fun s => (s.modGroup core a fun g => { g with st := .pending }).modGroup core p fun g => { g with st := .active }) ∧
  (∀ (core : CoreId) (k : Slot), Happens (.groupStarved core k)
    (fun s => ∃ g, s.group? core k = some g ∧ s.groupReady g = true ∧ 1536 ≤ ((s.cores[core]).sched[k]).starve)
    fun s => s.modCore core fun x => { x with sched := x.sched.set k { x.sched[k] with starved := true } }) ∧
  (∀ (core : CoreId) (k : Slot), Happens (.starvedSwapIn core k)
    (fun s => (∃ g, s.group? core k = some g ∧ g.st = .pending ∧ s.groupReady g = true) ∧ ((s.cores[core]).sched[k]).starved = true ∧ (s.activeSlots core).length < 8)
    fun s => s.modGroup core k fun g => { g with st := .active }) ∧
  (∀ (core : CoreId) (k p : Slot), Happens (.starvedSwapIn core k)
    (fun s => (∃ g, s.group? core k = some g ∧ g.st = .pending ∧ s.groupReady g = true) ∧ ((s.cores[core]).sched[k]).starved = true ∧ 8 ≤ (s.activeSlots core).length ∧
      s.displaced core = some p)
    fun s => (s.modGroup core p fun g => { g with st := .pending }).modGroup core k fun g => { g with st := .active }) ∧
  ∀ (core : CoreId) (k : Slot) (l : Lane), Happens (.yieldExpiry core k l)
    (fun s => ∃ g n, s.group? core k = some g ∧ (g.threads[l]).run = .yield n ∧ n ≤ (s.cores[core]).cycles)
    fun s => s.modGroup core k fun g => g.modThread l fun t => { t with run := .ready }

/-- R45, R48, R91 to R98, R107, R110, R163: the picker and the active set. The choices of log 44 and 68 are the model's own. -/
def Obligations.BundlesAndActiveSet : Prop := Claim.BundleFormation ∧ Claim.ClauseChecks ∧ Claim.ActiveSet

/-! ### Operations that complete (R99 to R104, R203, R206, R223, R270, R327) -/

/-- R103: a status word: DETAIL, KIND, FAULT, POISON, CVX and DONE. -/
def Sys2Proof.statusOf (kind detail : Nat) (fault poison cvx : Bool) : Word :=
  BitVec.ofNat 16 detail ++ BitVec.ofNat 8 kind ++ (0 : BitVec 4) ++ BitVec.ofBool fault ++ BitVec.ofBool poison ++ BitVec.ofBool cvx ++ (1 : BitVec 1)

/-- The operation of a number holds this work. -/
def Sys2Proof.Working (s : State) (id : Nat) (o : Op) (w : Work) : Prop := s.op? id = some o ∧ o.work = w

/-- R100, R132: the results `ws` of an operation arrive in the rows of a group. -/
def Sys2Proof.arriving (s : State) (o : Op) (ws : List LaneWrite) (g : Group) : Group := g.land o ((s.cores[o.core]).cycles) ws

/-- R100, R120, R132, R401: how results arrive: one after another, each in its bits of its row, but for those in which a fixed-latency result lands
later; one for v0 or v1 of kernel code while its group is in handler mode, in what the entry has saved, and so the status word of a token of s124 to
s127. -/
def Sys2Proof.Claim.Arrival : Prop :=
  (∀ (o : Op) (now : Nat) (ws vs : List LaneWrite) (g : Group), g.land o now (ws ++ vs) = (g.land o now ws).land o now vs) ∧
  (∀ (w : LaneWrite) (old : Word) (i : Nat), i < 32 → w.shift + w.width ≤ 32 →
    (w.into old).getLsbD i = if w.shift ≤ i ∧ i < w.shift + w.width then w.value.testBit (i - w.shift) else old.getLsbD i) ∧
  (∀ (o : Op) (now : Nat) (w : LaneWrite) (g : Group),
    ((∀ x ∈ g.landing, x.lane = w.lane → x.row = w.row → now < x.time → x.shift + x.width ≤ w.shift ∨ w.shift + w.width ≤ x.shift) →
      (2 ≤ w.row.val ∨ o.handler = g.handler.isSome → g.land o now [w] = g.modThread w.lane fun t =>
        if t.gone then t else { t with v := t.v.set w.row (w.into t.v[w.row]) }) ∧
      (o.handler = false → g.handler.isSome = true → ∀ n : Fin 2, w.row.val = n.val → g.land o now [w] = g.modThread w.lane fun t =>
        if t.gone then t else if n = 0 then { t with sv0 := w.into t.sv0 } else { t with sv1 := w.into t.sv1 })) ∧
    ((∃ x ∈ g.landing, x.lane = w.lane ∧ x.row = w.row ∧ now < x.time ∧ x.shift ≤ w.shift ∧ w.shift + w.width ≤ x.shift + x.width) → 0 < w.width →
      g.land o now [w] = g)) ∧
  ∀ (o : Op) (g : Group) (n : Fin 4) (x : Word) (bounds : Bool), o.handler = false → g.handler.isSome = true →
    g.endTokenFor o (124 + n.val) x bounds = { g with
      handler := g.handler.map fun d => { d with shadow := d.shadow.set n x }
      tokens := ⟨252 + n.val, true, bounds, o.view.join o.did⟩ :: g.tokens.filter fun t => t.reg != 252 + n.val }

/-- R109: the group of an operation is changed by `f`; where that changes a register, the group's watch for a barren loop starts anew. -/
def Sys2Proof.landing (s : State) (o : Op) (f : Group → Group) : State :=
  match s.group? o.core o.slot with
  | none => s
  | some g =>
    let u := s.setGroup o.core o.slot (some (f g))
    if g.sameRegs (f g) then u else u.modCore o.core fun x => { x with sched := x.sched.set o.slot ((x.sched[o.slot]).noise o.fword) }

/-- R401: the uniform register is no register that the handler's entry has set aside while the operation belongs to kernel code, or the other way round. -/
def Sys2Proof.OwnRegister (s : State) (o : Op) (n : Nat) : Prop := n < 128 ∧ (124 ≤ n → ∀ g, s.group? o.core o.slot = some g → o.handler = g.handler.isSome)

/-- R99, R100, R203, R206, R223, R225, R270, R327, R401: what a completion does: results land, a pip falls, a token has its status word, data of a ULD
and of an XPLD arrive, and a dirty line is in memory. -/
def Sys2Proof.Claim.Completions : Prop :=
  (∀ (id : Nat) (o : Op) (p : Fin 12) (ws : List LaneWrite) (cvx : Word) (oob : Bool), Happens (.pipOperationComplete id)
    (fun s => Working s id o (.pip p ws cvx [] oob) ∧ (cvx = 0 ∨ s.cvxOn o.core = false))
    fun s => (landing s o fun g => { arriving s o ws g with
      pip := g.pip.set p (g.pip[p] - 1)
      sticky := g.sticky ||| (if cvx = 0 then 0 else cvxBit) ||| if oob then boundsBit else 0 }).dropOp id) ∧
  (∀ (id : Nat) (o : Op) (ws : List (Fin 128 × Word)) (va : Nat), Happens (.uldDataReturn id)
    (fun s => Working s id o (.uld ws false va) ∧ ∀ w ∈ ws, OwnRegister s o w.1.val)
    fun s => (landing s o fun g => { g with s := ws.foldl (fun v w => v.set w.1 w.2) g.s }).dropOp id) ∧
  (∀ (id : Nat) (o : Op) (n : Fin 4) (x : Word) (va : Nat), Happens (.uldDataReturn id)
    (fun s => Working s id o (.uld [(⟨124 + n.val, by omega⟩, x)] false va) ∧ o.handler = false ∧ ∃ g, s.group? o.core o.slot = some g ∧ g.handler.isSome = true)
    fun s => (landing s o fun g => { g with handler := g.handler.map fun d => { d with shadow := d.shadow.set n x } }).dropOp id) ∧
  (∀ (id : Nat) (o : Op) (x : Fin 16) (bs : List (Nat × Byte)) (va : Nat), Happens (.xpldDataReturn id)
    (fun s => Working s id o (.xpld x bs false va) ∧ ∀ p ∈ s.ops, p.core = o.core → p.id < id → ∀ y ys q v, p.work = .xpld y ys q v → y ≠ x)
    fun s => (s.modCore o.core fun c => c.setPattern x bs).dropOp id) ∧
  (∀ (id : Nat) (o : Op) (token : Nat) (ws : List LaneWrite) (oob : Word) (fault poison : Bool), Happens (.ldaComplete id)
    (fun s => Working s id o (.lda token ws [] oob fault poison) ∧ s.engineHeld o.core o.slot = false ∧ (s.group? o.core o.slot).isSome = true ∧
      OwnRegister s o token)
    fun s => (landing s o fun g => { (arriving s o ws g) with
      s := g.s.set (regIx token) (statusOf 3 (if fault then 0x06 else (maskLanes oob).length) fault poison false)
      tokens := ⟨token, true, oob != 0, o.view.join o.did⟩ :: g.tokens.filter fun t => t.reg != token }).dropOp id) ∧
  (∀ (id : Nat) (o : Op) (token count : Nat) (ws : List LaneWrite) (fault poison : Bool), Happens (.plyGetComplete id)
    (fun s => Working s id o (.plyGet token ws count fault poison) ∧ OwnRegister s o token)
    fun s => (landing s o fun g => { (arriving s o ws g) with
      s := g.s.set (regIx token) (statusOf 5 (if fault then 0x06 else count) fault poison false)
      tokens := ⟨token, true, false, o.view.join o.did⟩ :: g.tokens.filter fun t => t.reg != token }).dropOp id) ∧
  ∀ (core : CoreId) (line : Nat) (s : State), s.lineHeld line = false →
    let dirty := (s.cores[core]).l1.filter fun b => b.dirty && b.pa / 128 == line
    let t := (dirty.map fun b => (b.key, line)).eraseDups.foldl (fun s l => s.touch (corePort core) l.1 (l.2 * 128) (dirty.any fun b => b.comp) true) s
    exec (.l1DirtyWriteback core line) s = .next ((t.standAll (coreDie core) false (t.knownTo (dirty.filterMap (·.src)).eraseDups)
      (dirty.map fun b => ((.phys (b.pa / 8) b.key, b.pa), b.value, b.src.getD 0))).modCore core fun x =>
        { x with l1 := x.l1.map fun b => if b.pa / 128 = line then { b with dirty := false } else b })

/-- R204, R400, R402: a load that has met poison: each of its threads that read a poisoned element raises class 0x08 with the address of the lowest of these, and
stands at the load's word again; one of a word of the handler ends the team. -/
def Sys2Proof.Claim.PoisonedLoads : Prop :=
  ∀ (id : Nat) (o : Op) (p : Fin 12) (ws : List LaneWrite) (bad : List (Lane × Nat)) (oob : Bool) (s : State) (g : Group),
    Working s id o (.pip p ws 0 bad oob) → s.group? o.core o.slot = some g → bad ≠ [] → (bad.map (·.1)).Nodup →
    (∀ x ∈ bad, (g.threads[x.1]).gone = false ∧ (g.threads[x.1]).trap = none) →
    (o.handler = false → g.handler = none → ∃ t h, exec (.pipOperationComplete id) s = .next t ∧ t.group? o.core o.slot = some h ∧
      h.pip = g.pip.set p (g.pip[p] - 1) ∧ ∀ x ∈ bad, (h.threads[x.1]).trap = some ⟨0x08, o.fword, vaDetail 0 x.2⟩ ∧ (h.threads[x.1]).run = .ready ∧
        (h.threads[x.1]).pc = o.pc ∧ (h.threads[x.1]).inside = some ((o.fword - o.pc).toNat / 4 - 1) ∧ (h.threads[x.1]).guard = true) ∧
    (o.handler = true → exec (.pipOperationComplete id) s = .next ((((landing s o fun g => { arriving s o ws g with
      pip := g.pip.set p (g.pip[p] - 1)
      sticky := g.sticky ||| if oob then boundsBit else 0 }).dropOp id).killTeam g.team 0x08).logged (.killed o.core o.slot 0x08)))

/-! ### Answers to fault entries (R364) -/

/-- R364: a thread that waits for fault entries learns that one is answered. -/
def Sys2Proof.answeredThread (id va : Nat) (fail : Bool) (t : Thread) : Thread :=
  match t.run with
  | .parked ids failed =>
    if ids.contains id then
      if ids.all (· == id) then { t with run := .ready, trap := if failed || fail then some (t.trap.getD ⟨0x06, waitAddress t, vaDetail 6 va⟩) else t.trap }
      else { t with run := .parked (ids.filter (· != id)) (failed || fail) }
    else t
  | _ => t

/-- The entry belongs to threads alone: no operation and no transfer waits for it, and its group is not in handler mode. -/
def Sys2Proof.ThreadsWait (s : State) (ctx : Fin 64) (f : FaultEntry) (g : Group) : Prop :=
  (s.faultQueue ctx).find? (fun x => x.id == f.id) = some f ∧ f.kind ≠ 4 ∧ (∀ o ∈ s.ops, o.work.awaits f.id = false) ∧
  (∀ t ∈ s.teams, ∀ n : Fin 32, (t.handles[n]).wait ≠ some f.id) ∧ (∀ l ∈ s.launches, l.hold ≠ some f.id) ∧ (∀ v ∈ s.board.vf.toList, v.wait ≠ some f.id) ∧
  s.group? f.core f.slot = some g ∧ g.handler = none

/-- R364: firmware's answer takes the entry away; a thread that waited for it alone stands ready, with a trap of class 0x06 where an answer was fail. -/
def Sys2Proof.Claim.FaultAnswers : Prop :=
  ∀ (s : State) (ctx : Fin 64) (f : FaultEntry) (g : Group) (fail : Bool), ThreadsWait s ctx f g → (∀ l : Lane, (g.threads[l]).run ≠ .member) →
    ∃ t, exec (if fail then .faultAnswerFail ctx f.id else .faultAnswerResume ctx f.id) s = .next t ∧
      t.faults.map (·.id) = (s.faults.map (·.id)).filter (fun x => x != f.id) ∧ t.ops = s.ops ∧ t.teams = s.teams ∧ t.mem = s.mem ∧
      t.group? f.core f.slot = some (g.mapThreads fun _ x => answeredThread f.id f.va fail x) ∧
      ∀ d k, (d, k) ≠ (f.core, f.slot) → t.group? d k = s.group? d k

/-- R99 to R104, R203, R206, R223, R270, R327, R364: completions, write-backs and firmware's answers.
The choices of log 7, 84 and 95 are the model's own. -/
def Obligations.OperationsThatComplete : Prop := Claim.Arrival ∧ Claim.Completions ∧ Claim.PoisonedLoads ∧ Claim.FaultAnswers

/-! ### Launches and dispatch (R87 to R91, R111, R335 to R338, R378 to R396, R412) -/

/-- R111, R281, R315: a group at dispatch: every register, predicate and flag is zero but s0 to s3 and the bound records; every thread stands at the
first clause; the convergence registers are EMPTY, the tape is CLOSED, no token is pending and no ACQ has been granted. -/
def Sys2Proof.FreshAtDispatch (l : Launch) (t : Team) (gid : Nat) : Prop :=
  let g := l.freshGroup t gid
  (∀ n : Fin 128, g.s[n] = if h : n.val < 4 then l.uinit[n.val] else 0) ∧
  (∀ i : Lane, (g.threads[i]).run = .ready ∧ (g.threads[i]).pc = 0 ∧ (g.threads[i]).inside = none ∧ (g.threads[i]).v = Vector.replicate 128 0 ∧
    (g.threads[i]).q = 0 ∧ (g.threads[i]).turn = 0 ∧ (g.threads[i]).depth = 0 ∧ (g.threads[i]).trap = none) ∧
  (∀ n : Fin 32, g.b[n] = match (l.kernel.records.filter fun r => r.1 == n).getLast? with | some r => l.args[r.2] | none => 0) ∧
  (∀ n : Fin 8, (g.cv[n]).st = .empty ∧ (g.cv[n]).mask = 0 ∧ (g.cv[n]).signed = 0) ∧ (∀ n : Fin 12, g.pip[n] = 0) ∧
  g.tokens = [] ∧ g.tape.st = .closed ∧ g.sticky = 0 ∧ g.seed = l.seed ∧ g.mcfg = 0 ∧ g.tiles = [] ∧ g.allot.granted = false ∧ g.handler = none ∧
  g.contract = l.kernel.contract ∧ g.gid = gid ∧ g.st = .pending

/-- The launch that an operation hands over. -/
def Sys2Proof.Launching (s : State) (id : Nat) (o : Op) (g : Group) (token va : Nat) : Prop :=
  Working s id o (.launch token va) ∧ s.group? o.core o.slot = some g ∧ g.engineHeld = false

/-- A LAUNCH whose token has a status word. -/
def Sys2Proof.launchEnded (s : State) (id : Nat) (o : Op) (token detail : Nat) (fault : Bool) : State :=
  let p := (s.op? id).getD o
  ((landing s p fun g => { g with
    s := g.s.set (regIx token) (statusOf 4 detail fault false false)
    tokens := ⟨token, true, false, p.view.join p.did⟩ :: g.tokens.filter fun t => t.reg != token }).modGroup o.core o.slot fun g => { g with refused := [] }).dropOp id

/-- R226, R382, R384: an accepted launch joins its queue, after what happens before its LAUNCH word, and the token completes without FAULT; a refused one
completes it with FAULT and the reason; a page fault of its structures is one entry of KIND 4. The choice of log 53 is the model's own. -/
def Obligations.LaunchAdmission : Prop :=
  (∀ (id token va : Nat) (o : Op) (g : Group) (s u : State) (l : Launch) (desc : List Byte), Launching s id o g token va → OwnRegister s o token →
    s.admission (.core o.core) g.ctx g.seg va g.refused.contains (fun s ts => s.opRead id ts) = (u, .accept l desc) → (u.board.queues[l.queue]).length < 256 →
    exec (.launchAccept id) s = .next (launchEnded (u.enqueue { l with view := o.view } desc) id o token 0 false)) ∧
  (∀ (id token va why : Nat) (o : Op) (g : Group) (s u : State), Launching s id o g token va → OwnRegister s o token →
    s.admission (.core o.core) g.ctx g.seg va g.refused.contains (fun s ts => s.opRead id ts) = (u, .refuse why) →
    exec (.launchAccept id) s = .next (launchEnded u id o token (why * 256 + if why = 9 then 0x06 else 0x02) true)) ∧
  (∀ (id token va p : Nat) (o : Op) (g : Group) (s u : State), Launching s id o g token va →
    s.admission (.core o.core) g.ctx g.seg va g.refused.contains (fun s ts => s.opRead id ts) = (u, .page p) →
    (∀ f ∈ u.faults, ¬(f.ctx = g.ctx ∧ f.core = o.core ∧ f.slot = o.slot ∧ f.kind = 4 ∧ f.va = p)) →
    exec (.launchAccept id) s = .next { u with faults := u.faults ++ [⟨u.nextId, g.ctx, o.core, o.slot, 0, p / 128 * 128, 4, 0⟩], nextId := u.nextId + 1 }) ∧
  ∀ (s : State) (l : Launch) (desc : List Byte), s.tenantOf l.ctx = none →
    let t := s.enqueue l desc
    t.launches = s.launches ++ [l] ∧ t.board.queues = s.board.queues.set l.queue (s.board.queues[l.queue] ++ [l.id]) ∧ t.mem = s.mem

/-- R226, R355, R363, R384, R394: what the scheduler does at a structure of one line for a launch, and whether it goes on: a page fault holds it with one entry of
KIND 4; the wait counter's read is an acquire that comes before the grid. What a failed access does is the model's own (log 76). -/
def Sys2Proof.Claim.SchedulerWrites : Prop :=
  (∀ (s u : State) (l : Launch) (va n : Nat) (write : Bool) (go : State → List Target → State × Bool),
    (l.hold.isSome = true → s.postFor l va n write go = (s, false)) ∧ (l.hold = none → l.lost = true → s.postFor l va n write go = (s, true)) ∧
    (l.hold = none → l.lost = false →
      (∀ pa key, s.translate (.board 0) l.ctx (va / 128 * 128) write = (u, .ok pa key) →
        s.postFor l va n write go = go u ((List.range n).map fun i => .phys (pa + va % 128 + i) key)) ∧
      (s.translate (.board 0) l.ctx (va / 128 * 128) write = (u, .failure) →
        s.postFor l va n write go = (u.modLaunch l.id fun l => { l with lost := true }, true)) ∧
      (s.translate (.board 0) l.ctx (va / 128 * 128) write = (u, .page) → ∃ t, s.postFor l va n write go = (t, false) ∧ t.nextId = u.nextId + 1 ∧
        t.faults = u.faults ++ [(⟨u.nextId, l.ctx, 0, 0, 0, va / 128 * 128, 4, 0⟩ : FaultEntry)] ∧
        t.launches = u.launches.map (fun x => if x.id = l.id then { x with hold := some u.nextId } else x)))) ∧
  ∀ (s u : State) (l : Launch) (pa : Nat) (key : Option (Fin 8)),
    (l.waitoff = BitVec.allOnes 32 → s.counterRead l = (s, true)) ∧
    (l.waitoff ≠ BitVec.allOnes 32 → l.hold = none → l.lost = false →
      let va := (segBase l.seg[3] + l.waitoff.toNat) % 2 ^ 57
      s.translate (.board 0) l.ctx (va / 128 * 128) false = (u, .ok pa key) →
      let r := u.boardRead .none ((List.range 4).map fun i => .phys (pa + va % 128 + i) key)
      s.counterRead l = if l.waitval.toNat ≤ leValue r.2.1 then (r.1.modLaunch l.id fun l => { l with view := l.view.join r.2.2 }, true) else (r.1, false))

/-- R89, R91, R111, R337, R384, R394: the scheduler dispatches the next cluster of the queue whose turn it is to a rectangle that fits it, one team for each core in
row-major order, once what precedes a launch's first dispatch is done; a cluster that has waited SWAIT for its home class may spill; and an EXITING group with nothing
outstanding leaves its slot, with all that it left behind. -/
def Sys2Proof.Claim.DispatchAndRetirement : Prop :=
  (∀ (q : Fin 64) (d : Fin 8) (r : Fin 6) (c : Fin 8) (l : Launch) (cores : List CoreId), Happens (.clusterDispatch q d r c)
    (fun s => s.readyHead q = some l ∧ rectangle l d r.val c.val = some cores ∧ s.fits l s.board.spill[q] d cores = true ∧ s.nextQueue = some q)
    fun s =>
      let w := s.counterRead l
      let r := if w.2 then w.1.beginLaunch ((w.1.launch? l.id).getD l) else w
      if r.2 then r.1.dispatch q ((r.1.launch? l.id).getD l) cores else r.1) ∧
  (∀ (s : State) (l : Launch), (l.next ≠ 0 → s.beginLaunch l = (s, true)) ∧
    (l.next = 0 → l.tkt = false → ∃ t, s.beginLaunch l = (t, true) ∧ t.mem = s.mem ∧ t.launches = s.launches.map (fun x => if x.id = l.id then
      { x with code := (List.range l.code.length).map fun i => BitVec.ofNat 32 (s.peekWord l.ctx (l.codeVa + 4 * i)) } else x))) ∧
  (∀ (s : State) (q : Fin 64) (l : Launch) (cores : List CoreId),
    (s.dispatch q l cores).teams.map (fun t => (t.launch, t.cluster, t.rank, t.index, t.cores)) =
      s.teams.map (fun t => (t.launch, t.cluster, t.rank, t.index, t.cores)) ++
        (List.range cores.length).map fun i => (l.id, l.next, i, l.next * (l.cw * l.ch) + i, cores)) ∧
  (∀ (l : Launch) (t : Team) (gid : Nat), FreshAtDispatch l t gid) ∧
  (∀ (s : State) (l : Launch) (t : Team) (gid : Nat) (k : Slot) (c : CoreId),
    (((s.seat c [(k, l.freshGroup t gid)]).group? c k).map fun g => (g.s, g.b, g.threads)) =
      some ((l.freshGroup t gid).s, (l.freshGroup t gid).b, (l.freshGroup t gid).threads)) ∧
  (∀ (q : Fin 64) (l : Launch), Happens (.spillWaitExpiry q)
    (fun s => s.readyHead q = some l ∧ (s.placeOf l.ctx).extractLsb' 20 5 ≠ 31 ∧ l.kernel.contract < 4)
    fun s => { s with board := { s.board with spill := s.board.spill.set q true } }) ∧
  ∀ (core : CoreId) (k : Slot) (s : State) (g : Group), s.group? core k = some g → g.st = .exiting → (∀ n : Fin 12, g.pip[n] = 0) →
    (∀ t ∈ g.tokens, t.done = true) → (∀ o ∈ s.ops, o.concerns core k = false) →
    ∃ t, exec (.groupRetire core k) s = .next t ∧ t.group? core k = none ∧ t.ops = s.ops.filter (fun o => !(o.core == core && o.slot == k)) ∧
      (∀ f ∈ t.faults, f ∈ s.faults ∧ (f.core = core → f.slot = k → s.awaitedFault f = true)) ∧
      (∀ f ∈ s.faults, ¬(f.core = core ∧ f.slot = k) → (∀ u ∈ s.teams, ∀ n : Fin 32, (u.handles[n]).wait ≠ some f.id) → f ∈ t.faults) ∧
      (∀ e ∈ (t.quads[quadOf core]).entries, ¬(e.core = core ∧ e.slot = k)) ∧ (core, k) ∉ (t.quads[quadOf core]).acq

/-- R383, R394 to R396, R412: a launch that has ended counts at DONEOFF and is gone; an automatic post moves NEXT in its turn; and firmware's restore brings
the suspended teams of a cluster back, each group into its handler with class 0x17. -/
def Sys2Proof.Claim.LaunchEndAndRestore : Prop :=
  (∀ (id : Nat) (l : Launch) (s : State), s.launch? id = some l → l.killed = none → l.retired = l.teams → l.next = l.clusters → l.posts = [] →
    let va := (segBase l.seg[3] + l.doneoff.toNat) % 2 ^ 57
    let r := if l.doneoff = BitVec.allOnes 32 then (s, true) else s.postFor l va 4 true fun s ts => (s.boardAdd l.did ts 1, true)
    (r.2 = true → r.1.submitter id = none → exec (.launchComplete id) s = .next { r.1 with
      launches := r.1.launches.filter fun x => x.id != id, faults := r.1.faults.filter fun f => l.hold != some f.id }) ∧
    (r.2 = false → exec (.launchComplete id) s = .next r.1)) ∧
  (∀ (id n : Nat) (l : Launch) (p : Nat × Bool × View), Happens (.ticketAutoPost id n)
    (fun s => s.launch? id = some l ∧ l.posts.find? (fun p => p.1 == n) = some p ∧ l.killed = none)
    fun s =>
      let r := s.postFor l ((segBase l.seg[3] + l.tktoff.toNat) % 2 ^ 57) 8 true fun s ts =>
        let x := s.boardRead .none ts
        let bad := leValue (x.2.1.drop 4)
        if leValue (x.2.1.take 4) = n then (x.1.boardWrite (p.2.2.join x.2.2) (some 5) (ts.zip
          (leBytes 4 (n + 1) ++ if p.2.1 then leBytes 4 (if bad.testBit 0 then bad else n % 2 ^ 16 * 2 ^ 16 + 1) else [])), true)
        else (x.1, false)
      if r.2 then r.1.modLaunch id fun l => { l with posts := l.posts.filter fun x => x.1 != n } else r.1) ∧
  (∀ (core : CoreId) (n : Nat) (t : Team) (l : Launch) (cores : List CoreId), l.det = false → Happens (.contextRestore core n)
    (fun s => s.board.suspended[n]? = some t ∧ s.launch? t.launch = some l ∧ rectangleAt l core = some cores ∧ s.canRestore l cores t = true)
    fun s => (s.board.suspended.filter fun u => u.launch == t.launch && u.cluster == t.cluster).foldl (fun s u => s.restoreTeam l cores u)
      { s with board := { s.board with suspended := s.board.suspended.filter fun u => !(u.launch == t.launch && u.cluster == t.cluster) } }) ∧
  ∀ (s : State) (l : Launch) (t : Team) (c : CoreId) (k : Slot) (gid : Nat) (gone : Word), let g := s.restoredGroup l t c k gid gone
    (∃ d, g.handler = some d ∧ d.cls = 0x17 ∧ d.restore = true) ∧
    ∀ i : Lane, (g.threads[i]).run = (if hasBit gone i then .exited else .ready) ∧
      (hasBit gone i = false → (g.threads[i]).pc = (s.cores[c]).hentry ∧ (g.threads[i]).epc = 0)

/-- R87 to R91, R111, R335 to R338, R383 to R396, R412: the scheduler. The choices of log 43, 50, 57, 75, 76 and 78 are the model's own. -/
def Obligations.DispatchRetirementAndRestore : Prop := Claim.SchedulerWrites ∧ Claim.DispatchAndRetirement ∧ Claim.LaunchEndAndRestore

/-! ### Traps, time limits and pre-emption (R169, R287, R397 to R401, R406, R409, R410) -/

/-- R406: the wait that ESTATE records of a thread of kernel code. -/
def Sys2Proof.waitOf (t : Thread) : Option (Nat × Nat) :=
  match t.run with
  | .rcv => some (1, 0)
  | .bar false n => some (2, n.val)
  | .bar true n => some (3, n.val)
  | .hwait _ _ => some (5, 0)
  | .acq => some (6, 0)
  | .mma _ => some (7, 0)
  | .tkt => some (8, 0)
  | .parked _ _ => some (0, 0)
  | _ => none

/-- R398 to R401, R406: how a thread enters the handler: EPC is the word at which it would go on, ESTATE records how it waits, v0 and v1 are saved, and it
stands at the handler's entry with every other register as it was; one that has exited stays so. -/
def Sys2Proof.EntersHandler (entry : Word) (t u : Thread) : Prop :=
  (t.gone = true → u = { t with estate := 1 }) ∧
  (t.gone = false → u.epc = waitAddress t ∧ u.sv0 = t.v[0] ∧ u.sv1 = t.v[1] ∧ u.run = .ready ∧ u.pc = entry ∧ u.inside = none ∧ u.v = t.v ∧ u.q = t.q ∧
    u.turn = t.turn ∧ u.depth = t.depth ∧ u.trap = t.trap ∧ u.estate.getLsbD 0 = false ∧
    u.estate.getLsbD 1 = (match t.run with | .parked _ _ => true | _ => false) ∧ u.estate.getLsbD 2 = t.inside.isSome ∧
    u.estate.getLsbD 3 = (t.inside.isSome && t.guard) ∧ u.estate.extractLsb' 12 20 = 0 ∧
    ∀ w, waitOf t = some w → (u.estate.extractLsb' 4 4).toNat = w.1 ∧ (u.estate.extractLsb' 8 4).toNat = w.2)

/-- R397 to R401: the delivery of a halted group at rest: CLASS is the lowest class that its threads hold, 0x10 when its time has expired and 0x17 before all
when it is pre-empted; the record names the slot, whether there were several classes, the threads that trapped, and the word and the detail of the lowest of
these of that class; s124 to s127 are saved, with their tokens (R334: before class 0x17 no replay read is in flight). -/
def Sys2Proof.Claim.TrapDelivery : Prop :=
  ∀ (s : State) (c : CoreId) (k : Slot) (g : Group), s.group? c k = some g → g.handler = none →
    (g.preempt = true ∨ g.expired = true ∨ ∃ l : Lane, (g.threads[l]).trap.isSome = true) → (∃ l : Lane, (g.threads[l]).gone = false) →
    (∀ n : Fin 12, g.pip[n] = 0) →
    (g.preempt = true → (∀ e ∈ (s.quads[quadOf c]).entries, e.core = c → e.slot = k → e.started = true → ∀ v w x y n i, e.job ≠ .pass v w x y n i) ∧
      ∀ o ∈ s.ops, o.core = c → o.slot = k → ∀ n ws i p q, o.work ≠ .plyGet n ws i p q) →
    ∃ t h u d, (s.haltSlot c k).group? c k = some h ∧ exec (.trapDelivery c k) s = .next t ∧ t.group? c k = some u ∧ u.handler = some d ∧
      (∀ l : Lane, EntersHandler (s.cores[c]).hentry h.threads[l] u.threads[l]) ∧
      u.s = g.s ∧ u.b = g.b ∧ u.seg = g.seg ∧ u.tokens = g.tokens.map (fun x => if 124 ≤ x.reg ∧ x.reg < 128 then { x with reg := x.reg + 128 } else x) ∧ u.sticky = g.sticky ∧ u.tiles = g.tiles ∧ u.tape = g.tape ∧
      (∀ i : Fin 4, d.shadow[i] = g.uni (124 + i.val)) ∧ d.restore = false ∧
      d.cls = (if g.preempt then 0x17 else if g.expired then 0x10 else (h.classes).foldl min 0xFF) ∧
      d.record.getD 0 0 = BitVec.ofNat 32 (k.val * 2 ^ 16 + (if 1 < (h.classes).eraseDups.length then 2 ^ 8 else 0) + d.cls) ∧
      d.record.getD 1 0 = laneMask (fun l => (h.threads[l]).trap.isSome) ∧
      (d.cls = 0x10 ∨ d.cls = 0x17 → d.record.getD 2 0 = 0) ∧
      (∀ (l : Lane) (x : Trap), d.cls ≠ 0x10 → d.cls ≠ 0x17 → (h.threads[l]).trap = some x → x.cls = d.cls →
        (∀ j : Lane, j < l → ((h.threads[j]).trap.map (·.cls)) ≠ some d.cls) →
        d.record.getD 2 0 = (if d.cls = 0x13 ∨ d.cls = 0x16 then x.fword else waitAddress h.threads[l]) ∧ d.record.drop 4 = x.detail.take 132) ∧
      d.record.getD 3 0 = BitVec.ofNat 32 (d.record.length - 4) ∧
      t.mem = s.mem ∧ ∀ e j, (e, j) ≠ (c, k) → t.group? e j = s.group? e j

/-- R397 to R402, R404, R406: TRAP, and the delivery of traps to the handler. The choices of log 63 and 84 are the model's own. -/
def Obligations.TrapsTakenAndDelivered : Prop := Claim.TrapWords ∧ Claim.TrapDelivery

/-- The team of the group in a slot. -/
def Sys2Proof.TeamAt (s : State) (c : CoreId) (k : Slot) (t : Team) : Prop :=
  ∃ g, s.group? c k = some g ∧ s.team? g.team = some t ∧ t.core = c

/-- R169, R287, R409, R410: the limits and pre-emption. At a barrier's limit the waiting threads of the team raise class 0x09 with the barrier's record; at the quorum's limit
the members of the signing raise class 0x0A and the register is IDLE; at the watchdog's limit every group of the team with a thread left is to enter the handler for
class 0x10; and a pre-emption marks every such group of the context, and withdraws the context's fault entries.
The choices of log 47, 48, 62 and 85 are the model's own. -/
def Obligations.LimitsAndPreemption : Prop :=
  (∀ (s : State) (c : CoreId) (k : Slot) (n : Fin 16) (clu : Bool) (t : Team), TeamAt s c k t →
    let lim := (if clu then (s.cores[c]).barlimc else (s.cores[c]).barlimt).toNat
    lim ≠ 0 → lim ≤ t.bars[barIx clu n] → s.arrived t clu n ≠ 0 →
    ∃ u, exec (.barrierTimeout c k clu n) s = .next u ∧ u.mem = s.mem ∧ ∀ p ∈ s.teamGroups t, p.2.handler = none →
      ∃ h, u.group? c p.1 = some h ∧ ∀ l : Lane, (p.2.threads[l]).run = .bar clu n → h.threads[l] = { p.2.threads[l] with
        run := .ready, trap := some ((p.2.threads[l]).trap.getD ⟨0x09, waitAddress p.2.threads[l], s.barRecord t clu n⟩) }) ∧
  (∀ (s : State) (c : CoreId) (k : Slot) (n : Fin 8) (g : Group), s.group? c k = some g → g.handler = none → g.mustHalt = false → (g.cv[n]).st = .open_ →
    (s.cores[c]).qlim ≠ 0 → (s.cores[c]).qlim.toNat ≤ ((s.cores[c]).sched[k]).quorum[n] →
    ∃ u h, exec (.quorumTimeout c k n) s = .next u ∧ u.mem = s.mem ∧ u.group? c k = some h ∧ h.cv = g.cv.set n { g.cv[n] with st := .idle, signed := 0 } ∧
      ∀ l : Lane, hasBit (g.cv[n]).mask l = true → (g.threads[l]).gone = false → (h.threads[l]).trap =
        some ⟨0x0A, waitAddress g.threads[l], [BitVec.ofNat 32 n.val, (g.cv[n]).mask, (g.cv[n]).signed, cvStatus g.cv[n]]⟩) ∧
  (∀ (s : State) (c : CoreId) (k : Slot) (t : Team), TeamAt s c k t → (s.cores[c]).wdlim ≠ 0 → (s.cores[c]).wdlim.toNat ≤ t.wd → t.wdHit = false →
    ∃ u, exec (.watchdogExpiry c k) s = .next u ∧ u.mem = s.mem ∧
      ∀ p ∈ s.teamGroups t, (∃ l : Lane, (p.2.threads[l]).gone = false) → (u.group? c p.1).map (·.expired) = some true) ∧
  ∀ (s : State) (c : CoreId) (k : Slot) (g : Group), s.group? c k = some g →
    ∃ u, exec (.preemptionRequest c k) s = .next u ∧ u.mem = s.mem ∧ u.faults = s.faults.filter (fun f => f.ctx != g.ctx) ∧
      ∀ d j x, s.group? d j = some x → x.ctx = g.ctx → (∃ l : Lane, (x.threads[l]).gone = false) → (u.group? d j).map (·.preempt) = some true

/-! ### Engines and transfers (R257, R258, R265, R285, R288 to R297, R306, R307, R312, R313) -/

/-- R289 to R291: a pass of a group's tile with these rows of values: each element is the sum, under the group's sum rule, of the products of a row of A
and a row of B and, but for a pass of mma.z, of what the tile held. -/
def Sys2Proof.multiplied (g : Group) (c : Mcfg) (var : Nat) (a b : Nat → List Val × Bool) (tile : Tile) : Tile :=
  let sum := fun i : Nat => sumRule (g.contract == 0) c.z32 (if var = 1 then Acc.zero else tile.elems.toList.getD i .zero)
    (((a (i / 64)).1.zip (b (i % 64)).1).map fun p => p.1.mul p.2)
  { tile with z32 := if var = 1 then c.z32 else tile.z32
              elems := Vector.ofFn fun i : Fin 4096 => (sum i.val).1
              cvx := tile.cvx || (List.range 64).any (fun m => (a m).2 || (b m).2) || (List.range 4096).any fun i => (sum i).2 }

/-- A quad's entry of a number that the engine runs. -/
def Sys2Proof.Running (s : State) (q : QuadId) (id : Nat) (e : Entry) (j : Job) : Prop :=
  (s.quads[q]).entries.find? (fun x => x.id == id && x.started) = some e ∧ e.job = j

/-- The tile, the configuration and the team of a pass. -/
def Sys2Proof.PassOf (s : State) (e : Entry) (n : Nat) (g : Group) (t : Team) (tile : Tile) (w : Word) (c : Mcfg) : Prop :=
  s.group? e.core e.slot = some g ∧ g.team = e.team ∧ s.team? e.team = some t ∧ Mcfg.of w = some c ∧ g.tiles[n]? = some tile

/-- R279, R280: the seg2 offsets that a pass reads. -/
def Sys2Proof.passBytes (c : Mcfg) (x y : Captured) (contrib : Word) : List Nat :=
  (x.offsets contrib c.a c.spa c.kj ++ y.offsets contrib c.b 0 c.kj).eraseDups

/-- R226, R289: what a pass reads of scratch while it runs, after what happened before its signing: the bytes, and the number of the read. -/
def Sys2Proof.passRead (s : State) (t : Team) (c : Mcfg) (x y : Captured) (contrib : Word) (view : View) : State × (Nat → Byte) × Nat :=
  let offs := passBytes c x y contrib
  let r := s.readAs view (offs.map (s.scratchTarget t))
  (r.1, (fun off => match (offs.zip r.2.1).find? fun x => x.1 == off with | some x => x.2 | none => 0), r.2.2)

/-- R226, R285, R288 to R291: a signing in POSTWAIT is posted once an entry is free; the engine starts the pass that is next; and a pass that ends leaves its tile
multiplied, or marked with class 0x02 where the tile is of the other kind or a descriptor does not fit, and its entry is free. One that reads an element in error
fails with class 0x08 (DEDUCED, log 89). -/
def Sys2Proof.Claim.MatrixPasses : Prop :=
  (∀ (c : CoreId) (k : Slot) (n : Fin 8) (g : Group), Happens (.reservationPost c k n)
    (fun s => s.group? c k = some g ∧ (g.cv[n]).st = .postwait ∧ g.engineHeld = false ∧ (s.quads[quadOf c]).entries.length < 32)
    fun s => posting s c k g n g.cv[n]) ∧
  (∀ (q : QuadId) (id : Nat) (e : Entry), e.id = id → Happens (.passStart q id) (fun s => s.nextPass q = some e)
    fun s => s.modEntries q fun es => es.map fun x => if x.id = id then { x with started := true } else x) ∧
  (∀ (s : State) (q : QuadId) (e : Entry), s.nextPass q = some e → e ∈ (s.quads[q]).entries ∧ e.job.isDrain = false ∧ (s.quads[q]).eligible e = true ∧
    s.engineHeld e.core e.slot = false ∧ ∀ x ∈ (s.quads[q]).entries, x.started = true → x.job.isDrain = true) ∧
  (∀ (q : QuadId) (id var n : Nat) (w contrib : Word) (x y : Captured) (view : View) (e : Entry) (g : Group) (t : Team) (c : Mcfg) (tile : Tile)
    (a b : Nat → List Val × Bool) (s : State), e.tile = some n → Running s q id e (.pass var w x y contrib view) → PassOf s e n g t tile w c →
    (var = 0 → tile.z32 = c.z32) →
    let r := passRead s t c x y contrib view
    s.ecc = [] → (∀ m < 64, operandRow r.2.1 x contrib c.a c.spa c.kj m = some (a m) ∧ operandRow r.2.1 y contrib c.b 0 c.kj m = some (b m)) →
    exec (.passComplete q id) s = .next ((r.1.modGroup e.core e.slot fun h =>
      { h with tiles := g.tiles.set n { multiplied g c var a b tile with view := ⟨tile.view.writes, addId tile.view.reads r.2.2⟩ } }).modEntries q fun es => es.filter fun x => x.id != id)) ∧
  (∀ (q : QuadId) (id n : Nat) (w contrib : Word) (x y : Captured) (view : View) (e : Entry) (g : Group) (t : Team) (c : Mcfg) (tile : Tile) (s : State),
    e.tile = some n → Running s q id e (.pass 0 w x y contrib view) → PassOf s e n g t tile w c → tile.z32 ≠ c.z32 →
    exec (.passComplete q id) s = .next ((s.modGroup e.core e.slot fun h =>
      { h with tiles := g.tiles.set n { tile with err := if tile.err = 0 then 0x02 else tile.err } }).modEntries q fun es => es.filter fun x => x.id != id)) ∧
  ∀ (q : QuadId) (id var n cls : Nat) (w contrib : Word) (x y : Captured) (view : View) (e : Entry) (g : Group) (t : Team) (c : Mcfg) (tile : Tile) (s : State),
    e.tile = some n → Running s q id e (.pass var w x y contrib view) → PassOf s e n g t tile w c → (var = 0 → tile.z32 = c.z32) →
    let r := passRead s t c x y contrib view
    (cls = 0x08 ∧ (∃ off ∈ passBytes c x y contrib, s.poisonedTarget (s.scratchTarget t off) = true) ∨
      cls = 0x02 ∧ s.ecc = [] ∧ ∃ m < 64, operandRow r.2.1 x contrib c.a c.spa c.kj m = none ∨ operandRow r.2.1 y contrib c.b 0 c.kj m = none) →
    exec (.passComplete q id) s = .next ((r.1.modGroup e.core e.slot fun h =>
      { h with tiles := g.tiles.set n { tile with err := if tile.err = 0 then cls else tile.err, view := ⟨tile.view.writes, addId tile.view.reads r.2.2⟩ } }).modEntries q fun es => es.filter fun x => x.id != id)

/-- R295: what a drain keeps of a tile: the codes of the elements that its destination does not drop, in order; CVX; and how many it drops. -/
def Sys2Proof.drainedElems (t : Tile) (seed : BitVec 64) (fmt rnd : Nat) (dst : DrainDst) : List (Nat × Nat) × Bool × Nat :=
  let mode := (RMode.ofCode rnd).getD .rne
  let code := fun i : Nat => tileCode t.z32 fmt (t.elems.toList.getD i .zero) mode (srValue mode seed i)
  (((List.range 4096).filter fun i => !dst.drops i).map (fun i => ((code i).code, i)), (List.range 4096).any (fun i => (code i).cvx),
   ((List.range 4096).filter dst.drops).length)

/-- A drain's operation with its entry's place in the table. -/
def Sys2Proof.Draining (s : State) (q : QuadId) (id : Nat) (e : Entry) (o : Op) (g : Group) (t : Tile) (n : Nat) : Prop :=
  (s.quads[q]).entries.find? (fun x => x.id == id) = some e ∧ s.op? id = some o ∧ e.tile.isSome = true ∧ (s.quads[q]).eligible e = true ∧
  s.group? e.core e.slot = some g ∧ g.engineHeld = false ∧ g.tiles[n]? = some t

/-- R288, R291, R293, R295 to R297: a drain reads its tile in order of the table, gives its entry back, and clears the tile's CVX and under Z its elements, or takes
its error; it joins the passes performed on the tile (R226); when it has written its elements, its token has a status word that counts those dropped, and its join
sets BOUNDS if there are any (R126). -/
def Sys2Proof.Claim.MatrixDrains : Prop :=
  (∀ (q : QuadId) (id token n fmt rnd width : Nat) (z : Bool) (seed : BitVec 64) (dst : DrainDst) (e : Entry) (o : Op) (g : Group) (t : Tile),
    Happens (.matrixDrainStart q id)
    (fun s => Draining s q id e o g t n ∧ t.err = 0 ∧ s.ecc = [] ∧ o.work = .drain token n z fmt rnd seed dst false [] width none none false 0)
    fun s => let r := drainedElems t seed fmt rnd dst
      ((s.modEntries q fun es => es.filter fun x => x.id != id).modOp id fun o =>
        { o with did := o.did.join t.view, work := .drain token n z fmt rnd seed dst true r.1 width none none (t.cvx || r.2.1) r.2.2 }).modGroup e.core e.slot fun g =>
          { g with tiles := g.tiles.set n { t with cvx := false, elems := if z then Vector.replicate 4096 .zero else t.elems } }) ∧
  (∀ (q : QuadId) (id token n fmt rnd width : Nat) (z : Bool) (seed : BitVec 64) (dst : DrainDst) (e : Entry) (o : Op) (g : Group) (t : Tile),
    Happens (.matrixDrainStart q id)
    (fun s => Draining s q id e o g t n ∧ t.err ≠ 0 ∧ o.work = .drain token n z fmt rnd seed dst false [] width none none false 0)
    fun s => ((s.modEntries q fun es => es.filter fun x => x.id != id).modOp id fun o =>
        { o with did := o.did.join t.view, work := .drain token n z fmt rnd seed dst true [] width none (some t.err) t.cvx 0 }).modGroup e.core e.slot fun g =>
          { g with tiles := g.tiles.set n { t with err := 0, cvx := false } }) ∧
  ∀ (q : QuadId) (id token n fmt rnd width dropped : Nat) (z cvx : Bool) (seed : BitVec 64) (dst : DrainDst) (out : List (Nat × Nat)) (fault : Option Nat)
    (o : Op) (g : Group) (s u : State),
    Working s id o (.drain token n z fmt rnd seed dst true out width none fault cvx dropped) → s.group? o.core o.slot = some g → g.engineHeld = false →
    OwnRegister s o token → (if fault = none then s.drainGo o g.ctx dst width out = (u, [], .done) else u = s) →
    let p := (u.op? id).getD o
    exec (.matrixDrainComplete q id) s = .next ((landing u p fun g => { g with
      s := g.s.set (regIx token) (statusOf 2 (fault.getD (min dropped 65535)) fault.isSome false cvx)
      tokens := ⟨token, true, fault.isNone && decide (dropped ≠ 0), p.view.join p.did⟩ :: g.tokens.filter fun t => t.reg != token }).dropOp id)

/-- R285, R288 to R297: what the matrix engines do. The choices of log 37, 41, 65, 66 and 89 are the model's own. -/
def Obligations.MatrixPassesAndDrains : Prop := Claim.MatrixPasses ∧ Claim.MatrixDrains

/-- R307: the status word of a call: the class of its fault, or how many elements it dropped, whether an element lay out of bounds, and whether a bank ran it. -/
def Sys2Proof.callStatus (c : Call) : Word :=
  match c.fault with
  | some n => statusOf 1 n true c.poison c.cvx
  | none => statusOf 1 (4 * min c.dropped 16383 + 2 * c.oob.toNat + c.banked.toNat) false c.poison c.cvx

/-- A call that has ended: its token has the status word, and no entry of its rows is left. -/
def Sys2Proof.callEnded (s : State) (id : Nat) (o : Op) (c : Call) : State :=
  let p := (s.op? id).getD o
  ((landing s p fun g => { g with
    s := g.s.set (regIx c.token) (callStatus c)
    tokens := ⟨c.token, true, false, p.view.join p.did⟩ :: g.tokens.filter fun t => t.reg != c.token }).modEntries (quadOf o.core) fun es => es.filter fun e => match e.job with
      | .rows x _ => x != id
      | _ => true).dropOp id

/-- R312: the entries in which a call has posted rows. -/
def Sys2Proof.rowEntries (s : State) (o : Op) (id : Nat) : List Entry :=
  (s.quads[quadOf o.core]).entries.filter fun e => match e.job with
    | .rows x _ => x == id
    | _ => false

/-- R303, R306, R307, R312 to R314: a core-path call posts an entry for up to 64 of its rows that are left and follow one another, at most four at a time; the rows
of an entry that runs are computed, once the vectors of a handle-fed call have been read, or for a group that is pre-empted wait in the entry; and a call with no row left,
or one that a bank computes now, completes. -/
def Sys2Proof.Claim.CallProgress : Prop :=
  (∀ (id first k : Nat) (more : List Nat) (o : Op) (c : Call) (g : Group), 0 < k → k ≤ 64 → (k = 64 ∨ more.head? ≠ some (first + k)) →
    c.todo = (List.range k).map (first + ·) ++ more → Happens (.mvxEntryPost id)
    (fun s => Working s id o (.mvx c) ∧ s.group? o.core o.slot = some g ∧ g.engineHeld = false ∧ c.bank = false ∧ c.fault = none ∧
      (rowEntries s o id).length < 4 ∧ (s.quads[quadOf o.core]).entries.length < 32)
    fun s => ({ s with
        quads := s.quads.set (quadOf o.core) { s.quads[quadOf o.core] with entries := (s.quads[quadOf o.core]).entries ++
          [(⟨s.nextId, o.core, o.slot, g.team, none, false, (s.cores[o.core]).cycles, .rows id ((List.range k).map (first + ·))⟩ : Entry)] }
        nextId := s.nextId + 1 } : State).modOp id fun o => { o with work := .mvx { c with todo := more } }) ∧
  (∀ (q : QuadId) (id op n : Nat) (rows : List Nat) (e : Entry) (o : Op) (c v : Call) (p : MvxPlan) (s u : State), Running s q id e (.rows op rows) →
    s.engineHeld e.core e.slot = false → Working s op o (.mvx c) → c.plan = some p → c.wait = none → c.fault = none →
    (s.readVectors o c).1.mvxRows op o.core p rows (s.readVectors o c).2 0 = (u, v, n, .done) →
    exec (.passComplete q id) s = .next ((u.modOp o.id fun o => { o with work := .mvx v }).modEntries q fun es => es.filter fun x => x.id != e.id)) ∧
  (∀ (q : QuadId) (id op n va : Nat) (rows : List Nat) (e : Entry) (o : Op) (c v : Call) (p : MvxPlan) (s u : State), Running s q id e (.rows op rows) →
    s.engineHeld e.core e.slot = false → Working s op o (.mvx c) → c.plan = some p → c.wait = none → c.fault = none →
    (s.readVectors o c).1.mvxRows op o.core p rows (s.readVectors o c).2 0 = (u, v, n, .page va) → n < rows.length →
    exec (.passComplete q id) s = .next ((({ u with faults := u.faults ++ [⟨u.nextId, v.ctx, o.core, o.slot, 0, va / 128 * 128, 4, 0⟩], nextId := u.nextId + 1 } : State).modOp o.id
      fun o => { o with work := .mvx { v with wait := some u.nextId } }).modEntries q fun es => es.map fun x => if x.id = e.id then { x with job := .rows op (rows.drop n) } else x)) ∧
  (∀ (q : QuadId) (id op : Nat) (rows : List Nat) (e : Entry), Happens (.passComplete q id)
    (fun s => Running s q id e (.rows op rows) ∧ s.engineHeld e.core e.slot = true)
    fun s => s.modEntries q fun es => es.map fun x => if x.id = id then { x with started := false } else x) ∧
  (∀ (id : Nat) (o : Op) (c : Call) (p : MvxPlan), c.plan = some p → Happens (.mvxComplete id)
    (fun s => Working s id o (.mvx c) ∧ s.engineHeld o.core o.slot = false ∧ OwnRegister s o c.token ∧ c.wait = none ∧
      (c.fault.isSome = true ∨ (c.bank = false ∧ c.todo = [] ∧ rowEntries s o id = [])))
    fun s => callEnded s id o c) ∧
  ∀ (id n : Nat) (o : Op) (c v : Call) (p : MvxPlan) (s u : State), c.plan = some p → Working s id o (.mvx c) → s.engineHeld o.core o.slot = false →
    OwnRegister s o c.token → c.bank = true → c.wait = none → c.fault = none →
    (s.readVectors o c).1.mvxRows id o.core p c.todo (s.readVectors o c).2 0 = (u, v, n, .done) → v.wait = none → v.token = c.token → v.fault = none → v.todo = [] →
    rowEntries u o id = [] →
    exec (.mvxComplete id) s = .next (callEnded (u.modOp id fun o => { o with work := .mvx v }) id o v)

/-- R300 to R314: the MVX words, and the progress of their calls. The choices of log 26, 38 and 64 are the model's own. -/
def Obligations.MatrixVectorCalls : Prop := Claim.MatrixVectorCalls ∧ Claim.CallProgress

/-- The team and the stream that an instance of a handle serves, which nothing holds back. -/
def Sys2Proof.Serves (s : State) (c : CoreId) (k : Slot) (n : Fin 32) (test : Handle → Bool) (t : Team) (f : Flow) : Prop :=
  s.transfer? c k n (fun _ h _ => test h && h.wait.isNone) = some (t, f)

/-- R257, R258, R265: the transfers of streams. A fill starts in every instance that receives the tile; a fill whose bytes have all come leaves the instance FULL, and a
drain whose bytes have all gone leaves it FREE; one that must wait for a page keeps a cursor and an entry, and one that fails has FAULT and class 0x06.
The choices of log 39, 65, 74, 75, 89 and 92 are the model's own. -/
def Obligations.StreamTransfers : Prop :=
  (∀ (c : CoreId) (k : Slot) (n : Fin 32) (t : Team) (f : Flow), Happens (.streamFillStart c k n)
    (fun s => s.transfer? c k n (fun t h f => s.fillReady t n h f) = some (t, f))
    fun s => (s.receivers t t.handles[n]).foldl (fun s u =>
      (s.modHandle u.key n fun h => h.begin .filling (f.tile (t.nextIn t.handles[n]))).modTeam u.key fun u =>
        let i : Fin 8 := ⟨(t.handles[n]).stream % 8, Nat.mod_lt _ (by decide)⟩
        { u with inNext := u.inNext.set i (u.inNext[i] + 1) }) s) ∧
  (∀ (c : CoreId) (k : Slot) (n : Fin 32) (t : Team) (f : Flow) (s u : State) (cursor : Nat) (m : Moved),
    Serves s c k n (fun h => !h.out && h.st == .filling) t f → (t.handles[n]).cursor ≠ f.decl.tile →
    let us := (s.receivers t t.handles[n]).filter fun u => (u.handles[n]).st == .filling
    let tile := ((t.handles[n]).tile).getD 0
    (if f.copies then s.fillSteps t.core us n f tile f.decl.tile ((List.range (f.decl.tile / 64)).drop ((t.handles[n]).cursor / 64))
      else s.fillConverted t.core us n f tile (t.handles[n]).cursor f.decl.tile) = (u, cursor, m) →
    let full := fun v : State => (v.modHandle t.key n fun h => { h with st := .full }).hwaitRelease t.key n
    exec (.streamFillComplete c k n) s = .next (match m with
      | .done => if cursor = f.decl.tile then full (u.modAll us n fun h => { h with cursor := cursor }) else u.modAll us n fun h => { h with cursor := cursor }
      | .page va => (u.addFault f.launch.ctx t.core (t.slots.headD 0) 0 va 4).modAll us n fun h => { h with cursor := cursor, wait := some u.nextId }
      | .lost => full ((u.landTile us n cursor (List.replicate (f.decl.tile - cursor) 0)).modAll us n fun h =>
          { h with cursor := f.decl.tile, wait := none, fault := true, cls := 0x06 }))) ∧
  (∀ (c : CoreId) (k : Slot) (n : Fin 32) (t : Team) (f : Flow), Happens (.streamFillComplete c k n)
    (fun s => Serves s c k n (fun h => !h.out && h.st == .filling) t f ∧ (t.handles[n]).cursor = f.decl.tile)
    fun s => (s.modHandle t.key n fun h => { h with st := .full }).hwaitRelease t.key n) ∧
  ∀ (c : CoreId) (k : Slot) (n : Fin 32) (t : Team) (f : Flow) (s u : State) (cursor : Nat) (m : Moved),
    Serves s c k n (fun h => h.out && h.st == .draining) t f → f.hasTile (((t.handles[n]).tile).getD 0) = true →
    (if f.copies then s.drainSteps t n t.handles[n] f (((t.handles[n]).tile).getD 0) f.decl.tile ((List.range (f.decl.tile / 64)).drop ((t.handles[n]).cursor / 64))
      else s.drainConverted t n t.handles[n] f (((t.handles[n]).tile).getD 0) f.decl.tile) = (u, cursor, m) →
    let free := fun v : State => ((v.modHandle t.key n fun h => { h with st := .free, wait := none }).hwaitRelease t.key n).retireTeam t.key
    exec (.outputDrainComplete c k n) s = .next (match m with
      | .done => if cursor = f.decl.tile then free u else u.modHandle t.key n fun h => { h with cursor := cursor }
      | .page va => (u.addFault f.launch.ctx t.core (t.slots.headD 0) 0 va 4).modHandle t.key n fun h => { h with cursor := cursor, wait := some u.nextId }
      | .lost => free (u.modHandle t.key n fun h => { h with fault := true, cls := 0x06 }))

/-! ### Translation upkeep and the memory-side cache (R357 to R361, R368 to R374) -/

/-- R359: the request names the context. -/
def Sys2Proof.namesCtx (req : BitVec 128) (c : Fin 64) : Bool := req.getLsbD 102 || (req.extractLsb' 96 6).toNat == c.val

/-- R359: the request names a cached translation: its context, and a page of the range that the request gives, or every page where it gives no length. -/
def Sys2Proof.namesEntry (req : BitVec 128) (e : TlbEntry) : Bool :=
  let first := (req.extractLsb' 16 41).toNat * 2 ^ 16
  let n := (req.extractLsb' 64 32).toNat
  namesCtx req e.ctx && (n == 0 || (decide (e.va < first + n * 2 ^ 16) && decide (first < e.va + 2 ^ e.size)))

/-- R359: the request names the chiplet. -/
def Sys2Proof.namesChip (req : BitVec 128) (d : Fin 8) : Bool := req.getLsbD (112 + d.val)

/-- R359, R360: an invalidation starts while none is in progress; one that names the host waits for the host; and it completes once no access that translated earlier
and that it names is left: what the cores of the chiplets that it names have stored is in place and what they have loaded is settled, no such chiplet or core
holds a translation that it names, the walk caches hold no entry of its contexts, and everything else of the kind stays. -/
def Sys2Proof.Claim.Invalidation : Prop :=
  (∀ req : BitVec 128, Happens (.invalidationRequest req) (fun s => s.board.inval.getLsbD 127 = false)
    fun s => { s with board := { s.board with inval := req &&& 0x81FF007FFFFFFFFF01FFFFFFFFFF0000, hostAck := false } }) ∧
  (∀ req : BitVec 128, Happens (.invalidationRequest req) (fun s => s.board.inval.getLsbD 127 = true) id) ∧
  Happens .invalidationComplete (fun s => s.board.inval.getLsbD 120 = true ∧ s.board.hostAck = false) id ∧
  ∀ s : State, s.board.inval.getLsbD 127 = true → s.invalPending s.board.inval = false → (s.board.inval.getLsbD 120 = true → s.board.hostAck = true) →
    let named := fun c : CoreId => namesChip s.board.inval (chipOf c)
    ∃ t, exec .invalidationComplete s = .next t ∧ t.board.inval = s.board.inval &&& ~~~(1#128 <<< 127) ∧
      ((∀ c, named c = true → ∀ x ∈ (s.cores[c]).l1, x.dirty = false) → t.mem = s.mem) ∧ t.rereads = s.rereads.filter (fun r => !named r.core) ∧
      t.board.walks = s.board.walks.filter (fun w => !namesCtx s.board.inval w.1) ∧
      (∀ c : CoreId, (t.cores[c]).slots = (s.cores[c]).slots ∧
        (t.cores[c]).l1 = (if named c then (s.cores[c]).l1.map fun x => { x with dirty := false } else (s.cores[c]).l1) ∧
        (t.cores[c]).tlb = if named c then (s.cores[c]).tlb.filter (fun e => !namesEntry s.board.inval e) else (s.cores[c]).tlb) ∧
      ∀ d : Fin 8, t.board.tlb[d] = if namesChip s.board.inval d then (s.board.tlb[d]).filter (fun e => !namesEntry s.board.inval e) else s.board.tlb[d]

/-- R355, R357, R371, R373, R374: a region switch starts; it completes, when no request to an affected region is left, with the new tables if the shadow passes its
check, and else with REFUSED, and no cache holds an affected line, of the memory-side caches none that calls on the bank path have not translated anew; a write-back
of a block leaves none of its lines dirty and no byte of memory changed; and a host translation over an open link, whose walk sets the host's bit of the companion word before the leaf is read, answers
with the physical address, in eight bytes, of a page that is mapped to a valid region, and for a write also writable, and else with nothing. -/
def Sys2Proof.Claim.RegionsAndCache : Prop :=
  Happens .regionSwitch (fun _ => True) (fun s => { s with board := { s.board with busy := true } }) ∧
  (∀ s : State, s.board.busy = true → s.switchPending = false → ∃ t, exec .regionSwitchComplete s = .next t ∧ t.board.busy = false ∧
    t.board.regions = (if s.board.shadowFits then s.board.shadow else s.board.regions) ∧
    t.board.hmask = (if s.board.shadowFits then s.board.hshadow else s.board.hmask) ∧ t.board.refused = (s.board.refused || !s.board.shadowFits) ∧
    (∀ c : CoreId, ∀ x ∈ (t.cores[c]).l1, s.board.affects x.pa = false) ∧
    ((∀ o ∈ s.ops, ∀ x : Call, o.work = .mvx x → x.bank = false) → (∀ d : Fin 8, ∀ x ∈ t.l2[d], s.board.affects (x.line * 128) = false) ∧
      (∀ x ∈ t.hub, s.board.affects (x.line * 128) = false) ∧ ∀ m ∈ t.msc, s.board.affects (m.line * 128) = false)) ∧
  (∀ (block : Nat) (s : State), (∃ m ∈ s.msc, m.line / 8 = block ∧ m.dirty = true) → ∃ t, exec (.mscBlockWriteback block) s = .next t ∧
    t.msc = s.msc.map (fun m => if m.line / 8 = block then { m with dirty := false } else m) ∧ t.mem = s.mem ∧ t.tags = s.tags) ∧
  (∀ (c : Fin 64) (page : Nat) (write : Bool), Happens (.hostTranslationRequest c page write) (fun s => s.linkOpen 0 = false) id) ∧
  ∀ (c : Fin 64) (page : Nat) (write : Bool) (s : State), s.linkOpen 0 = true →
    let va := page * 65536 % 2 ^ 57
    let u := s.walkFrom c va 8
    let refused := exec (.hostTranslationRequest c page write) s = .next { u with board := { u.board with response := [] } }
    (∀ e : TlbEntry, u.walkGo c va u.board.roots[c] walkLevels = .leaf e →
      let pa := e.pa + va % 2 ^ e.size
      ((write = true → e.w = true) → u.unreachable pa = false → ∃ t, exec (.hostTranslationRequest c page write) s = .next t ∧
        t = (let v := if write then u.orCompanion e.comp (2 ^ 9) else u; { v with board := { v.board with response := leBytes 8 pa } })) ∧
      (write = true → e.w = false → refused) ∧ (u.unreachable pa = true → refused)) ∧
    ((∀ e : TlbEntry, u.walkGo c va u.board.roots[c] walkLevels ≠ .leaf e) → refused)

/-- R357 to R361, R368 to R374: invalidation, region switches, write-backs of the memory-side cache and host translations.
The choices of log 3 and 56 are the model's own. -/
def Obligations.TranslationUpkeep : Prop := Claim.Invalidation ∧ Claim.RegionsAndCache

/-- R417: a write of a ring register, which is ignored while READY = 1. -/
def Sys2Proof.ringWritten (x : VirtFn) (k : Nat) (y : BitVec 64) : VirtFn :=
  match x.ready, k with
  | false, 0 => { x with sqbase := y }
  | false, 1 => { x with sqsize := y }
  | false, 3 => { x with cqbase := y }
  | false, 4 => { x with cqsize := y }
  | _, _ => x

/-- R4, R5, R182, R247, R309, R329, R336, R353, R368 to R370, R401, R419, R422, R427: a write of each register of the Board, whose number is the model's own (log 3), keeps the bits that
the register has and changes no other state, but that a tenant entry which takes the context of a running job away ends the job, with its record (R426); a grant of exact cells is a multiple of 1,024 and at most 65,536 in all, and clears the cells that it grants. -/
def Sys2Proof.Claim.BoardRegisters : Prop :=
  ∀ (v : BitVec 128) (s : State),
    let w := v.extractLsb' 0 32
    let board := fun (i : Instr) (b : Board) => exec i s = .next { s with board := b }
    (∀ r : Fin 384, board (.registerWrite 0 r.val v) { s.board with shadow := s.board.shadow.set r (w &&& 0x803FE1FF) }) ∧
    (∀ (i : Fin 4) (j : Fin 13), board (.registerWrite 1 (13 * i.val + j.val) v)
      { s.board with hshadow := s.board.hshadow.set i ((s.board.hshadow[i]).set j (w &&& 0x7FFFFF)) }) ∧
    board (.registerWrite 2 0 v) { s.board with refused := s.board.refused && !v.getLsbD 2 } ∧
    (∀ c : Fin 64, board (.registerWrite 4 c.val v) { s.board with roots := s.board.roots.set c (v.extractLsb' 0 52).toNat }) ∧
    (∀ p : Fin 4096, board (.registerWrite 5 p.val v) { s.board with scope := s.board.scope.set p (w &&& 0x87) }) ∧
    (∀ n : Fin 8, let u : State := { s with board := { s.board with tenants := s.board.tenants.set n (v &&& ~~~0x7FFF) } }
      (u.tenantCtx n = s.tenantCtx n ∨ (s.board.vf[n]).job = none → exec (.registerWrite 6 n.val v) s = .next u) ∧
      (∀ c, s.tenantCtx n = some c → u.tenantCtx n ≠ some c → ∃ t, exec (.registerWrite 6 n.val v) s = .next t ∧ t.board.tenants = u.board.tenants ∧
        (t.board.vf[n]).job = none ∧ ∀ tag, (s.board.vf[n]).job = some tag → t.board.seq = s.board.seq + 1 ∧
          t.board.records = s.board.records ++ [jobRecord n s.board.vf[n] (s.board.seq + 1) s.board.images]) ∧
      board (.registerWrite 8 n.val v) { s.board with window := s.board.window.set n ((v.extractLsb' 0 32).toNat, (v.extractLsb' 32 32).toNat) } ∧
      board (.registerWrite 9 n.val v) { s.board with steer := s.board.steer.set n (w &&& 0x3FFFFF) } ∧
      board (.registerWrite 10 n.val v) { s.board with place := s.board.place.set n (w &&& 0x1FFFFFF) } ∧
      (v.toNat % 1024 = 0 → ((s.board.cellGrant.set n v.toNat).toList.sum ≤ 65536) →
        exec (.registerWrite 7 n.val v) s = .next { s with
          cells := s.cells.filter fun c => !(decide (commonBase + (s.board.window[n]).1 ≤ c.1) && decide (c.1 < commonBase + (s.board.window[n]).1 + 4 * v.toNat))
          board := { s.board with cellGrant := s.board.cellGrant.set n v.toNat } }) ∧
      (v.toNat % 1024 ≠ 0 ∨ 65536 < (s.board.cellGrant.set n v.toNat).toList.sum → exec (.registerWrite 7 n.val v) s = .next s)) ∧
    board (.registerWrite 12 0 v) { s.board with pkg := (v.extractLsb' 0 12).toNat } ∧
    (∀ (c : Fin 64) (n : Fin 8), board (.registerWrite 16 (8 * c.val + n.val) v) { s.board with
      ctxSegs := s.board.ctxSegs.set c ((s.board.ctxSegs[c]).set n (v &&& 0x01FFFFFFFFFFFFFF03FFFFFFFFFFFFFF)) }) ∧
    (∀ (c : CoreId) (k : Slot), exec (.registerWrite 18 (32 * c.val + k.val) v) s = .next (s.modGroup c k fun g =>
      if g.tape.st ≠ .closed ∧ g.tape.extent ≤ v.toNat ∧ v.toNat % 64 = 0 ∧ g.tape.base + v.toNat ≤ segLimit g.seg[5]
      then { g with tape := { g.tape with extent := v.toNat } } else g)) ∧
    (∀ n : Nat, board (.registerWrite 11 n v) { s.board with exports := if v.extractLsb' 90 38 = 0 then s.board.exports.filter fun e => e.tenant != n
      else ⟨n, (v.extractLsb' 52 38).toNat, (v.extractLsb' 90 38).toNat, (v.extractLsb' 0 52).toNat⟩ :: s.board.exports }) ∧
    (∀ k : Nat, board (.registerWrite 14 k v) { s.board with staged :=
      (k, ((s.board.staged.lookup k).getD []) ++ leBytes 16 v.toNat) :: s.board.staged.filter fun x => x.1 != k }) ∧
    (∀ (n : Fin 8) (k : Fin 16), board (.registerWrite 15 (16 * n.val + k.val) v)
      { s.board with vf := s.board.vf.set n (ringWritten s.board.vf[n] k.val (v.extractLsb' 0 64)) }) ∧
    ∀ r : Fin 384, board (.registerWrite 17 r.val v) { s.board with owner := s.board.owner.set r (if h : v.toNat < 8 then some ⟨v.toNat, h⟩ else none) }

/-! ### Health, power and reset (R375, R423 to R430) -/

/-- R427: the answer of a management read: its bytes. -/
def Sys2Proof.managed (s : State) (bs : List Byte) : State := { s with board := { s.board with managed := bs } }

/-- R427: the figure of a unit: the end of life that firmware predicts from its wear monitor (a free value, log 13), with the mark that the figures are provisional. -/
def Sys2Proof.figure (s : State) (i : Fin 488) : List Byte :=
  leBytes 4 (Config.endOfLife i.val (s.board.wear[i]).drift (s.board.wear[i]).stress (s.board.wear[i]).ecc) ++ leBytes 1 s.board.provisional.toNat

/-- R426, R427, R429: management reads: the figure of a unit; that of a class, the least of its units in service; the blob of the wear monitors, signed, which the host
then holds; a job record. Their numbers are the model's own (log 3). -/
def Sys2Proof.Claim.ManagementReads : Prop :=
  (∀ i : Fin 488, Happens (.healthRead i.val) (fun _ => True) fun s => managed s (figure s i)) ∧
  (∀ (c : Fin 4) (i : Fin 488), Happens (.healthRead (488 + c.val)) (fun s => unitClass i = some c.val ∧ s.unitLive i = true ∧
      ∀ j, unitClass j = some c.val → s.unitLive j = true → s.months i ≤ s.months j) fun s => managed s (figure s i)) ∧
  (∀ c : Fin 4, Happens (.healthRead (488 + c.val)) (fun s => ∀ j, unitClass j = some c.val → s.unitLive j = false)
    fun s => managed s (leBytes 1 s.board.provisional.toNat)) ∧
  (∀ s : State, let bs := s.board.wear.toList.flatMap fun w => leBytes 8 w.drift ++ leBytes 8 w.stress ++ leBytes 8 w.ecc
    exec (.healthRead 492) s = .next (managed { s with board := { s.board with blob := some s.board.wear } } (bs ++ leBytes 114 (Config.signature bs).toNat))) ∧
  ∀ k : Nat, Happens (.healthRead (493 + k)) (fun _ => True) fun s => managed s ((s.board.records[k]?).getD [])

/-- R341, R425 to R427: an image that passes its check is activated: its digest takes the place of those of its kind, which running jobs keep; an emulation image must
cover every chiplet in service, whose stores it then fills (DESIGN CHOICE, log 12). One that fails changes nothing. -/
def Sys2Proof.Claim.Activation : Prop :=
  ∀ (n : Nat) (bs : List Byte), Happens (.activationRequest n) (fun s => s.board.staged.find? (fun x => x.1 == n) = some (n, bs)) fun s =>
    if Config.imageGood n bs = true ∧ (n = 3 → ∀ d : Fin 8, s.board.chipOut[d] = false → Config.emulCovers (classOfChip d.val) bs = true) then
      { s with board := { s.board with
        staged := s.board.staged.filter fun y => y.1 != n
        images := s.board.images.filter (fun i => i.1 != n) ++ [(n, leBytes 64 (Config.digest bs).toNat)]
        vf := s.board.vf.map fun v : VirtFn => if v.job.isSome then { v with images := v.images ++ s.board.images.filter fun i => i.1 == n } else v
        handler := if n = 4 then imageWords bs else s.board.handler
        emul := if n = 3 then Vector.ofFn fun d : Fin 8 => if s.board.chipOut[d] then s.board.emul[d] else bs.take (2 ^ 20) else s.board.emul } }
    else s

/-- R375, R424, R425, R428, R430: an uncorrectable error poisons a sector of memory, with an entry in the log, or an element of a register, a predicate, a bound record, a
tile or scratch; a core, a quad or a chiplet without a resident team is retired; a chiplet with one takes no new cluster, and firmware may end its teams; a key slot is
written; and heat lowers a clock, stops and resumes the issue of a die, and removes its power. The places and numbers are the model's own (log 3). -/
def Sys2Proof.Claim.ErrorsRetirementAndHeat : Prop :=
  (∀ n : Nat, Happens (.uncorrectableEccError (7 * n)) (fun _ => True) fun s =>
    { s with poison := (n, 0) :: s.poison.filter (fun p => p.1 != n), board := { s.board with log := s.board.log ++ [.poisoned (32 * n)] } }) ∧
  (∀ n k : Nat, 0 < k → k < 7 → Happens (.uncorrectableEccError (7 * n + k)) (fun s => eccSite (7 * n + k) ∉ s.ecc)
    fun s => { s with ecc := s.ecc ++ [eccSite (7 * n + k)] }) ∧
  (∀ c : CoreId, Happens (.unitRetire 0 c.val) (fun s => ∀ t ∈ s.teams, t.core ≠ c) fun s => s.modCore c fun x => { x with retired := true }) ∧
  (∀ q : QuadId, Happens (.unitRetire 1 q.val) (fun s => ∀ t ∈ s.teams, quadOf t.core ≠ q)
    fun s => { s with board := { s.board with quadOut := s.board.quadOut.set q true } }) ∧
  (∀ d : Fin 8, Happens (.unitRetire 2 d.val) (fun s => (∀ t ∈ s.teams, chipOf t.core ≠ d) ∧ ∀ t ∈ s.board.suspended, chipOf t.core ≠ d)
    fun s => { s with board := { s.board with chipOut := s.board.chipOut.set d true } }) ∧
  (∀ d : Fin 8, Happens (.unitRetire 2 d.val) (fun s => (∃ t ∈ s.teams, chipOf t.core = d) ∨ ∃ t ∈ s.board.suspended, chipOf t.core = d)
    fun s => { s with board := { s.board with closing := s.board.closing.set d true } }) ∧
  (∀ (l : Launch) (cores : List CoreId) (c : CoreId) (s : State), c ∈ cores → s.board.closing[chipOf c] = true → s.rectAdmits l cores = false) ∧
  (∀ (d : Fin 8) (s : State), ∃ t, exec (.unitRetire 3 d.val) s = .next t ∧ t.board.closing = s.board.closing.set d true ∧
    ∀ x ∈ t.teams, chipOf x.core = d → x.killed = true) ∧
  (∀ (k : Fin 8) (key : Option (BitVec 512)), Happens (.keySlotInstall k key) (fun _ => True)
    fun s => { s with board := { s.board with keys := s.board.keys.set k key } }) ∧
  (∀ (d : Fin 17) (mhz : Nat), Happens (.thermalThrottle d.val mhz) (fun s => mhz < s.board.clockMhz[d])
    fun s => { s with board := { s.board with clockMhz := s.board.clockMhz.set d mhz } }) ∧
  (∀ d : Nat, Happens (.thermalPowerOff d) (fun _ => True) fun s => { s with board := { s.board with power := false } }) ∧
  ∀ (d : Nat) (s : State), (∃ t, exec (.thermalIssueStop d) s = .next t ∧ t.board = s.board ∧ t.mem = s.mem ∧
      ∀ c : CoreId, t.cores[c] = if (chipOf c).val = d then { s.cores[c] with stopped := true } else s.cores[c]) ∧
    ∃ t, exec (.thermalIssueResume d) s = .next t ∧ t.board = s.board ∧ t.mem = s.mem ∧
      ∀ c : CoreId, t.cores[c] = if (chipOf c).val = d then { s.cores[c] with stopped := false } else s.cores[c]

/-- The registers of the Board, management reads, images, errors, retirement, keys and heat. The choices of log 3, 12, 13, 25 and 40 are the model's own. -/
def Obligations.BoardRegistersAndHealth : Prop := Claim.BoardRegisters ∧ Claim.ManagementReads ∧ Claim.Activation ∧ Claim.ErrorsRetirementAndHeat

/-- R423, R425, R429, R430: power-up, power-down and a function-level reset. After power-up nothing runs, every core is at its reset state and no byte of the package's memory is
kept, while host and peer memory is as it was; without power the device does nothing but reset; and a function-level reset ends the tenant's launches, whose stored bytes
are written back, takes its fault entries and keys, its lines of the memory-side caches and its ways of the hub cache away and resets its rings.
The choices of log 2, 4, 13, 24 and 57 are the model's own. -/
def Obligations.PowerAndReset : Prop :=
  (∀ s : State, ∃ t, exec .powerUpReset s = .next t ∧ t.bundles = [] ∧ t.teams = [] ∧ t.launches = [] ∧ t.ops = [] ∧ t.ecc = [] ∧ t.poison = [] ∧
    t.cores = State.reset.cores ∧ t.quads = State.reset.quads ∧ t.l2 = Vector.replicate 8 [] ∧ t.hub = [] ∧ t.msc = [] ∧ t.faults = [] ∧ t.board.power = true ∧
    t.mem = s.mem.filter (fun c => decide (peerBase ≤ c.1)) ∧ t.board.keys = State.reset.board.keys ∧ t.board.blob = s.board.blob ∧
    (t.board.provisional = true ∨ s.board.blob = some t.board.wear)) ∧
  (∀ s : State, ∃ t, exec .powerDown s = .next t ∧ t.board.power = false ∧ t.cores = State.reset.cores ∧
    t.mem = s.mem.filter (fun c => decide (peerBase ≤ c.1))) ∧
  (∀ s : State, s.board.power = false → (∀ rest, s.agenda ≠ .row .powerUpReset :: rest) → step s = .fault .poweredOff) ∧
  (∀ (s : State) (rest : List Event), s.board.power = false → s.agenda = .row .powerUpReset :: rest → step s = exec .powerUpReset { s with agenda := rest }) ∧
  ∀ (n : Fin 8) (s : State), ∃ t, exec (.functionLevelReset n) s = .next t ∧ t.board.vf[n] = .reset ∧
    (∀ f ∈ t.faults, s.tenantOf f.ctx ≠ some n) ∧ (∀ l ∈ t.launches, s.tenantOf l.ctx = some n → l.killed.isSome = true) ∧
    (∀ u ∈ s.teams, ∀ l ∈ s.launches, l.id = u.launch → s.tenantOf l.ctx = some n → ∀ x ∈ (t.cores[u.core]).l1, x.dirty = false) ∧
    (∀ h ∈ t.hub, (s.board.tenants[n]).getLsbD (15 + h.way.val) = false) ∧
    (∀ r : Fin 384, s.board.owner[r] = some n → ∀ m ∈ t.msc, m.line / 2 ^ 23 ≠ r.val) ∧
    ∀ k : Fin 8, (s.board.tenants[n]).getLsbD (47 + k.val) = true → t.board.keys[k] = none

/-! ### Links, the host and peers (R227, R228, R387, R415 to R421) -/

/-- R421: a link is up and has its keys. -/
def Sys2Proof.linkUp (s : State) (n : Fin 35) : Prop := (s.board.links[n]).up = true ∧ (s.board.links[n]).keyed = true

/-- A link is changed. -/
def Sys2Proof.onLink (s : State) (n : Fin 35) (f : Link → Link) : State := { s with board := { s.board with links := s.board.links.set n (f s.board.links[n]) } }

/-- No completion entry is held. -/
def Sys2Proof.NoneHeld (s : State) : Prop := ∀ n : Fin 8, (s.board.vf[n]).held = []

/-- R419 to R421: a link that fails a check goes down to retrain, and at the fourth failure within a second for good; one that has trained is up, but for one that failed in
training or four times; one that has its keys carries traffic again; and a failed peer port is down. The links' numbers are the model's own (log 3). -/
def Sys2Proof.Claim.Links : Prop :=
  ∀ n : Fin 35,
    Happens (.linkIntegrityFailure n.val) (fun s => (s.board.links[n]).failures < 3 ∧ (s.board.links[n]).failed = false)
      (fun s => onLink s n fun l => { l with up := false, failures := l.failures + 1 }) ∧
    Happens (.linkIntegrityFailure n.val) (fun s => (s.board.links[n]).failures = 3 ∧ (s.board.links[n]).failed = false)
      (fun s => let t := onLink s n fun l => { l with up := false, failures := 4 }
        { t with board := { t.board with log := t.board.log ++ [.linkDown n.val] } }) ∧
    Happens (.linkIntegrityFailure (n.val + 35)) (fun s => (s.board.links[n]).failures < 4 ∧ (s.board.links[n]).failed = false)
      (fun s => onLink s n fun l => { l with up := false, failures := 1 }) ∧
    Happens (.linkRetrainComplete n.val) (fun s => (s.board.links[n]).failures < 4 ∧ (s.board.links[n]).failed = false ∧ NoneHeld s)
      (fun s => onLink s n fun l => { l with up := true }) ∧
    Happens (.linkRetrainComplete n.val) (fun s => (4 ≤ (s.board.links[n]).failures ∨ (s.board.links[n]).failed = true) ∧ NoneHeld s) (fun s => onLink s n fun l => l) ∧
    Happens (.linkKeyEstablishment n.val) NoneHeld (fun s => onLink s n fun l => { l with keyed := true }) ∧
    (1 ≤ n.val → n.val ≤ 18 → Happens (.peerLinkFailure n.val) (fun _ => True) fun s => onLink s n fun l => { l with up := false })

/-- R417: a ring size is a power of two from 16 to 4,096. -/
def Sys2Proof.RingSize (x : BitVec 64) : Prop := ∃ n : Nat, 4 ≤ n ∧ n ≤ 12 ∧ x = BitVec.ofNat 64 (2 ^ n)

/-- A function's rings change. -/
def Sys2Proof.onFunction (s : State) (n : Fin 8) (f : VirtFn → VirtFn) : State := { s with board := { s.board with vf := s.board.vf.set n (f s.board.vf[n]) } }

/-- R227: what the host's agent of a number knows when it rings a function's doorbell comes before what firmware does for it. -/
def Sys2Proof.ringing (s : State) (agent : Nat) (v : VirtFn) : VirtFn := { v with rung := v.rung.join (s.outsideOf (.host agent)).view }

/-- R227, R387, R417, R418: the doorbells and the submission ring. The first SQTAIL after a reset makes the rings READY where their registers are legal, and sets RINGERR where they
are not; later ones move the tail. CQHEAD makes room for the entries that firmware holds, which are written in order, each with the ring's phase and after what it reports. An
entry whose record passes the checks joins its queue, with its tag kept, and the ring's head moves; one whose record is refused is reported with its reason. -/
def Sys2Proof.Claim.HostRings : Prop :=
  (∀ (n : Fin 8) (w : Word), let tail := w.zeroExtend 64
    let legal := fun v : VirtFn => RingSize v.sqsize ∧ RingSize v.cqsize ∧ v.sqbase.toNat % 64 = 0 ∧ v.cqbase.toNat % 64 = 0
    Happens (.sqtailDoorbell n w) (fun s => linkUp s 0 ∧ (s.board.vf[n]).ready = true) (fun s => onFunction s n fun v => ringing s n.val { v with sqtail := tail }) ∧
    Happens (.sqtailDoorbell n w) (fun s => linkUp s 0 ∧ (s.board.vf[n]).ready = false ∧ legal s.board.vf[n])
      (fun s => onFunction s n fun v => ringing s n.val { v with sqtail := tail, ready := true, ringerr := false, sqpos := 0, cqpos := 0, pass := 0 }) ∧
    Happens (.sqtailDoorbell n w) (fun s => linkUp s 0 ∧ (s.board.vf[n]).ready = false ∧ ¬legal s.board.vf[n])
      (fun s => onFunction s n fun v => ringing s n.val { v with sqtail := tail, ringerr := true }) ∧
    Happens (.cqheadDoorbell n w) (fun s => linkUp s 0 ∧ (s.board.vf[n]).held = []) (fun s => onFunction s n fun v => { v with cqhead := tail }) ∧
    ∀ e : List Byte × View, Happens (.cqheadDoorbell n w)
      (fun s => linkUp s 0 ∧ (s.board.vf[n]).held = [e] ∧ (s.board.vf[n]).ready = true ∧ (s.board.vf[n]).cqpos + 1 < (s.board.vf[n]).cqsize.toNat ∧
        (s.board.vf[n]).cqpos + 1 ≠ w.toNat)
      fun s =>
        let at_ := hostBase + (s.board.vf[n]).cqbase.toNat + 16 * (s.board.vf[n]).cqpos
        onFunction ((onFunction s n fun v => { v with cqhead := tail }).boardWrite e.2 (some 13) (((List.range 16).map fun i => .phys (at_ + i) none).zip
          (e.1.set 14 (BitVec.ofNat 8 (1 - (s.board.vf[n]).pass % 2))))) n fun v => { v with cqpos := v.cqpos + 1, held := [] }) ∧
  ∀ (n : Fin 8) (s u : State) (ctx : Fin 64) (a : Admission), linkUp s 0 → (s.board.vf[n]).ready = true → (s.board.vf[n]).wait = none →
    (s.board.vf[n]).sqpos ≠ (s.board.vf[n]).sqtail.toNat % (s.board.vf[n]).sqsize.toNat →
    let at_ := hostBase + (s.board.vf[n]).sqbase.toNat + 32 * (s.board.vf[n]).sqpos
    let rung := (s.board.vf[n]).rung
    let r := s.readAs rung ((List.range 32).map fun i => .phys (at_ + i) none)
    let tag := BitVec.ofNat 64 (leValue ((r.2.1.drop 8).take 8))
    leValue ((r.2.1.drop 16).take 4) = 0 → s.tenantCtx n = some ctx →
    r.1.admission (.board ((s.chips ctx).headD 0)) ctx s.board.ctxSegs[ctx] (leValue (r.2.1.take 8) % 2 ^ 57) (fun _ => (s.board.vf[n]).refused)
      (fun s ts => ((s.readAs rung ts).1, (s.readAs rung ts).2.1)) = (u, a) →
    let next := fun w : State => onFunction w n fun v => { v with sqpos := (v.sqpos + 1) % v.sqsize.toNat, refused := false }
    (∀ l desc, a = .accept l desc → (u.board.queues[l.queue]).length < 256 →
      exec (.submissionEntry n) s = .next (onFunction (next (u.enqueue { l with view := rung } desc)) n fun v => { v with tags := v.tags ++ [(l.id, tag, false)] })) ∧
    (∀ l desc, a = .accept l desc → 256 ≤ (u.board.queues[l.queue]).length → exec (.submissionEntry n) s = .next r.1) ∧
    ∀ why, a = .refuse why → exec (.submissionEntry n) s = .next ((next u).postEntryFor n
      (leBytes 8 tag.toNat ++ leBytes 1 1 ++ leBytes 1 why ++ leBytes 4 0 ++ leBytes 2 0) .none)

/-- R416: the physical address of a byte of a tenant's range, whose addresses are the model's own (log 3): byte o of its valid HBM regions in order. -/
def Sys2Proof.rangeByte (s : State) (n : Fin 8) (o : Nat) : Option Nat :=
  (((List.finRange 384).filter fun r : Fin 384 => s.board.owner[r] == some n && (s.board.regions[r]).getLsbD 31)[o / 2 ^ 30]?).map fun r => r.val * 2 ^ 30 + o % 2 ^ 30

/-- R216, R227: the acquire of an ordering of the host's operations: 1 acquire, 2 release, 3 both, 4 sc. -/
def Sys2Proof.hostAcquires (s : State) (order : Nat) : Option Reach := if order = 1 ∨ order = 3 ∨ order = 4 then some (s.reach 13) else none

/-- R216, R227: their release. -/
def Sys2Proof.hostReleases (s : State) (order : Nat) : Option Reach := if order = 2 ∨ order = 3 ∨ order = 4 then some (s.reach 13) else none

/-- R227, R373, R375, R424: an agent outside reads some bytes, those that stand for nothing as zero: the state after it, in which the caches have met the lines. -/
def Sys2Proof.outsideReads (s : State) (p : Party) (acq : Option Reach) (pas : List (Option Nat)) : State :=
  let ts := (pas.filterMap id).map fun pa => Target.phys pa none
  let r := (s.touchAll .board false false ts).outsideRead p acq ts
  { r.1 with board := { r.1.board with
    response := pas.map fun x => match x with | some pa => ((((pas.filterMap id).zip r.2).find? fun g => g.1 == pa).map (·.2)).getD 0 | none => 0
    rpoison := (pas.filterMap id).any r.1.poisonedPa } }

/-- R227, R228: an agent outside writes some bytes. -/
def Sys2Proof.outsideWrites (s : State) (p : Party) (rel : Option Reach) (cells : List (Nat × Byte)) : State :=
  (s.hostTakes (cells.map (·.1))).outsideWrite p rel (cells.map fun c => (.phys c.1 none, c.2))

/-- A port to a peer package carries traffic. -/
def Sys2Proof.PeerUp (s : State) : Prop := ∃ n : Fin 35, 1 ≤ n.val ∧ n.val ≤ 18 ∧ linkUp s n

/-- R417: BAR0: its registers are read at their offsets, and every other offset reads as zero; a write changes the bytes that it has of a register, and one of no register
nothing. The widths of the registers are the model's own (log 82), and the addresses (log 3). -/
def Sys2Proof.Claim.RingRegisters : Prop :=
  ∀ (n : Fin 8) (agent : Nat),
    (∀ s : State, linkUp s 0 → exec (.hostCxlioRead ⟨agent, barBase + 4096 * n.val + 0x30⟩ 8) s = .next { s with board := { s.board with
      response := leBytes 8 ((s.board.vf[n]).ringerr.toNat * 2 + (s.board.vf[n]).ready.toNat), rpoison := false } }) ∧
    (∀ (off : Nat) (s : State), linkUp s 0 → off < 4096 → (0x0C ≤ off ∧ off < 0x10 ∨ 0x14 ≤ off ∧ off < 0x18 ∨ 0x24 ≤ off ∧ off < 0x28 ∨ 0x2C ≤ off ∧ off < 0x30 ∨ 0x34 ≤ off) →
      exec (.hostCxlioRead ⟨agent, barBase + 4096 * n.val + off⟩ 1) s = .next { s with board := { s.board with response := [0], rpoison := false } } ∧
      ∀ x, exec (.hostCxlioPostedWrite ⟨agent, barBase + 4096 * n.val + off⟩ [x]) s = .next s) ∧
    (∀ x : BitVec 64, Happens (.hostCxlioPostedWrite ⟨agent, barBase + 4096 * n.val⟩ (leBytes 8 x.toNat)) (fun s => linkUp s 0 ∧ (s.board.vf[n]).ready = false)
      fun s => onFunction s n fun v => { v with sqbase := x }) ∧
    (∀ x : Word, Happens (.hostCxlioPostedWrite ⟨agent, barBase + 4096 * n.val + 4⟩ (leBytes 4 x.toNat)) (fun s => linkUp s 0 ∧ (s.board.vf[n]).ready = false)
      fun s => onFunction s n fun v => { v with sqbase := x ++ v.sqbase.extractLsb' 0 32 }) ∧
    ∀ x : Word, Happens (.hostCxlioPostedWrite ⟨agent, barBase + 4096 * n.val + 0x10⟩ (leBytes 4 x.toNat)) (fun s => linkUp s 0 ∧ (s.board.vf[n]).ready = true)
      fun s => onFunction s n fun v => ringing s agent { v with sqtail := x.zeroExtend 64 }

/-- R216, R227, R228, R352, R373, R416, R420: accesses from outside, over links that carry traffic. A read of the host returns the bytes asked for, and zero where nothing is
mapped; a write writes its bytes where the range is mapped, a posted write of CXL.io with release ordering at `sys`; a read-modify-write of one aligned location
compares and writes at once; a snoop leaves no cache of the device with a copy of the line, and returns its bytes, and so does a write of the host to its own memory; a
peer's request goes through an export, and one that no export serves gets no bytes. -/
def Sys2Proof.Claim.OutsideAccesses : Prop :=
  (∀ (n : Fin 8) (o len agent order : Nat) (s : State), o + len ≤ 2 ^ 40 → linkUp s 0 →
    let pas := (List.range len).map fun i => rangeByte s n (o + i)
    (order < 4 → exec (.hostCxlMemAccess (n.val * 2 ^ 40 + o) ⟨agent, order, .read len⟩) s = .next (outsideReads s (.host agent) (hostAcquires s order) pas)) ∧
    exec (.hostCxlioRead ⟨agent, n.val * 2 ^ 40 + o⟩ len) s = .next (outsideReads s (.host agent) none pas)) ∧
  (∀ (n : Fin 8) (o agent order : Nat) (bs : List Byte) (s : State), o + bs.length ≤ 2 ^ 40 → linkUp s 0 →
    let cells := bs.zipIdx.filterMap fun b => (rangeByte s n (o + b.2)).map fun pa => (pa, b.1)
    (order < 4 → exec (.hostCxlMemAccess (n.val * 2 ^ 40 + o) ⟨agent, order, .write bs⟩) s = .next (outsideWrites s (.host agent) (hostReleases s order) cells)) ∧
    exec (.hostCxlioPostedWrite ⟨agent, n.val * 2 ^ 40 + o⟩ bs) s = .next (outsideWrites s (.host agent) (some (s.reach 13)) cells)) ∧
  (∀ (n : Fin 8) (o agent order : Nat) (old bs : List Byte) (s : State), linkUp s 0 → order < 4 → o + bs.length ≤ 2 ^ 40 → bs.length ∈ [1, 2, 4, 8] →
    o % bs.length = 0 → (∀ i < bs.length, (rangeByte s n (o + i)).isSome = true) →
    let ts := ((List.range bs.length).filterMap fun i => rangeByte s n (o + i)).map fun pa => Target.phys pa none
    let r := (s.hostTakes ((List.range bs.length).filterMap fun i => rangeByte s n (o + i))).outsideAtomic (.host agent) (hostAcquires s order) (hostReleases s order) ts
      fun x => if x = leValue old then some (leValue bs) else none
    exec (.hostCxlMemAccess (n.val * 2 ^ 40 + o) ⟨agent, order, .rmw old bs⟩) s = .next { r.1 with board := { r.1.board with
      response := r.2, rpoison := ts.any r.1.poisonedTarget } }) ∧
  (∀ (a agent : Nat) (bs : List Byte) (s : State), a + bs.length ≤ 2 ^ 51 → linkUp s 0 →
    ∃ t, exec (.hostCxlMemAccess (hostBase + a) ⟨agent, 0, .write bs⟩) s = .next t ∧ ∀ i < bs.length, ∀ line, line = (hostBase + a + i) / 128 →
      (∀ c : CoreId, ∀ x ∈ (t.cores[c]).l1, x.pa / 128 ≠ line) ∧ (∀ d : Fin 8, ∀ x ∈ t.l2[d], x.line ≠ line) ∧ ∀ x ∈ t.hub, x.line ≠ line) ∧
  (∀ (a : Nat) (s : State), linkUp s 0 → ∃ t, exec (.hostSnoop a) s = .next t ∧
    let pas := (List.range 128).map fun i => (hostBase + a) / 128 * 128 + i
    t.board.rpoison = pas.any t.poisonedPa ∧ t.board.response = pas.map (t.readPa none) ∧
    (∀ c : CoreId, ∀ x ∈ (t.cores[c]).l1, x.pa / 128 ≠ (hostBase + a) / 128) ∧ (∀ d : Fin 8, ∀ x ∈ t.l2[d], x.line ≠ (hostBase + a) / 128) ∧
    ∀ x ∈ t.hub, x.line ≠ (hostBase + a) / 128) ∧
  (∀ (q : PeerAsk) (a : Nat) (s : State) (e : Export), PeerUp s → q.package ≠ s.board.pkg → s.board.exports = [e] → e.tenant = a / 2 ^ 38 →
    let o := a % 2 ^ 38 / 32 * 32
    e.off ≤ o → o + 32 ≤ e.off + e.size → (∀ i < 32, s.unreachable (e.pa + (o - e.off) + i) = false ∧ s.peerRefuses (e.pa + (o - e.off) + i) = false) →
    exec (.peerRequest q a none) s = .next (outsideReads s (.peer q.package q.agent) (if q.order = 1 ∨ q.order = 3 ∨ q.order = 4 then some (s.reach q.scope) else none)
      ((List.range 32).map fun i => some (e.pa + (o - e.off) + i)))) ∧
  (∀ (q : PeerAsk) (a : Nat) (bs : List Byte) (s : State) (e : Export), PeerUp s → q.package ≠ s.board.pkg → s.board.exports = [e] → e.tenant = a / 2 ^ 38 →
    e.off ≤ a % 2 ^ 38 → a % 2 ^ 38 + bs.length ≤ e.off + e.size →
    (∀ i < bs.length, s.unreachable (e.pa + (a % 2 ^ 38 - e.off) + i) = false ∧ s.peerRefuses (e.pa + (a % 2 ^ 38 - e.off) + i) = false) →
    exec (.peerRequest q a (some bs)) s = .next (outsideWrites s (.peer q.package q.agent) (if q.order = 2 ∨ q.order = 3 ∨ q.order = 4 then some (s.reach q.scope) else none)
      (bs.zipIdx.map fun b => (e.pa + (a % 2 ^ 38 - e.off) + b.2, b.1)))) ∧
  ∀ (q : PeerAsk) (a : Nat) (s : State), PeerUp s → q.package ≠ s.board.pkg → s.board.exports = [] →
    exec (.peerRequest q a none) s = .next { s with board := { s.board with response := [], rpoison := false } }

/-- R227, R228, R387, R415 to R421: links, the host's rings, and accesses from outside. The choices of log 3, 34, 55, 60, 82 and 93 are the model's own. -/
def Obligations.LinksAndTheHost : Prop := Claim.Links ∧ Claim.HostRings ∧ Claim.RingRegisters ∧ Claim.OutsideAccesses

/-! ### The machine as a whole -/

/-- R43, R54 to R73: the word of an instruction is one word of 32 bits, the decoder reads the instruction back from it with every operand, and a word that decodes is the word
of what it decodes to: no bit of a word is dropped. -/
def Obligations.EncodingRoundTrip : Prop :=
  (∀ (i : Instr) (w : Nat), encode i = some w → w < 2 ^ 32 ∧ decode w = .ok i) ∧
  ∀ (w : Nat) (i : Instr), w < 2 ^ 32 → decode w = .ok i → encode i = some w

/-- R121, R274, R281: the decoder reads the words that the spec writes out beside their instructions. -/
def Obligations.SpecWords : Prop :=
  decode 0x08202081 = .ok (.iaddi 0 64 (.v 65) 1) ∧ decode 0x7C0C0003 = .ok (.loopr 3 0 3) ∧ decode 0xAC000800 = .ok (.mcfg 1) ∧
  decode 0xAC0C0080 = .ok (.mcfgRd 3) ∧ decode 0xAA000080 = .ok (.cvsetAll 0) ∧ decode 0xAA082800 = .ok (.cvset 2 5) ∧ decode 0xAA281100 = .ok (.cvrd 10 2)

/-- R165, R167: after a step the releases and completions that have become due take place. -/
def Sys2Proof.afterStep (t : State) : Host.Outcome State Fault Refusal := .next t.tidy

/-- R43, R52, R58, R94, R95 (log 1): a step runs what its event says: the event of the agenda that comes first, or where the agenda is empty the one chosen, unless another
is due before it. To issue is to run the instruction that the next word decodes to of the bundle whose turn it is, with that bundle brought to the front and nothing
else changed; a word that does not decode raises class 0x01; and after the step come the releases and completions that are due.
The choices of log 1 and 68 are the model's own. -/
def Obligations.StepRunsDecoded : Prop :=
  (∀ (s t : State) (n : Nat) (b : Bundle) (i : Instr) (rest : List Event), s.board.power = true → s.agenda = .issue n :: rest → s.due (.issue n) = none →
    let u := { s with agenda := rest }
    s.bundles[(u.selected n).getD n]? = some b → decode b.current.toNat = .ok i →
    exec i { u with bundles := b :: s.bundles.eraseIdx ((u.selected n).getD n) } = .next t → step s = afterStep t) ∧
  (∀ (s t : State) (i : Instr) (rest : List Event), s.board.power = true → s.agenda = .row i :: rest → s.due (.row i) = none →
    (encode i = none → exec i { s with agenda := rest } = .next t → step s = afterStep t) ∧ ((encode i).isSome = true → step s = afterStep { s with agenda := rest })) ∧
  (∀ (s t : State) (e d : Event), s.board.power = true → (s.agenda.head?.getD s.choose) = e → s.due e = some d → s.act d = .next t → step s = afterStep t) ∧
  (∀ (s t : State), s.board.power = true → s.agenda = [] → s.due s.choose = none → s.act s.choose = .next t → step s = afterStep t) ∧
  ∀ (s : State) (n : Nat) (b : Bundle) (e : DecodeError) (rest : List Event), s.board.power = true → s.agenda = .issue n :: rest → s.due (.issue n) = none →
    let u := { s with agenda := rest }
    s.bundles[(u.selected n).getD n]? = some b → (b.members.map Member.slot).Nodup → NoHandler s b → decode b.current.toNat = .error e →
    ∃ t, step s = afterStep t ∧ Agrees (onGroups { u with bundles := b :: s.bundles.eraseIdx ((u.selected n).getD n) } b fun m g =>
      trapping b false (fun l => hasBit m.sel l) 0x01 [b.current, BitVec.ofNat 32 (b.idx + 1)] g) t

/-- Every instruction gives a next state, and so does every step of a device that has power. The choice of log 1 is the model's own. -/
def Obligations.NothingStops : Prop :=
  (∀ (i : Instr) (s : State), ∃ t, exec i s = .next t) ∧ ∀ s : State, s.board.power = true → ∃ t, step s = .next t

/-- Every step keeps the canonical form of memory: addresses rising, and no byte listed that an unlisted address reads as.
The choice of log 2 is the model's own. -/
def Obligations.MemoryStaysCanonical : Prop := ∀ s t : State, MemoryCanonical s → step s = .next t → MemoryCanonical t

/-- R403, R425, R429: the device after reset: it has power, nothing runs on it, its memory lists nothing, and the privileged registers of every core hold their reset values.
The choices of log 2 and 4 are the model's own. -/
def Obligations.ResetState : Prop :=
  MemoryCanonical State.reset ∧ State.reset.mem = [] ∧ State.reset.bundles = [] ∧ State.reset.teams = [] ∧ State.reset.launches = [] ∧ State.reset.ops = [] ∧
  State.reset.board.power = true ∧ ∀ c : CoreId, let x := State.reset.cores[c]
    x.hentry = 0 ∧ x.wdlim = 2 ^ 28 ∧ x.barlimt = 2 ^ 24 ∧ x.barlimc = 2 ^ 24 ∧ x.qlim = 2 ^ 20 ∧ x.tctl = 0 ∧ (∀ n : Fin 4, x.bp[n] = 0) ∧ x.bpctx = 0 ∧ x.step = 0 ∧
    ∀ k : Fin 32, (x.slots[k]).isNone = true

/-- R53, R67: a word that fails a static check, or whose PREFIX does, raises the class of the check for the threads that the guard selects, with the failing word and its place in the
clause in the record, and has no other effect. The choice of log 28 is the model's own. -/
def Obligations.StaticChecks : Prop :=
  ∀ (i : Instr) (s : State) (b : Bundle) (inPrefix : Bool) (cls : Nat), (encode i).isSome = true → (∀ q x r z f o c, i ≠ .pfx q x r z f o c) →
    s.bundles.head? = some b → (b.members.map Member.slot).Nodup → (∀ m ∈ s.members b, s.breaks b m = none) → NoHandler s b →
    (infoOf i).static b.pfx = some (inPrefix, cls) →
    let n := if inPrefix then b.here else b.idx
    ∃ t, exec i s = .next t ∧ Agrees (onGroups s b fun m g => trapping b false (fun l => hasBit m.sel l) cls [b.words.getD n 0, BitVec.ofNat 32 (n + 1)] g) t

/-- R68, R114: a lane word that names a register beyond its group's allotment raises class 0x02 for the threads in which it would take effect, and writes nothing but,
under ZERO, zero to what of its destination the inactive lanes have. -/
def Sys2Proof.Claim.AllotmentChecks : Prop :=
  ∀ (e : Ext) (d : Fin 128) (a : LaneSrc) (c : Fin 128) (i : Instr), i ∈ [Instr.iadd e d a c, .imul e d a c, .and e d a c, .fadd e d a c] →
    Completes i (fun s b => NoHandler s b ∧ ∃ m g, OneGroup s b m g ∧ ((infoOf i).names b.pfx).all g.inAllot = false)
      fun s b => onGroups s b fun m g => trapping b false (g.active m (prefixOf b)) 0x02 [b.current, BitVec.ofNat 32 (b.idx + 1)]
        (g.mapThreads fun l t => if hasBit m.sel l && !g.active m (prefixOf b) l then zeroRegs b ((Block.of e d.val).regs.filter g.inAllot) g l t else t)

/-- R113 to R117, R299: ACQ, the arbiter's grant, and the check of registers against the allotment. -/
def Obligations.AllotmentsAndTheirChecks : Prop := Claim.Allotments ∧ Claim.AllotmentChecks

/-- What only handler code may write of a core (R403). -/
def Sys2Proof.privileged (x : Core) : Word × Word × Word × Word × Word × Word × Vector Word 4 × Word × Word :=
  (x.hentry, x.wdlim, x.barlimt, x.barlimc, x.qlim, x.tctl, x.bp, x.bpctx, x.step)

/-- R74, R124, R403: no word of a bundle outside handler mode changes a privileged register of any core, or the power, the tenants, the translation roots or the regions of the Board. -/
def Obligations.UserCodeIsContained : Prop :=
  ∀ (i : Instr) (s t : State) (b : Bundle), (encode i).isSome = true → s.bundles.head? = some b → NoHandler s b → exec i s = .next t →
    (∀ c : CoreId, privileged t.cores[c] = privileged s.cores[c]) ∧ t.board.power = s.board.power ∧ t.board.tenants = s.board.tenants ∧
    t.board.roots = s.board.roots ∧ t.board.regions = s.board.regions
end

