-- ==== Sys2Proof/Laws/State.lean ====
section
/-! SUPPORT. Reading the state after an update: one lemma for each accessor and update of Machine/Ops.lean. -/

namespace Sys2Proof.Laws

open Machine

/-! ### Words as sets of lanes -/

theorem laneMask_foldl (f : Lane → Bool) (i : Nat) (hi : i < 32) (ls : List Lane) (m : Word) :
    (ls.foldl (fun m l => if f l then m ||| oneBit l.val else m) m).getLsbD i
      = (m.getLsbD i || ls.any fun l => f l && l.val == i) := by
  induction ls generalizing m with
  | nil => simp
  | cons l ls ih =>
    rw [List.foldl_cons, ih, List.any_cons]
    have hb : (oneBit l.val).getLsbD i = (l.val == i) := by
      simp only [oneBit, BitVec.getLsbD_ofNat, Nat.testBit_two_pow, hi, decide_true, Bool.true_and]
      by_cases h : l.val = i <;> simp [h]
    cases hf : f l with
    | true => simp [hb, Bool.or_assoc]
    | false => simp

/-- The lanes of a mask are those that it was made of. -/
@[simp] theorem hasBit_laneMask (f : Lane → Bool) (l : Lane) : hasBit (laneMask f) l.val = f l := by
  unfold hasBit laneMask
  rw [laneMask_foldl f l.val l.isLt]
  have z : (0 : Word).getLsbD l.val = false := BitVec.getLsbD_zero
  rw [z, Bool.false_or, Bool.eq_iff_iff, List.any_eq_true]
  constructor
  · rintro ⟨x, -, hx⟩
    simp only [Bool.and_eq_true, beq_iff_eq] at hx
    rw [← Fin.ext hx.2]; exact hx.1
  · intro h
    exact ⟨l, List.mem_finRange l, by simp [h]⟩

/-! ### Cores and slots -/

@[simp] theorem modCore_cores (s : State) (c : CoreId) (f : Core → Core) :
    (s.modCore c f).cores = s.cores.set c (f s.cores[c]) := rfl
@[simp] theorem modCore_mem (s : State) (c : CoreId) (f : Core → Core) : (s.modCore c f).mem = s.mem := rfl
@[simp] theorem modCore_ops (s : State) (c : CoreId) (f : Core → Core) : (s.modCore c f).ops = s.ops := rfl
@[simp] theorem modCore_bundles (s : State) (c : CoreId) (f : Core → Core) : (s.modCore c f).bundles = s.bundles := rfl
@[simp] theorem modCore_teams (s : State) (c : CoreId) (f : Core → Core) : (s.modCore c f).teams = s.teams := rfl
@[simp] theorem modCore_launches (s : State) (c : CoreId) (f : Core → Core) : (s.modCore c f).launches = s.launches := rfl
@[simp] theorem modCore_board (s : State) (c : CoreId) (f : Core → Core) : (s.modCore c f).board = s.board := rfl
@[simp] theorem modCore_ecc (s : State) (c : CoreId) (f : Core → Core) : (s.modCore c f).ecc = s.ecc := rfl
@[simp] theorem modCore_nextId (s : State) (c : CoreId) (f : Core → Core) : (s.modCore c f).nextId = s.nextId := rfl
@[simp] theorem modCore_agenda (s : State) (c : CoreId) (f : Core → Core) : (s.modCore c f).agenda = s.agenda := rfl
@[simp] theorem modCore_quads (s : State) (c : CoreId) (f : Core → Core) : (s.modCore c f).quads = s.quads := rfl
@[simp] theorem modCore_faults (s : State) (c : CoreId) (f : Core → Core) : (s.modCore c f).faults = s.faults := rfl
@[simp] theorem modCore_poison (s : State) (c : CoreId) (f : Core → Core) : (s.modCore c f).poison = s.poison := rfl
@[simp] theorem modCore_tags (s : State) (c : CoreId) (f : Core → Core) : (s.modCore c f).tags = s.tags := rfl
@[simp] theorem modCore_hist (s : State) (c : CoreId) (f : Core → Core) : (s.modCore c f).hist = s.hist := rfl
@[simp] theorem modCore_writes (s : State) (c : CoreId) (f : Core → Core) : (s.modCore c f).writes = s.writes := rfl
@[simp] theorem modCore_reads (s : State) (c : CoreId) (f : Core → Core) : (s.modCore c f).reads = s.reads := rfl
@[simp] theorem modCore_rereads (s : State) (c : CoreId) (f : Core → Core) : (s.modCore c f).rereads = s.rereads := rfl
@[simp] theorem modCore_fences (s : State) (c : CoreId) (f : Core → Core) : (s.modCore c f).fences = s.fences := rfl
@[simp] theorem modCore_outside (s : State) (c : CoreId) (f : Core → Core) : (s.modCore c f).outside = s.outside := rfl
@[simp] theorem modCore_packed (s : State) (c : CoreId) (f : Core → Core) : (s.modCore c f).packed = s.packed := rfl
@[simp] theorem modCore_msc (s : State) (c : CoreId) (f : Core → Core) : (s.modCore c f).msc = s.msc := rfl
@[simp] theorem modCore_l2 (s : State) (c : CoreId) (f : Core → Core) : (s.modCore c f).l2 = s.l2 := rfl
@[simp] theorem modCore_hub (s : State) (c : CoreId) (f : Core → Core) : (s.modCore c f).hub = s.hub := rfl
@[simp] theorem modCore_cells (s : State) (c : CoreId) (f : Core → Core) : (s.modCore c f).cells = s.cells := rfl
@[simp] theorem modCore_chains (s : State) (c : CoreId) (f : Core → Core) : (s.modCore c f).chains = s.chains := rfl
@[simp] theorem modCore_fresh (s : State) (c : CoreId) (f : Core → Core) : (s.modCore c f).fresh = s.fresh := rfl

/-- A core that has been changed reads as changed. -/
@[simp] theorem modCore_core (s : State) (c : CoreId) (f : Core → Core) : (s.modCore c f).cores[c] = f s.cores[c] := by
  simp [State.modCore]

/-- Changing one core leaves every other. -/
theorem modCore_other (s : State) {c d : CoreId} (f : Core → Core) (h : d ≠ c) : (s.modCore c f).cores[d] = s.cores[d] := by
  have : c.val ≠ d.val := fun e => h (Fin.ext e.symm)
  simp [State.modCore, this]

/-- A core that a change leaves as it is leaves the state as it is. -/
theorem modCore_self (s : State) (c : CoreId) (f : Core → Core) (h : f s.cores[c] = s.cores[c]) : s.modCore c f = s := by
  have e : s.cores.set c (f s.cores[c]) = s.cores := by rw [h]; exact Vector.set_getElem_self _
  calc s.modCore c f = { s with cores := s.cores.set c (f s.cores[c]) } := rfl
    _ = s := by rw [e]

/-- Two changes of a core that give the same core give the same state. -/
theorem modCore_congr (s : State) (c : CoreId) {f g : Core → Core} (h : f s.cores[c] = g s.cores[c]) :
    s.modCore c f = s.modCore c g := by simp only [State.modCore, h]

/-- The group in a slot that has been set. -/
@[simp] theorem setGroup_group (s : State) (c : CoreId) (k : Slot) (g : Option Group) : (s.setGroup c k g).group? c k = g := by
  simp [State.group?, State.setGroup]

/-- Setting a slot leaves every other. -/
theorem setGroup_other (s : State) {c d : CoreId} {k j : Slot} (g : Option Group) (h : (d, j) ≠ (c, k)) :
    (s.setGroup c k g).group? d j = s.group? d j := by
  by_cases hc : d = c
  · subst hc
    have : k.val ≠ j.val := fun e => h (by simp [Fin.ext e.symm])
    simp [State.group?, State.setGroup, this]
  · simp only [State.group?, State.setGroup, modCore_other _ _ hc]

/-- Setting a slot to what it holds changes nothing. -/
theorem setGroup_self (s : State) (c : CoreId) (k : Slot) : s.setGroup c k (s.group? c k) = s := by
  have e : (s.cores[c]).slots.set k (s.group? c k) = (s.cores[c]).slots := Vector.set_getElem_self _
  refine modCore_self s c (fun x => { x with slots := x.slots.set k (s.group? c k) }) ?_
  simp only [e]

/-- Changing the group of an empty slot changes nothing. -/
theorem modGroup_none {s : State} {c : CoreId} {k : Slot} (h : s.group? c k = none) (f : Group → Group) :
    s.modGroup c k f = s := by simp [State.modGroup, h]

/-- Changing the group of a slot sets it. -/
theorem modGroup_some {s : State} {c : CoreId} {k : Slot} {g : Group} (h : s.group? c k = some g) (f : Group → Group) :
    s.modGroup c k f = s.setGroup c k (some (f g)) := by simp [State.modGroup, h]

/-- The group of a slot after it has been changed. -/
@[simp] theorem modGroup_group (s : State) (c : CoreId) (k : Slot) (f : Group → Group) :
    (s.modGroup c k f).group? c k = (s.group? c k).map f := by
  cases h : s.group? c k with
  | none => simp [modGroup_none h, h]
  | some g => simp [modGroup_some h]

/-- Changing one group leaves every other. -/
theorem modGroup_other (s : State) {c d : CoreId} {k j : Slot} (f : Group → Group) (h : (d, j) ≠ (c, k)) :
    (s.modGroup c k f).group? d j = s.group? d j := by
  cases hg : s.group? c k with
  | none => rw [modGroup_none hg]
  | some g => rw [modGroup_some hg, setGroup_other s _ h]

/-- Changing a group in a slot, as a change of its core. -/
theorem modGroup_eq (s : State) (c : CoreId) (k : Slot) (f : Group → Group) :
    s.modGroup c k f = s.modCore c fun x => { x with slots := x.slots.set k ((x.slots[k]).map f) } := by
  cases h : s.group? c k with
  | none =>
    have e : (s.cores[c]).slots[k] = none := h
    have hs := setGroup_self s c k
    rw [h] at hs
    rw [modGroup_none h]
    refine hs.symm.trans ?_
    exact modCore_congr _ _ (by simp only [e, Option.map_none])
  | some g =>
    have e : (s.cores[c]).slots[k] = some g := h
    rw [modGroup_some h]
    exact modCore_congr _ _ (by simp only [e, Option.map_some])

/-! ### Threads of a group -/

/-- A thread after every thread has been changed. -/
@[simp] theorem mapThreads_thread (g : Group) (f : Lane → Thread → Thread) (l : Lane) :
    (g.mapThreads f).threads[l] = f l g.threads[l] := by simp [Group.mapThreads]

@[simp] theorem mapThreads_handler (g : Group) (f : Lane → Thread → Thread) : (g.mapThreads f).handler = g.handler := by
  simp only [Group.mapThreads]
@[simp] theorem mapThreads_s (g : Group) (f : Lane → Thread → Thread) : (g.mapThreads f).s = g.s := by
  simp only [Group.mapThreads]
@[simp] theorem mapThreads_tokens (g : Group) (f : Lane → Thread → Thread) : (g.mapThreads f).tokens = g.tokens := by
  simp only [Group.mapThreads]

/-- Changing threads twice. -/
theorem mapThreads_mapThreads (g : Group) (f h : Lane → Thread → Thread) :
    (g.mapThreads f).mapThreads h = g.mapThreads fun l t => h l (f l t) := by simp [Group.mapThreads]

/-- Changing no thread. -/
theorem mapThreads_id (g : Group) (f : Lane → Thread → Thread) (h : ∀ l : Lane, f l g.threads[l] = g.threads[l]) :
    g.mapThreads f = g := by
  have : (g.mapThreads f).threads = g.threads := by
    apply Vector.ext
    intro i hi
    have := h ⟨i, hi⟩
    simpa [Group.mapThreads] using this
  calc g.mapThreads f = { g with threads := (g.mapThreads f).threads } := rfl
    _ = g := by rw [this]

/-! ### Registers -/

/-- A uniform register that has been written. -/
@[simp] theorem setUni_uni (g : Group) (n : Nat) (x : Word) : (g.setUni n x).uni n = x := by simp [Group.setUni, Group.uni]

/-- Writing a uniform register leaves every other. -/
theorem setUni_other (g : Group) {n m : Nat} (x : Word) (h : n % 128 ≠ m % 128) : (g.setUni n x).uni m = g.uni m := by
  simp [Group.setUni, Group.uni, regIx, h]

/-- A lane register that has been written. -/
@[simp] theorem setLane_lane (t : Thread) (r n : Nat) (x : Word) : (t.setLane r n x).lane r n = x := by
  simp [Thread.setLane, Thread.lane]

/-- Writing a lane register leaves every other row. -/
theorem setLane_row (t : Thread) (r n : Nat) (x : Word) {j : Fin 128} (h : j ≠ rowOf r t.turn n) :
    (t.setLane r n x).v[j] = t.v[j] := by
  have : (rowOf r t.turn n).val ≠ j.val := fun e => h (Fin.ext e.symm)
  simp [Thread.setLane, this]

/-- q0 reads true (R48). -/
theorem pred_zero (t : Thread) : t.pred 0 = true := rfl

/-- A write to q0 is ignored (R142). -/
theorem setPred_zero (t : Thread) (x : Bool) : t.setPred 0 x = t := rfl

end Sys2Proof.Laws
end

