-- ==== Sys2Proof/Laws/Still.lean ====
section
/-! SUPPORT. The bookkeeping after a word (`State.finish`) agrees with the state before it: it moves threads, counts time and
releases waits, and does nothing else. -/

namespace Sys2Proof

open Machine Laws

/-! ### Threads and groups -/

/-- A thread before and after bookkeeping. -/
structure ThreadStill (t u : Thread) : Prop where
  still : stillThread u = stillThread t
  kept  : Kept t u

theorem Kept.rfl' (t : Thread) : Kept t t := fun _ => ⟨rfl, rfl, rfl⟩

theorem Kept.trans {t u v : Thread} (a : Kept t u) (b : Kept u v) : Kept t v := fun h =>
  have h1 := a h
  have h2 := b (by rw [h1.2.1]; exact h)
  ⟨h2.1.trans h1.1, h2.2.1.trans h1.2.1, h2.2.2.trans h1.2.2⟩

theorem ThreadStill.rfl' (t : Thread) : ThreadStill t t := ⟨rfl, .rfl' t⟩

/-- Bookkeeping changes where a thread of a bundle stands. -/
theorem ThreadStill.move (t : Thread) (r : Run) (pc : Word) (i : Option Nat) (n : Bool)
    (hr : stillRun r = stillRun t.run) (hm : t.run = .member) : ThreadStill t { t with run := r, pc := pc, inside := i, noBp := n } :=
  ⟨by simp [stillThread, hr], fun x => absurd hm x⟩

/-- Bookkeeping lets a thread meet breakpoints again. -/
theorem ThreadStill.noBp (t : Thread) (n : Bool) : ThreadStill t { t with noBp := n } :=
  ⟨rfl, fun _ => ⟨rfl, rfl, rfl⟩⟩

/-- Bookkeeping ends no thread and revives none. -/
theorem stillRun_exited (r : Run) : (stillRun r == .exited) = (r == .exited) := by cases r <;> rfl

theorem stillThread_gone (t : Thread) : (stillThread t).gone = t.gone := stillRun_exited t.run

theorem ThreadStill.gone {t u : Thread} (x : ThreadStill t u) : u.gone = t.gone := by
  rw [← stillThread_gone u, x.still, stillThread_gone]

/-- A group before and after bookkeeping. -/
structure GroupStill (g k : Group) : Prop where
  still : stillGroup k = stillGroup g
  kept  : ∀ l : Lane, Kept g.threads[l] k.threads[l]

theorem GroupStill.rfl' (g : Group) : GroupStill g g := ⟨rfl, fun _ => .rfl' _⟩

/-- The tests of a group's threads that read only whether they are gone. -/
theorem allThreads_congr {g k : Group} (p q : Lane → Thread → Bool) (h : ∀ l : Lane, p l g.threads[l] = q l k.threads[l]) :
    g.allThreads p = k.allThreads q := by simp only [Group.allThreads, h]

/-- Threads that differ in their positions only. -/
theorem stillGroup_threads (g : Group) (v : Vector Thread 32)
    (h : ∀ l : Lane, stillThread v[l] = stillThread g.threads[l]) :
    stillGroup { g with threads := v } = stillGroup g := by
  have hg : ∀ l : Lane, (v[l]).gone = (g.threads[l]).gone := fun l => by
    rw [← stillThread_gone, h l, stillThread_gone]
  have ht : v.map stillThread = g.threads.map stillThread := by
    apply Vector.ext
    intro i hi
    simpa using h ⟨i, hi⟩
  have ha : ({ g with threads := v } : Group).allThreads (fun _ t => t.gone) = g.allThreads fun _ t => t.gone :=
    allThreads_congr _ _ hg
  have hs : ∀ x, ({ g with threads := v } : Group).signingFull x = g.signingFull x := fun x =>
    allThreads_congr _ _ fun l => by simp only [hg l]
  unfold stillGroup
  simp only [ha, hs, ht]

/-- Threads that differ in their positions only. -/
theorem stillGroup_mapThreads (g : Group) (f : Lane → Thread → Thread)
    (h : ∀ l : Lane, stillThread (f l g.threads[l]) = stillThread g.threads[l]) :
    stillGroup (g.mapThreads f) = stillGroup g := by
  unfold Group.mapThreads
  generalize hv : (Vector.ofFn fun l : Fin 32 => f l g.threads[l]) = v
  refine stillGroup_threads g v fun l => ?_
  have : v[l] = f l g.threads[l] := by simp [← hv]
  rw [this]
  exact h l

/-- Bookkeeping of threads is bookkeeping of their group. -/
theorem GroupStill.mapThreads (g : Group) (f : Lane → Thread → Thread)
    (h : ∀ l : Lane, ThreadStill g.threads[l] (f l g.threads[l])) : GroupStill g (g.mapThreads f) :=
  ⟨stillGroup_mapThreads g f fun l => (h l).still, fun l => by rw [mapThreads_thread]; exact (h l).kept⟩

/-- A group with no thread left is EXITING. -/
theorem GroupStill.exiting (g : Group) (h : g.allThreads (fun _ t => t.gone) = true) : GroupStill g { g with st := .exiting } := by
  have e : ({ g with st := SlotState.exiting } : Group).allThreads (fun _ t => t.gone) = true := h
  refine ⟨?_, fun _ => .rfl' _⟩
  unfold stillGroup
  simp only [e, h, if_true]
  rfl

/-- A signing that every member has joined waits for its pass. -/
theorem GroupStill.cvs (g : Group) : GroupStill g
    { g with cv := g.cv.map fun x => if x.st == .open_ && g.signingFull x then { x with st := .postwait } else x } := by
  refine ⟨?_, fun _ => .rfl' _⟩
  have hs : ∀ cv x, ({ g with cv := cv } : Group).signingFull x = g.signingFull x := fun _ _ => rfl
  have ha : ∀ cv, ({ g with cv := cv } : Group).allThreads (fun _ t => t.gone) = g.allThreads (fun _ t => t.gone) := fun _ => rfl
  unfold stillGroup
  simp only [hs, ha, Vector.map_map]
  congr 1
  apply Vector.ext
  intro i hi
  simp only [Vector.getElem_map, Function.comp]
  split
  · simp
  · rfl

/-! ### The device -/

theorem Agrees.rfl' (s : State) : Agrees s s :=
  ⟨rfl, fun c k g h hg hh l => by rw [hg] at hh; cases hh; exact .rfl' _⟩

/-- The slots of agreeing states. -/
theorem still_group {s t : State} (h : still t = still s) (c : CoreId) (k : Slot) :
    (t.group? c k).map stillGroup = (s.group? c k).map stillGroup := by
  have hc : (still t).cores = (still s).cores := by rw [h]
  have e : ∀ u : State, ((still u).cores[c]).slots[k] = (u.group? c k).map stillGroup := fun u => by
    simp [Sys2Proof.still, stillCore, State.group?]
  rw [← e t, ← e s, hc]

/-- Agreement reaches across two spans. -/
theorem Agrees.trans {s t u : State} (a : Agrees s t) (b : Agrees t u) : Agrees s u := by
  refine ⟨b.still.trans a.still, fun c k g h hg hh l => ?_⟩
  have hm := still_group a.still c k
  rw [hg] at hm
  cases ht : t.group? c k with
  | none => simp [ht] at hm
  | some x =>
    exact (a.kept c k g x hg ht l).trans (b.kept c k x h ht hh l)

theorem Agrees.ite {p : Prop} [Decidable p] {s t u : State} (h : p → Agrees s t) (k : ¬p → Agrees s u) :
    Agrees s (if p then t else u) := by
  split
  · exact h ‹_›
  · exact k ‹_›

/-- A fold of bookkeeping is bookkeeping. -/
theorem Agrees.foldl {α : Type} (l : List α) (f : State → α → State) (s : State)
    (h : ∀ u, Agrees s u → ∀ x ∈ l, Agrees u (f u x)) : Agrees s (l.foldl f s) := by
  suffices ∀ u, Agrees s u → Agrees s (l.foldl f u) from this s (.rfl' s)
  induction l with
  | nil => exact fun u hu => hu
  | cons x xs ih =>
    intro u hu
    exact ih (fun u hu y hy => h u hu y (List.mem_cons_of_mem _ hy)) _ (hu.trans (h u hu x List.mem_cons_self))

/-- A fold of bookkeeping, seen from where it began. -/
theorem Agrees.foldlFrom {α : Type} (l : List α) (f : State → α → State) (s : State)
    (h : ∀ u, Agrees s u → ∀ x ∈ l, Agrees s (f u x)) : Agrees s (l.foldl f s) := by
  suffices ∀ u, Agrees s u → Agrees s (l.foldl f u) from this s (.rfl' s)
  induction l with
  | nil => exact fun u hu => hu
  | cons x xs ih =>
    intro u hu
    exact ih (fun u hu y hy => h u hu y (List.mem_cons_of_mem _ hy)) _ (h u hu x List.mem_cons_self)

/-- Bookkeeping within one core. -/
theorem still_modCore (s : State) (c : CoreId) (f : Core → Core) (hc : stillCore (f s.cores[c]) = stillCore s.cores[c]) :
    still (s.modCore c f) = still s := by
  have : (s.cores.set c (f s.cores[c])).map stillCore = s.cores.map stillCore := by
    apply Vector.ext
    intro i hi
    by_cases h : c.val = i
    · subst h
      simpa using hc
    · simp [h]
  calc Sys2Proof.still (s.modCore c f)
      = { Sys2Proof.still s with cores := (s.cores.set c (f s.cores[c])).map stillCore } := rfl
    _ = Sys2Proof.still s := by rw [this]; rfl

/-- Bookkeeping within one core. -/
theorem Agrees.modCore (s : State) (c : CoreId) (f : Core → Core) (hc : stillCore (f s.cores[c]) = stillCore s.cores[c])
    (hs : ∀ (k : Slot) (g h : Group), (s.cores[c]).slots[k] = some g → (f s.cores[c]).slots[k] = some h → ∀ l : Lane,
      Kept g.threads[l] h.threads[l]) : Agrees s (s.modCore c f) := by
  constructor
  · exact still_modCore s c f hc
  · intro d k g h hg hh l
    by_cases e : d = c
    · subst e
      simp only [State.group?, modCore_core] at hg hh
      exact hs k g h hg hh l
    · simp only [State.group?, modCore_other s f e] at hg hh
      rw [hg] at hh
      cases hh
      exact .rfl' _

/-- A change of a core's counters. -/
theorem Agrees.counters (s : State) (c : CoreId) (cy : Core → Nat) (sc : Core → Vector Sched 32) :
    Agrees s (s.modCore c fun x => { x with cycles := cy x, sched := sc x }) := by
  refine .modCore s c _ rfl fun k g h hg hh l => ?_
  simp only at hh
  rw [hg] at hh
  cases hh
  exact .rfl' _

/-- Setting a slot to a group that differs in positions only. -/
theorem still_setGroup (s : State) (c : CoreId) (k : Slot) {g g' : Group} (hg : s.group? c k = some g)
    (h : stillGroup g' = stillGroup g) : still (s.setGroup c k (some g')) = still s := by
  have hv : ((s.cores[c]).slots.set k (some g')).map (Option.map stillGroup) = (s.cores[c]).slots.map (Option.map stillGroup) := by
    apply Vector.ext
    intro i hi
    by_cases hk : k.val = i
    · subst hk
      have e : (s.cores[c]).slots[k.val] = some g := hg
      simp only [Vector.getElem_map, Vector.getElem_set_self, e, Option.map_some, h]
    · simp [hk]
  have hc : stillCore { s.cores[c] with slots := (s.cores[c]).slots.set k (some g') } = stillCore s.cores[c] := by
    unfold stillCore
    simp only [hv]
  exact (still_modCore s c (fun x => { x with slots := x.slots.set k (some g') }) hc)

/-- Bookkeeping within one slot, of the threads that were in a bundle before bookkeeping began. -/
theorem Agrees.modGroupFrom {s u : State} (a : Agrees s u) (c : CoreId) (k : Slot) (f : Group → Group)
    (h : ∀ g x, s.group? c k = some g → u.group? c k = some x → stillGroup (f x) = stillGroup x ∧
      ∀ l : Lane, Kept g.threads[l] (f x).threads[l]) : Agrees s (u.modGroup c k f) := by
  cases hx : u.group? c k with
  | none => rw [modGroup_none hx]; exact a
  | some x =>
    have hm := still_group a.still c k
    rw [hx] at hm
    cases hg : s.group? c k with
    | none => simp [hg] at hm
    | some g =>
      have hf := h g x hg hx
      constructor
      · rw [← a.still, modGroup_some hx]
        exact still_setGroup u c k hx hf.1
      · intro d j y z hy hz l
        rw [modGroup_some hx] at hz
        by_cases e : (d, j) = (c, k)
        · simp only [Prod.mk.injEq] at e
          obtain ⟨rfl, rfl⟩ := e
          rw [setGroup_group] at hz
          rw [hg] at hy; cases hy; cases hz
          exact hf.2 l
        · rw [setGroup_other _ _ e] at hz
          exact a.kept d j y z hy hz l

/-- Bookkeeping within one slot. -/
theorem Agrees.modGroup (s : State) (c : CoreId) (k : Slot) (f : Group → Group)
    (h : ∀ g, s.group? c k = some g → GroupStill g (f g)) : Agrees s (s.modGroup c k f) :=
  (Agrees.rfl' s).modGroupFrom c k f fun g x hg hx => by
    rw [hg] at hx; cases hx
    exact ⟨(h g hg).still, (h g hg).kept⟩

/-- Bookkeeping within one slot. -/
theorem Agrees.setGroup (s : State) (c : CoreId) (k : Slot) {g g' : Group} (hg : s.group? c k = some g) (h : GroupStill g g') :
    Agrees s (s.setGroup c k (some g')) := by
  rw [← modGroup_some hg fun _ => g']
  refine Agrees.modGroup _ _ _ _ fun x hx => ?_
  rw [hg] at hx; cases hx
  exact h

/-- Which bundles are open is bookkeeping. -/
theorem Agrees.bundles (s : State) (b : List Bundle) : Agrees s { s with bundles := b } :=
  ⟨rfl, fun c k g h hg hh l => by
    have : s.group? c k = some h := hh
    rw [hg] at this; cases this; exact .rfl' _⟩

/-- The counts of teams are bookkeeping. -/
theorem Agrees.teams (s : State) (f : Team → Team) (h : ∀ t ∈ s.teams, stillTeam (f t) = stillTeam t) :
    Agrees s { s with teams := s.teams.map f } := by
  refine ⟨?_, fun c k g h hg hh l => ?_⟩
  · have : (s.teams.map f).map stillTeam = s.teams.map stillTeam := by
      rw [List.map_map]
      exact List.map_congr_left h
    calc Sys2Proof.still { s with teams := s.teams.map f }
        = { Sys2Proof.still s with teams := (s.teams.map f).map stillTeam } := rfl
      _ = Sys2Proof.still s := by rw [this]; rfl
  · have : s.group? c k = some h := hh
    rw [hg] at this; cases this; exact .rfl' _

/-! ### The parts of `State.finish` -/

theorem agrees_elapse (s : State) (c : CoreId) (n : Nat) : Agrees s (s.elapse c n) := by
  unfold State.elapse
  have h1 := Agrees.counters s c (fun x => x.cycles + n) fun x =>
    if x.stopped then x.sched else Vector.ofFn fun k : Fin 32 =>
      match x.slots[k] with
      | some g => (x.sched[k]).elapse g (s.groupReady g) n
      | none => x.sched[k]
  dsimp only
  split
  · exact h1
  · refine h1.trans (Agrees.teams _ (s.teamElapse c n) fun t _ => ?_)
    unfold State.teamElapse
    split <;> rfl

theorem agrees_purge (s : State) : Agrees s s.purge := .bundles s _

/-- A thread leaves its bundle. -/
theorem still_standAt (t : Thread) (b : Bundle) (i : Nat) (r : Run) (hr : stillRun r = stillRun t.run) (hm : t.run = .member) :
    ThreadStill t (t.standAt b i r) := by
  unfold Thread.standAt
  split
  · exact .move t r _ _ t.noBp hr hm
  · exact .move t r _ _ t.noBp hr hm

theorem agrees_haltSlot (s : State) (c : CoreId) (k : Slot) : Agrees s (s.haltSlot c k) := by
  unfold State.haltSlot
  refine Agrees.trans (Agrees.foldl _ _ s fun u _ b _ => ?_) (.bundles _ _)
  split
  · refine Agrees.foldl _ _ u fun v _ m _ => Agrees.modGroup _ _ _ _ fun g _ => .mapThreads g _ fun l => ?_
    split
    · rename_i hm
      simp only [Bool.and_eq_true, beq_iff_eq] at hm
      refine still_standAt _ _ _ _ ?_ hm.2
      rw [hm.2]; rfl
    · exact .rfl' _
  · exact .rfl' u

theorem agrees_endGroup (s : State) (c : CoreId) (k : Slot) : Agrees s (s.endGroup c k) := by
  unfold State.endGroup
  split
  · rename_i g hg
    split
    · rename_i h
      exact .setGroup _ _ _ hg (.exiting g (by simp only [Bool.and_eq_true] at h; exact h.2))
    · exact .rfl' s
  · exact .rfl' s

theorem agrees_settleCvs (s : State) (c : CoreId) (k : Slot) : Agrees s (s.settleCvs c k) :=
  Agrees.modGroup _ _ _ _ fun g _ => .cvs g

/-- A thread that a member of the bundle still holds runs. -/
theorem live_run {s : State} {c : CoreId} {k : Slot} {w : Word} {l : Lane} (h : hasBit (s.liveOf c k w) l = true) :
    ∃ g, s.group? c k = some g ∧ (g.threads[l]).run = .member := by
  unfold State.liveOf at h
  split at h
  · rename_i g hg
    rw [hasBit_laneMask] at h
    simp only [Bool.and_eq_true, beq_iff_eq] at h
    exact ⟨g, hg, h.2⟩
  · simp [hasBit] at h

/-- A thread that a trimmed member holds runs, and still does after bookkeeping. -/
theorem trim_run {s u : State} {c : CoreId} {m : Member} {g : Group} {l : Lane} (a : Agrees s u)
    (h : hasBit ((s.trim c m).sel ||| (s.trim c m).skip) l = true) (hg : u.group? c m.slot = some g) :
    stillRun (g.threads[l]).run = .ready := by
  have hx : ∃ x, s.group? c m.slot = some x ∧ (x.threads[l]).run = .member := by
    simp only [hasBit, BitVec.getLsbD_or, Bool.or_eq_true] at h
    rcases h with h | h
    · exact live_run h
    · exact live_run h
  obtain ⟨x, hx, hr⟩ := hx
  have hm := still_group a.still c m.slot
  rw [hg, hx] at hm
  simp only [Option.map_some, Option.some.injEq] at hm
  have ht : (stillGroup g).threads[l] = (stillGroup x).threads[l] := by rw [hm]
  have e : ∀ y : Group, (stillGroup y).threads[l] = stillThread y.threads[l] := fun y => by simp [stillGroup]
  rw [e, e] at ht
  have := congrArg Thread.run ht
  simp only [stillThread] at this
  rw [this, hr]; rfl

/-- The threads that a trimmed member holds were in the bundle. -/
theorem trim_member {s : State} {c : CoreId} {m : Member} {g : Group} {l : Lane}
    (h : hasBit ((s.trim c m).sel ||| (s.trim c m).skip) l = true) (hg : s.group? c m.slot = some g) : (g.threads[l]).run = .member := by
  have hx : ∃ x, s.group? c m.slot = some x ∧ (x.threads[l]).run = .member := by
    simp only [hasBit, BitVec.getLsbD_or, Bool.or_eq_true] at h
    rcases h with h | h
    · exact live_run h
    · exact live_run h
  obtain ⟨x, hx, hr⟩ := hx
  rw [hg] at hx; cases hx
  exact hr

theorem agrees_endClause (s : State) (b : Bundle) : Agrees s (s.endClause b) := by
  unfold State.endClause
  refine Agrees.foldlFrom _ _ s fun u hu m hm => hu.modGroupFrom _ _ _ fun g x hg hx => ?_
  obtain ⟨m', -, rfl⟩ := List.mem_map.1 hm
  have hst : ∀ l : Lane, hasBit ((s.trim b.core m').sel ||| (s.trim b.core m').skip) l = true → stillRun (x.threads[l]).run = .ready := fun l hl => trim_run hu hl hx
  constructor
  · refine stillGroup_mapThreads x _ fun l => ?_
    split
    · rename_i hl
      have := hst l hl
      simp only [stillThread]
      rw [this]; rfl
    · rfl
  · intro l
    have hk := hu.kept _ _ g x hg hx l
    rw [mapThreads_thread]
    split
    · rename_i hl
      exact fun n => absurd (trim_member hl hg) n
    · exact hk

/-- The note of when results land is bookkeeping. -/
theorem agrees_noteLanding (s before : State) (b : Bundle) (i : WordInfo) (m : Member) : Agrees s (s.noteLanding before b i m) := by
  unfold State.noteLanding
  dsimp only
  split
  · exact .rfl' s
  · split
    · exact .rfl' s
    · exact Agrees.modGroup _ _ _ _ fun g _ => ⟨rfl, fun _ => .rfl' _⟩

/-- What follows a word agrees with the state that its effect left. -/
theorem agrees_finish (s before : State) (b : Bundle) (i : WordInfo) : Agrees s (s.finish before b i) := by
  unfold State.finish
  dsimp only
  refine Agrees.trans ?_ (agrees_elapse _ _ _)
  refine Agrees.trans ?_ (agrees_purge _)
  refine Agrees.trans ?_ (Agrees.foldl _ _ _ fun u _ m _ => (agrees_endGroup _ _ _).trans (agrees_settleCvs _ _ _))
  refine Agrees.trans ?_ (Agrees.foldl _ _ _ fun u _ m _ => ?_)
  · refine Agrees.trans ?_ (.bundles _ _)
    have hc : ∀ sc : Core → Vector Sched 32, Agrees s ((before.members b).foldl (fun s m => s.noteLanding before b i m) (s.modCore b.core fun x => { x with sched := sc x })) :=
      fun sc => (Agrees.counters s b.core (fun x => x.cycles) sc).trans (Agrees.foldl _ _ _ fun u _ m _ => agrees_noteLanding _ _ _ _ _)
    refine Agrees.ite (fun _ => ?_) (fun _ => Agrees.trans ?_ (Agrees.foldl _ _ _ fun u _ m _ =>
      Agrees.modGroup _ _ _ _ fun g _ => .mapThreads g _ fun l => ?_))
    · exact Agrees.ite (fun _ => (hc _).trans (agrees_endClause _ _)) fun _ => hc _
    · exact Agrees.ite (fun _ => (hc _).trans (agrees_endClause _ _)) fun _ => hc _
    · split
      · exact .noBp _ _
      · exact .rfl' _
  · split
    · split
      · exact agrees_haltSlot _ _ _
      · exact .rfl' _
    · exact .rfl' _

end Sys2Proof
end

