-- ==== Sys2Proof/Laws/Issue.lean ====
section
/-! SUPPORT. A word that issues with its own effect alone: the next state is its effect and the bookkeeping after it, and the words of
each shape act on the groups of their bundle one by one. -/

namespace Sys2Proof

open Machine Laws

/-- A fold over the groups of a bundle that leaves the state at each. -/
theorem eachMember_self {s : State} {b : Bundle} {f : Member → State → State}
    (h : ∀ m ∈ b.members, ∀ n : Member, n.slot = m.slot → f n s = s) : s.eachMember b f = s := by
  unfold State.eachMember
  suffices ∀ ms : List Member, (∀ m ∈ ms, m ∈ b.members) →
      ms.foldl (fun s m => let n := s.trim b.core m; if n.sel = 0 then s else f n s) s = s from this _ fun _ h => h
  intro ms hm
  induction ms with
  | nil => rfl
  | cons m ms ih =>
    have : (let n := s.trim b.core m; if n.sel = 0 then s else f n s) = s := by
      dsimp only
      split
      · rfl
      · exact h m (hm m List.mem_cons_self) _ rfl
    rw [List.foldl_cons, this]
    exact ih fun x hx => hm x (List.mem_cons_of_mem _ hx)

/-- A fold over the groups of a bundle that leaves the state at each that has threads. -/
theorem eachMember_still {s : State} {b : Bundle} {f : Member → State → State} (h : ∀ m ∈ s.members b, f m s = s) : s.eachMember b f = s := by
  unfold State.eachMember
  suffices ∀ ms : List Member, (∀ m ∈ ms, m ∈ b.members) →
      ms.foldl (fun s m => let n := s.trim b.core m; if n.sel = 0 then s else f n s) s = s from this _ fun _ h => h
  intro ms hm
  induction ms with
  | nil => rfl
  | cons m ms ih =>
    have : (let n := s.trim b.core m; if n.sel = 0 then s else f n s) = s := by
      dsimp only
      split
      · rfl
      · rename_i hz
        refine h _ ?_
        simp only [State.members, List.mem_filter, List.mem_map]
        exact ⟨⟨m, hm m List.mem_cons_self, rfl⟩, by simpa using hz⟩
    rw [List.foldl_cons, this]
    exact ih fun x hx => hm x (List.mem_cons_of_mem _ hx)

/-- A register that is no token of the group joins nothing (R104). -/
theorem noHit {g : Group} {regs : List Nat} (h : ∀ t ∈ g.tokens, t.reg ∉ regs) :
    (g.tokens.filter fun t => t.done && regs.contains t.reg) = [] := by
  rw [List.filter_eq_nil_iff]
  intro t ht
  simp [h t ht]

theorem noPending {g : Group} {regs : List Nat} (h : ∀ t ∈ g.tokens, t.reg ∉ regs ∨ t.done = true) : regs.find? g.pendingToken = none := by
  rw [List.find?_eq_none]
  intro r hr
  simp only [Group.pendingToken, List.any_eq_true, not_exists, not_and, Bool.and_eq_true, beq_iff_eq]
  intro t ht e
  rcases h t ht with h | h
  · exact absurd (e ▸ hr) h
  · simp [h]

theorem noJoin {g : Group} {regs : List Nat} (h : ∀ t ∈ g.tokens, t.reg ∉ regs) : g.join regs = g := by
  have hf : (g.tokens.filter fun t => !(t.done && regs.contains t.reg)) = g.tokens := by
    rw [List.filter_eq_self]
    intro t ht
    simp [h t ht]
  unfold Group.join
  simp only [noHit h, List.any_nil, Bool.false_eq_true, if_false, hf]

theorem noJoinFault {g : Group} {regs : List Nat} (h : ∀ t ∈ g.tokens, t.reg ∉ regs) : g.joinFault regs = none := by
  have : (regs.filter fun n => g.tokens.any fun t => t.done && t.reg == n) = [] := by
    rw [List.filter_eq_nil_iff]
    intro n hn
    simp only [List.any_eq_true, not_exists, not_and, Bool.and_eq_true, beq_iff_eq]
    intro t ht _ e
    exact absurd (e ▸ hn) (h t ht)
  simp [Group.joinFault, this]

theorem noJoinAny {g : Group} {regs : List Nat} (h : ∀ t ∈ g.tokens, t.reg ∉ regs) (p : Token → Bool) :
    (g.tokens.any fun t => t.done && regs.contains t.reg && p t) = false := by
  rw [List.any_eq_false]
  intro t ht
  simp [h t ht]

/-- A join that brings nothing changes nothing. -/
theorem joinAt_none (s : State) (c : CoreId) (k : Slot) (lanes : Word) : s.joinAt c k lanes 0 .none = s := by
  have hk : ∀ (l : Lane) (t : Thread), (if hasBit lanes l then { t with ord := t.ord.hear .none } else t) = t := by
    intro l t
    split <;> rfl
  unfold State.joinAt State.acquire State.modOrds
  rw [if_neg (by decide)]
  cases hg : s.group? c k with
  | none => exact modGroup_none hg _
  | some g =>
    rw [modGroup_some hg]
    have e := mapThreads_id g (fun l t => if hasBit lanes l then { t with ord := t.ord.hear .none } else t) fun l => hk l _
    dsimp only
    rw [e]
    have := setGroup_self s c k
    rwa [hg] at this

/-- A word that names no token joins none. -/
theorem tokenChecks_self {s : State} {b : Bundle} {i : WordInfo} (h : Issues s b i) (joins : Bundle → Member → State → Bool) :
    s.tokenChecks b i joins = s := by
  unfold State.tokenChecks
  refine eachMember_self fun m hm n hn => ?_
  rw [hn]
  split
  · rfl
  · rename_i g hg
    have ht := h.tokens m hm g hg
    have h1 : ∀ t ∈ g.tokens, t.reg ∉ i.reads := fun t x => (ht t x).1
    have h2 : ∀ t ∈ g.tokens, t.reg ∉ (i.writes ++ if i.tokenLast then [] else i.token.toList) ∨ t.done = true := fun t x => by
      by_cases hd : t.done = true
      · exact .inr hd
      · left
        have : i.token ≠ some t.reg := fun e => hd ((ht t x).2.2 e)
        rcases (ht t x).2.1 with hw | hw
        · split <;> simp [hw, this]
        · exact absurd hw.1 hd
    have hj : s.joinFor b n g i.reads = s := by
      have hv : g.joinView i.reads = .none := by rw [Group.joinView, noHit h1]; rfl
      have ha : g.joinAcquires i.reads = false := noJoinAny h1 _
      unfold State.joinFor
      rw [hv, ha]
      have : s.joinAt b.core n.slot n.sel 0 .none = s := joinAt_none ..
      simp only [Bool.false_eq_true, if_false, this]
      rw [hn, modGroup_some hg, noJoin h1]
      have := setGroup_self s b.core m.slot
      rwa [hg] at this
    dsimp only
    rw [noPending h2]
    simp only [noJoinFault h1, hj, ite_self]

/-- Where nothing is poisoned a word meets no poison (R424). -/
theorem eccChecks_self {s : State} {b : Bundle} {i : WordInfo} (h : s.ecc = []) : s.eccChecks b i = s := by
  simp [State.eccChecks, h]

theorem eccClear_self {s before : State} {b : Bundle} {i : WordInfo} (h : s.ecc = []) : s.eccClear before b i = s := by
  simp [State.eccClear, h]

/-- A fold that leaves the state at each. -/
theorem foldl_still {α : Type} {l : List α} {f : State → α → State} {s : State} (h : ∀ x ∈ l, f s x = s) : l.foldl f s = s := by
  induction l with
  | nil => rfl
  | cons x xs ih =>
    rw [List.foldl_cons, h x List.mem_cons_self]
    exact ih fun y hy => h y (List.mem_cons_of_mem _ hy)

/-- A member of the bundle comes from one of its entries. -/
theorem members_slot {s : State} {b : Bundle} {m : Member} (h : m ∈ s.members b) : ∃ x ∈ b.members, x.slot = m.slot := by
  simp only [State.members, List.mem_filter, List.mem_map] at h
  obtain ⟨⟨y, hy, rfl⟩, -⟩ := h
  exact ⟨y, hy, rfl⟩

/-- A word that names no completed token has overwritten none. -/
theorem overwritten_self {s before : State} {b : Bundle} {i : WordInfo} (h : Issues before b i) : s.overwritten before b i = s := by
  unfold State.overwritten
  split
  · rfl
  · refine foldl_still fun m hm => ?_
    obtain ⟨x, hx, e⟩ := members_slot hm
    split
    · rename_i g hg
      have : (g.tokens.any fun t => t.done && i.writes.contains t.reg && !i.peeks.contains t.reg) = false := by
        rw [List.any_eq_false]
        intro t ht
        rcases (h.tokens x hx g (by rw [e]; exact hg) t ht).2.1 with y | y
        · simp [y]
        · simp [y.2]
      rw [if_pos (by simp only [this, Bool.not_false, Bool.or_true, Bool.true_or])]
    · rfl

/-- A word that names no token brings no CVX by a join. -/
theorem joinedCvx_self {s before : State} {b : Bundle} {i : WordInfo} (h : Issues before b i) : s.joinedCvx before b i = s := by
  unfold State.joinedCvx
  split
  · refine foldl_still fun m hm => ?_
    obtain ⟨x, hx, e⟩ := members_slot hm
    split
    · rename_i g hg
      have : g.joinCvx i.reads = false := noJoinAny (fun t y => (h.tokens x hx g (by rw [e]; exact hg) t y).1) _
      simp [this]
    · rfl
  · rfl

/-- A word that issues goes on to its effect. -/
theorem issueWhen_next {s : State} {b : Bundle} {i : WordInfo} {ready : Bundle → Pfx → State → State × Bool}
    {eff : Bundle → Pfx → State → State} {joins : Bundle → Member → State → Bool} (h : Issues s b i) (hr : ready b (prefixOf b) s = (s, true)) (hg : i.gather = false)
    (he : (eff b (prefixOf b) s).ecc = []) :
    issueWhen i ready eff s joins = .next ((eff b (prefixOf b) s).finish s b i) := by
  obtain ⟨rest, hb⟩ : ∃ rest, s.bundles = b :: rest := by
    have := h.first
    cases hs : s.bundles with
    | nil => simp [hs] at this
    | cons x xs => simp only [hs, List.head?_cons, Option.some.injEq] at this; exact ⟨xs, by rw [this]⟩
  have hbr : ((s.members b).any fun m => (s.breaks b m).isSome) = false := by
    rw [List.any_eq_false]
    intro m hm
    simp [h.nobrk m hm]
  unfold issueWhen
  rw [hb]
  dsimp only
  unfold prefixOf at hr he ⊢
  simp only [hbr, h.legal, h.free, hr, hg]
  simp only [Bool.false_eq_true, if_false, if_true]
  rw [tokenChecks_self h, eccChecks_self h.clean, eccClear_self he, overwritten_self h, joinedCvx_self h]
  simp [State.stepped, h.nostep]

/-- A word that issues goes on to its effect. -/
theorem issue_next {s : State} {b : Bundle} {i : WordInfo} {eff : Bundle → Pfx → State → State} (h : Issues s b i)
    (hg : i.gather = false) (he : (eff b (prefixOf b) s).ecc = []) :
    issue i eff s = .next ((eff b (prefixOf b) s).finish s b i) := issueWhen_next h rfl hg he

/-- A word that issues ends in a state that agrees with its effect. -/
theorem issue_agrees {s u : State} {b : Bundle} {i : WordInfo} {eff : Bundle → Pfx → State → State} (h : Issues s b i)
    (hg : i.gather = false) (hu : eff b (prefixOf b) s = u) (he : u.ecc = []) : ∃ t, issue i eff s = .next t ∧ Agrees u t := by
  subst hu
  exact ⟨_, issue_next h hg he, agrees_finish _ _ _ _⟩

/-! ### Acting on the groups of a bundle one by one -/

/-- `s` with the slots of a core replaced. -/
def withSlots (s : State) (c : CoreId) (v : Vector (Option Group) 32) : State := s.modCore c fun x => { x with slots := v }

@[simp] theorem withSlots_group (s : State) (c : CoreId) (v : Vector (Option Group) 32) (k : Slot) :
    (withSlots s c v).group? c k = v[k] := by simp [withSlots, State.group?]

/-- Changing the group of a slot, after the slots of its core have been replaced. -/
theorem withSlots_modGroup (s : State) (c : CoreId) (v : Vector (Option Group) 32) (k : Slot) (f : Group → Group) :
    (withSlots s c v).modGroup c k f = withSlots s c (v.set k ((v[k]).map f)) := by
  rw [modGroup_eq]
  simp [withSlots, State.modCore]

/-- Setting a slot, after the slots of its core have been replaced. -/
theorem withSlots_setGroup (s : State) (c : CoreId) (v : Vector (Option Group) 32) (k : Slot) (g : Option Group) :
    (withSlots s c v).setGroup c k g = withSlots s c (v.set k g) := by
  simp [withSlots, State.modCore, State.setGroup]

/-- The slots of a core with the groups of some members changed. -/
@[irreducible] def slotsOn (s : State) (c : CoreId) (ms : List Member) (F : Member → Group → Group) : Vector (Option Group) 32 :=
  Vector.ofFn fun k : Fin 32 => match ms.find? fun m => m.slot == k with
    | some m => (s.group? c k).map (F m)
    | none => s.group? c k

theorem slotsOn_slot (s : State) (c : CoreId) (ms : List Member) (F : Member → Group → Group) (k : Slot) :
    (slotsOn s c ms F)[k] = match ms.find? fun m => m.slot == k with
      | some m => (s.group? c k).map (F m)
      | none => s.group? c k := by unfold slotsOn; simp

theorem slotsOn_nil (s : State) (c : CoreId) (F : Member → Group → Group) : withSlots s c (slotsOn s c [] F) = s := by
  refine modCore_self s c (fun x => { x with slots := slotsOn s c [] F }) ?_
  have : slotsOn s c [] F = (s.cores[c]).slots := by
    apply Vector.ext
    intro i hi
    have := slotsOn_slot s c [] F ⟨i, hi⟩
    simpa [State.group?] using this
  simp only [this]

theorem onGroups_eq (s : State) (b : Bundle) (F : Member → Group → Group) :
    onGroups s b F = withSlots s b.core (slotsOn s b.core (s.members b) F) := by
  unfold onGroups withSlots slotsOn State.group?
  exact modCore_congr _ _ rfl

/-- A fold over the groups of a bundle, each of which it changes by itself beside what it adds elsewhere (`put v a`: the core's slots
are `v` and the rest is as `a` says). -/
theorem eachMember_aux {α : Type} {s : State} {b : Bundle} {f : Member → State → State} {F : Member → Group → Group}
    (A : Member → α → α) (a0 : α) (put : Vector (Option Group) 32 → α → State)
    (hput : put (slotsOn s b.core [] F) a0 = s) (hgrp : ∀ v a k, (put v a).group? b.core k = v[k])
    (hn : (b.members.map Member.slot).Nodup)
    (hf : ∀ m ∈ s.members b, ∀ v a, v[m.slot] = s.group? b.core m.slot →
      f m (put v a) = put (v.set m.slot ((v[m.slot]).map (F m))) (A m a)) :
    s.eachMember b f = put (slotsOn s b.core (s.members b) F) ((s.members b).foldl (fun a m => A m a) a0) := by
  let keep : List Member → List Member := fun ms => (ms.map (s.trim b.core)).filter fun m => m.sel != 0
  let acc : List Member → α := fun ms => (keep ms).foldl (fun a m => A m a) a0
  suffices ∀ post pre : List Member, pre ++ post = b.members →
      post.foldl (fun s m => let n := s.trim b.core m; if n.sel = 0 then s else f n s)
        (put (slotsOn s b.core (keep pre) F) (acc pre)) = put (slotsOn s b.core (keep b.members) F) (acc b.members) by
    have h := this b.members [] rfl
    rw [show keep [] = [] from rfl, show acc [] = a0 from rfl, hput] at h
    exact h
  intro post
  induction post with
  | nil =>
    intro pre h
    rw [List.append_nil] at h
    rw [h]; rfl
  | cons m post ih =>
    intro pre h
    have hpre : ∀ x ∈ pre, x.slot ≠ m.slot := by
      intro x hx e
      rw [← h] at hn
      simp only [List.map_append, List.map_cons, List.nodup_append] at hn
      exact hn.2.2 _ (List.mem_map_of_mem hx) _ List.mem_cons_self e
    have hfind : (keep pre).find? (fun x => x.slot == m.slot) = none := by
      rw [List.find?_eq_none]
      intro x hx
      simp only [keep, List.mem_filter, List.mem_map] at hx
      obtain ⟨⟨y, hy, rfl⟩, -⟩ := hx
      simpa [State.trim] using hpre y hy
    have hslot : (slotsOn s b.core (keep pre) F)[m.slot] = s.group? b.core m.slot := by
      rw [slotsOn_slot, hfind]
    have htrim : (put (slotsOn s b.core (keep pre) F) (acc pre)).trim b.core m = s.trim b.core m := by
      unfold State.trim State.live State.liveOf
      simp only [hgrp, hslot]
    have hkeep : keep (pre ++ [m]) = if (s.trim b.core m).sel = 0 then keep pre else keep pre ++ [s.trim b.core m] := by
      simp only [keep, List.map_append, List.filter_append, List.map_cons, List.map_nil]
      split
      · rename_i hz
        rw [List.filter_cons_of_neg (by simp [hz]), List.filter_nil, List.append_nil]
      · rename_i hz
        rw [List.filter_cons_of_pos (by simpa using hz), List.filter_nil]
    have hmem : (s.trim b.core m).sel ≠ 0 → s.trim b.core m ∈ s.members b := by
      intro hz
      simp only [State.members, List.mem_filter, List.mem_map]
      exact ⟨⟨m, by rw [← h]; simp, rfl⟩, by simpa using hz⟩
    rw [List.foldl_cons]
    dsimp only
    rw [htrim]
    have hstep : (if (s.trim b.core m).sel = 0 then put (slotsOn s b.core (keep pre) F) (acc pre)
        else f (s.trim b.core m) (put (slotsOn s b.core (keep pre) F) (acc pre)))
        = put (slotsOn s b.core (keep (pre ++ [m])) F) (acc (pre ++ [m])) := by
      split
      · rename_i hz
        simp only [acc]
        rw [hkeep, if_pos hz]
      · rename_i hz
        have hms : (s.trim b.core m).slot = m.slot := rfl
        refine (hf _ (hmem hz) _ _ hslot).trans ?_
        change put ((slotsOn s b.core (keep pre) F).set m.slot (((slotsOn s b.core (keep pre) F)[m.slot]).map _)) _ = _
        simp only [acc]
        rw [hslot, hkeep, if_neg hz, List.foldl_append]
        congr 1
        apply Vector.ext
        intro i hi
        by_cases hk : m.slot.val = i
        · subst hk
          rw [Vector.getElem_set_self]
          have := slotsOn_slot s b.core (keep pre ++ [s.trim b.core m]) F m.slot
          rw [List.find?_append, hfind] at this
          simp only [Option.none_or, List.find?_cons, hms, beq_self_eq_true] at this
          exact this.symm
        · rw [Vector.getElem_set_ne _ _ hk]
          have h1 := slotsOn_slot s b.core (keep pre) F ⟨i, hi⟩
          have h2 := slotsOn_slot s b.core (keep pre ++ [s.trim b.core m]) F ⟨i, hi⟩
          have hne : (m.slot == (⟨i, hi⟩ : Slot)) = false := by
            rw [beq_eq_false_iff_ne]
            intro e
            exact hk (by rw [e])
          rw [List.find?_append] at h2
          simp only [List.find?_cons, hms, hne, List.find?_nil, Option.or_none] at h2
          exact h1.trans h2.symm
    rw [hstep]
    exact ih (pre ++ [m]) (by rw [List.append_assoc]; exact h)

/-- A fold over the groups of a bundle, each of which it changes by itself, changes them all. -/
theorem eachMember_groups {s : State} {b : Bundle} {f : Member → State → State} {F : Member → Group → Group}
    (hn : (b.members.map Member.slot).Nodup)
    (hf : ∀ m ∈ s.members b, ∀ v : Vector (Option Group) 32, v[m.slot] = s.group? b.core m.slot →
      f m (withSlots s b.core v) = withSlots s b.core (v.set m.slot ((v[m.slot]).map (F m)))) :
    s.eachMember b f = onGroups s b F := by
  rw [onGroups_eq]
  exact eachMember_aux (fun _ a => a) () (fun v _ => withSlots s b.core v) (slotsOn_nil _ _ _) (fun v _ k => withSlots_group s _ v k) hn
    fun m hm v _ h => hf m hm v h

end Sys2Proof
end

