-- ==== Sys2Proof/Laws/Lanes.lean ====
section
/-! SUPPORT. The lane words: fixed-latency and pip-tracked. -/

namespace Sys2Proof

open Machine Laws

theorem withSlots_self (s : State) (c : CoreId) (v : Vector (Option Group) 32) (k : Slot) :
    withSlots s c (v.set k v[k]) = withSlots s c v := by
  have : v.set k v[k] = v := Vector.set_getElem_self _
  rw [this]

theorem withSlots_keep {s : State} {c : CoreId} {v : Vector (Option Group) 32} {k : Slot} {g : Option Group} (h : v[k] = g) :
    withSlots s c v = withSlots s c (v.set k g) := by rw [← h, withSlots_self]

/-- R68: what an inactive lane writes under ZERO where the whole destination is within the allotment. -/
def zeroAll (t : Thread) (ring : Nat) (i : WordInfo) : Thread :=
  let t := if i.writesBlock then match i.blocks with
    | d :: _ => t.setBlock ring d.regs fun _ => 0
    | [] => t else t
  match i.predDst with
  | some q => t.setPred q.val false
  | none => t

/-- The registers of the destination are within the allotment where all that the word names are. -/
theorem filter_inAllot {g : Group} {i : WordInfo} {p : Option Pfx} {d : Block} {ds : List Block} (h : (i.names p).all g.inAllot = true)
    (hb : i.blocks = d :: ds) : d.regs.filter g.inAllot = d.regs := by
  rw [List.filter_eq_self]
  intro n hn
  rw [List.all_eq_true] at h
  exact h n (by unfold WordInfo.names; rw [hb]; simp [hn])

theorem zeroDst_in {g : Group} {i : WordInfo} {p : Option Pfx} (h : (i.names p).all g.inAllot = true) (t : Thread) :
    t.zeroDst g i = zeroAll t g.ring i := by
  unfold Thread.zeroDst zeroAll
  cases hb : i.blocks with
  | nil => rfl
  | cons d ds => simp only [filter_inAllot h hb] <;> rfl

/-- A fixed-latency lane word acts on the threads of its groups and sets CVX where a lane does. -/
theorem lanesFor_groups {s : State} {b : Bundle} {i : WordInfo} {f : Group → Lane → Thread → Thread × Bool}
    {v : Vector (Option Group) 32} {m : Member} (hv : v[m.slot] = s.group? b.core m.slot) (ha : m ∈ s.members b)
    (hin : InAllot s b i) (hc : NoCvxTrap s b fun g l t => (f g l t).2) :
    (withSlots s b.core v).lanesFor b (prefixOf b) i f m = withSlots s b.core (v.set m.slot ((v[m.slot]).map
      (laneGroup b (fun g l t => (f g l t).1) (fun g _ t => if (prefixOf b).zero then zeroAll t g.ring i else t)
        (fun g l t => (f g l t).2) m))) := by
  unfold State.lanesFor
  rw [withSlots_group]
  split
  · rename_i h
    rw [h]
    exact withSlots_keep h
  · rename_i g h
    have hg := hv.symm.trans h
    have hall := hin m ha g hg
    dsimp only
    rw [if_pos hall, h, Option.map_some, withSlots_setGroup]
    have hthreads : (g.mapThreads fun l t => if g.active m (prefixOf b) l then (f g l t).1
          else if hasBit m.sel l && (prefixOf b).zero then t.zeroDst g i else t)
        = g.mapThreads fun l t => if g.active m (prefixOf b) l then (f g l t).1
          else if hasBit m.sel l then (if (prefixOf b).zero then zeroAll t g.ring i else t) else t := by
      congr 1
      funext l t
      rw [zeroDst_in hall]
      cases hasBit m.sel l.val <;> simp
    unfold laneGroup
    rw [← hthreads]
    unfold State.laneCvx
    dsimp only
    split
    · rename_i hany
      have hoff : s.cvxOn b.core = false := by
        rcases hc with hc | hc
        · exact hc
        · exfalso
          obtain ⟨l, -, hl⟩ := List.any_eq_true.1 hany
          simp only [Bool.and_eq_true] at hl
          have := hc m ha g hg l hl.1
          exact Bool.noConfusion (hl.2.symm.trans this)
      rw [withSlots_modGroup]
      have hon : ∀ w, (withSlots s b.core w).cvxOn b.core = false := fun w => by
        simpa [withSlots, State.cvxOn] using hoff
      simp [hon]
    · rename_i hany
      simp

/-- A fixed-latency lane word completes with its effect on the threads of its bundle. -/
theorem laneWord_agrees {s : State} {b : Bundle} {i : WordInfo} {f : Bundle → Pfx → Group → Lane → Thread → Thread × Bool}
    (h : Issues s b i) (hg : i.gather = false) (hin : InAllot s b i)
    (hc : NoCvxTrap s b fun g l t => (f b (prefixOf b) g l t).2) :
    ∃ t, laneWord i f s = .next t ∧ Agrees (onLanes s b (fun g l t => (f b (prefixOf b) g l t).1)
      (fun g _ t => if (prefixOf b).zero then zeroAll t g.ring i else t) fun g l t => (f b (prefixOf b) g l t).2) t := by
  refine issue_agrees h hg ?_ h.clean
  exact eachMember_groups h.slots fun m hm v hv => lanesFor_groups hv hm hin hc

/-- The operations that a fold over the groups of a bundle starts. -/
theorem foldl_starts (s : State) (b : Bundle) (w : Member → Group → Work) (ms : List Member) (o : List Op) (n : Nat) :
    ms.foldl (fun (a : List Op × Nat) m => match s.group? b.core m.slot with
      | some g => (a.1 ++ [startedOp s b a.2 m (w m g)], a.2 + 1)
      | none => a) (o, n)
    = (o ++ ((ms.filterMap fun m => (s.group? b.core m.slot).map fun g => (m, g)).zipIdx.map fun x =>
        startedOp s b (n + x.2) x.1.1 (w x.1.1 x.1.2)),
      n + (ms.filterMap fun m => (s.group? b.core m.slot).map fun g => (m, g)).length) := by
  induction ms generalizing o n with
  | nil => simp
  | cons m ms ih =>
    rw [List.foldl_cons]
    cases hg : s.group? b.core m.slot with
    | none => simpa [hg] using ih o n
    | some g =>
      simp only []
      rw [ih]
      simp only [List.filterMap_cons, hg, Option.map_some, List.zipIdx_cons, List.map_cons, List.length_cons, Nat.zero_add,
        Nat.add_zero, List.append_assoc, List.singleton_append, Prod.mk.injEq, List.append_cancel_left_eq, List.cons.injEq, true_and]
      constructor
      · rw [List.zipIdx_succ]
        simp only [List.map_map]
        apply List.map_congr_left
        intro x _
        have e : n + 1 + x.2 = n + (x.2 + 1) := by omega
        simp only [Function.comp, e]
      · omega

/-- `withSlots` with the operations and the next number replaced too. -/
def withOps (s : State) (c : CoreId) (v : Vector (Option Group) 32) (a : List Op × Nat) : State :=
  { withSlots s c v with ops := a.1, nextId := a.2 }

/-- A fold over the groups of a bundle that changes each and starts an operation for it. -/
theorem eachMember_starting {s : State} {b : Bundle} {f : Member → State → State} {F : Member → Group → Group}
    {w : Member → Group → Work} (hn : (b.members.map Member.slot).Nodup)
    (hf : ∀ m ∈ s.members b, ∀ v a g, v[m.slot] = some g → s.group? b.core m.slot = some g →
      f m (withOps s b.core v a) = withOps s b.core (v.set m.slot (some (F m g)))
        (a.1 ++ [startedOp s b a.2 m (w m g)], a.2 + 1))
    (h0 : ∀ m ∈ s.members b, ∀ v a, v[m.slot] = none → f m (withOps s b.core v a) = withOps s b.core v a) :
    s.eachMember b f = starting s b F w := by
  have h := eachMember_aux (s := s) (b := b) (f := f) (F := F) (α := List Op × Nat)
    (fun m a => match s.group? b.core m.slot with
      | some g => (a.1 ++ [startedOp s b a.2 m (w m g)], a.2 + 1)
      | none => a) (s.ops, s.nextId) (withOps s b.core)
    (by rw [withOps, slotsOn_nil]) (fun v a k => withSlots_group s _ v k) hn ?_
  · rw [h, foldl_starts]
    unfold starting withOps groupsOf
    rw [onGroups_eq]
  · intro m hm v a hv
    cases hg : s.group? b.core m.slot with
    | none =>
      have hv' := hv.trans hg
      rw [h0 m hm v a hv', hv']
      unfold withOps
      rw [withSlots_keep hv']; rfl
    | some g =>
      have hv' := hv.trans hg
      rw [hf m hm v a g hv' hg, hv']
      rfl

/-- The writes of a pip-tracked lane word: those of the active lanes, and under ZERO zeros for the others (R68). -/
def pipWrites (b : Bundle) (i : WordInfo) (f : Group → Lane → Thread → List LaneWrite × Bool) (m : Member) (g : Group) : List LaneWrite :=
  (if (prefixOf b).zero then (List.finRange 32).flatMap fun l : Lane =>
    if hasBit m.sel l && !g.active m (prefixOf b) l then
      match i.blocks with
      | d :: _ => d.regs.map fun n => ⟨l, rowOf g.ring (g.threads[l]).turn n, 0, 32, 0⟩
      | [] => []
    else [] else []) ++
  (List.finRange 32).flatMap fun l => if g.active m (prefixOf b) l then (f g l g.threads[l]).1 else []

/-- What the threads of a group have done, by the group that stands in their slot. -/
theorem viewOf_group {s : State} {c : CoreId} {k : Slot} {g : Group} (h : s.group? c k = some g) (w : Word) :
    s.viewOf c k w = View.joins (((List.finRange 32).filter fun l : Lane => hasBit w l).map fun l : Lane => (g.threads[l]).ord.view) := by
  unfold State.viewOf
  rw [h]

/-- A pip-tracked lane word that reads its sources at issue attaches an operation for each group. -/
theorem pipWord_agrees {s : State} {b : Bundle} {i : WordInfo} {f : Bundle → Pfx → Group → Lane → Thread → List LaneWrite × Bool}
    (h : Issues s b i) (hg : i.gather = false) (hin : InAllot s b i) :
    ∃ t, pipWord i f s = .next t ∧ Agrees (starting s b (fun _ g => { g with pip := g.pip.set b.attach (g.pip[b.attach] + 1) })
      fun m g => .pip b.attach (pipWrites b i (f b (prefixOf b)) m g)
        (laneMask fun l => g.active m (prefixOf b) l && (f b (prefixOf b) g l g.threads[l]).2) [] false) t := by
  refine issue_agrees h hg ?_ h.clean
  refine eachMember_starting h.slots (fun m hm v a g hv hgr => ?_) fun m hm v a hv => ?_
  · have e : (withOps s b.core v a).group? b.core m.slot = some g := (withSlots_group s _ v _).trans hv
    unfold State.pipFor
    rw [e]
    dsimp only
    rw [if_pos (hin m hm g hgr)]
    unfold State.attachPip
    rw [modGroup_some e]
    have hz : g.zeroWrites m (prefixOf b) i = if (prefixOf b).zero then (List.finRange 32).flatMap fun l : Lane =>
        if hasBit m.sel l && !g.active m (prefixOf b) l then
          match i.blocks with
          | d :: _ => d.regs.map fun n => ⟨l, rowOf g.ring (g.threads[l]).turn n, 0, 32, 0⟩
          | [] => []
        else [] else [] := by
      unfold Group.zeroWrites
      cases hb : i.blocks with
      | nil => rfl
      | cons d ds => simp only [filter_inAllot (hin m hm g hgr) hb]
    rw [hz]
    unfold State.addOp
    rw [viewOf_group (setGroup_group _ _ _ _)]
    unfold withOps pipWrites
    have hs := withSlots_setGroup s b.core v m.slot (some { g with pip := g.pip.set b.attach (g.pip[b.attach] + 1) })
    rw [← hs, startedOp, viewOf_group hgr]
    rfl
  · have e : (withOps s b.core v a).group? b.core m.slot = none := (withSlots_group s _ v _).trans hv
    unfold State.pipFor
    rw [e]

end Sys2Proof
end

