-- ==== Sys2Proof/Laws/Words.lean ====
section
/-! SUPPORT. One lemma for each shape of word: what the words of Safety.lean's shapes do, from the shared operation that they call. -/

namespace Sys2Proof

open Machine Laws

/-- A fixed-latency block word. -/
theorem aluWord_writes {i : Instr} {op : LaneOp} {rule : PfxRule} {n : Nat} {f : ElemIn → Word × Bool}
    (hi : ∀ s, exec i s = aluWord op rule n f s) (hw : infoOf i = laneInfo op rule n) :
    WritesBlock i op (fun x => (f x).1) (fun x => (f x).2) := by
  intro s b h hin hc
  rw [hw] at h hin
  rw [hi]
  exact laneWord_agrees h rfl hin hc

/-- A fixed-latency block word that sets no flag. -/
theorem pureWord_writes {i : Instr} {op : LaneOp} {rule : PfxRule} {n : Nat} {f : ElemIn → Word}
    (hi : ∀ s, exec i s = pureWord op rule n f s) (hw : infoOf i = laneInfo op rule n) : WritesBlock i op f :=
  aluWord_writes hi hw

/-- No lane of a word that sets no flag raises the conversion exception. -/
theorem noCvx (s : State) (b : Bundle) : NoCvxTrap s b fun _ _ _ => false := .inr fun _ _ _ _ _ _ => rfl

/-- A block word without a flag needs no premise about the conversion-exception trap. -/
theorem WritesBlock.plain {i : Instr} {op : LaneOp} {f : ElemIn → Word} (h : WritesBlock i op f) {s : State} {b : Bundle}
    (hs : Issues s b (infoOf i)) (hin : InAllot s b (infoOf i)) :
    ∃ t, exec i s = .next t ∧ Agrees (onLanes s b
      (fun g l x => x.setBlock g.ring (Block.of op.e op.d).regs fun pos => f (op.elem b.pfx (prefixOf b) g l x pos))
      (zeroRegs b (Block.of op.e op.d).regs) (blockCvx b op fun _ => false)) t :=
  h s b hs hin (.inr fun _ _ _ _ _ _ => by simp [blockCvx])

/-- A test of the positions of a list. -/
theorem zipIdx_any {α : Type} (l : List α) (p : Nat → Bool) : (l.zipIdx.any fun r => p r.2) = (List.range l.length).any p := by
  have h : l.zipIdx.map Prod.snd = List.range l.length := by
    rw [List.range_eq_range', ← List.zipIdx_map_snd]
  rw [← h, List.any_map]
  rfl

/-- A pip-tracked block word. -/
theorem sfuWord_attaches {i : Instr} {op : LaneOp} {rule : PfxRule} {width : Nat} {f : ElemIn → Nat × Coded}
    (hi : ∀ s, exec i s = sfuWord op rule width f s) (hw : infoOf i = laneInfo op rule 4 true) : AttachesPip i op width f := by
  intro s b h hin
  rw [hw] at h hin
  rw [hi]
  obtain ⟨t, ht, ha⟩ := pipWord_agrees (f := fun b p g l t =>
      let regs := (Block.of op.e op.d).regs
      let outs := regs.zipIdx.map fun r => (r.1, f (op.elem b.pfx p g l t r.2))
      (outs.map fun o => ⟨l, rowOf g.ring t.turn o.1, o.2.1, width, o.2.2.code⟩, outs.any fun o => o.2.2.cvx)) h rfl hin
  refine ⟨t, ht, ?_⟩
  have hcvx : ∀ g l t, (((Block.of op.e op.d).regs.zipIdx.map fun r => (r.1, f (op.elem b.pfx (prefixOf b) g l t r.2))).any
      fun o => o.2.2.cvx) = blockCvx b op (fun x => (f x).2.cvx) g l t := by
    intro g l t
    rw [List.any_map]
    unfold blockCvx
    rw [← zipIdx_any]
    rfl
  have hw : (fun m g => Work.pip b.attach (pipWrites b (laneInfo op rule 4 true) (fun g l t =>
      let regs := (Block.of op.e op.d).regs
      let outs := regs.zipIdx.map fun r => (r.1, f (op.elem b.pfx (prefixOf b) g l t r.2))
      (outs.map fun o => ⟨l, rowOf g.ring t.turn o.1, o.2.1, width, o.2.2.code⟩, outs.any fun o => o.2.2.cvx)) m g)
        (laneMask fun l => g.active m (prefixOf b) l && (((Block.of op.e op.d).regs.zipIdx.map fun r =>
          (r.1, f (op.elem b.pfx (prefixOf b) g l g.threads[l] r.2))).any fun o => o.2.2.cvx)) [] false)
      = fun m g => Work.pip b.attach (pipResults b op width f m g)
        (laneMask fun l => g.active m (prefixOf b) l && blockCvx b op (fun x => (f x).2.cvx) g l g.threads[l]) [] false := by
    funext m g
    simp only [hcvx]
    unfold pipWrites pipResults
    simp only [List.map_map, laneInfo]
    rfl
  rw [← hw]
  exact ha

/-- A word that writes a predicate. -/
theorem laneWord_pred {i : Instr} {w : WordInfo} {p : Fin 64} {f : Group → Thread → Bool}
    (hi : ∀ s, exec i s = laneWord w (fun _ _ g _ t => (t.setPred p.val (f g t), false)) s) (hw : infoOf i = w)
    (hg : w.gather = false) (hb : w.writesBlock = false) (hp : w.predDst = some p) : WritesPred i p f := by
  intro s b h hin
  rw [hw] at h hin
  rw [hi]
  obtain ⟨t, ht, ha⟩ := laneWord_agrees (f := fun _ _ g _ t => (t.setPred p.val (f g t), false)) h hg hin (noCvx s b)
  refine ⟨t, ht, ?_⟩
  have hz : (fun (g : Group) (_ : Lane) (t : Thread) => if (prefixOf b).zero then zeroAll t g.ring w else t) = zeroPred b p.val := by
    funext g l t
    simp [zeroPred, zeroAll, hb, hp]
  rw [hz] at ha
  exact ha

/-- A word that changes lane registers and no predicate. -/
theorem laneWord_writes {i : Instr} {w : WordInfo} {d : Block} {ds : List Block} {f : Bundle → Pfx → Group → Lane → Thread → Thread}
    (hi : ∀ s, exec i s = laneWord w (fun b p g l t => (f b p g l t, false)) s) (hw : infoOf i = w)
    (hg : w.gather = false) (hb : w.writesBlock = true) (hd : w.blocks = d :: ds) (hp : w.predDst = none) :
    WritesLanes i d.regs fun b => f b (prefixOf b) := by
  intro s b h hin
  rw [hw] at h hin
  rw [hi]
  obtain ⟨t, ht, ha⟩ := laneWord_agrees (f := fun b p g l t => (f b p g l t, false)) h hg hin (noCvx s b)
  refine ⟨t, ht, ?_⟩
  have hz : (fun (g : Group) (_ : Lane) (t : Thread) => if (prefixOf b).zero then zeroAll t g.ring w else t) = zeroRegs b d.regs := by
    funext g l t
    simp [zeroRegs, zeroAll, hb, hp, hd]
  rw [hz] at ha
  exact ha

/-- A U word that changes each group by itself. -/
theorem uniWord_writes {i : Instr} {w : WordInfo} {f : Bundle → Member → Group → State → State}
    {F : State → CoreId → Slot → Group → Group} {when_ : State → CoreId → Group → Prop}
    (hi : ∀ s, exec i s = uniWord w f s) (hw : infoOf i = w) (hg : w.gather = false)
    (hf : ∀ (s : State) b m g v, s.group? b.core m.slot = some g → when_ s b.core g → v[m.slot] = some g →
      f b m g (withSlots s b.core v) = withSlots s b.core (v.set m.slot (some (F s b.core m.slot g)))) : WritesGroups i F when_ := by
  intro s b h hx
  rw [hw] at h
  rw [hi]
  refine issue_agrees h hg ?_ h.clean
  refine eachMember_groups h.slots fun m hm v hv => ?_
  rw [withSlots_group]
  split
  · rename_i g hgr
    rw [hgr] at hv ⊢
    exact hf s b m g v hv.symm (hx m hm g hv.symm) hgr
  · rename_i hgr
    rw [hgr]
    exact withSlots_keep hgr

/-- A U word that writes uniform registers from the group's own state. -/
theorem uniWrite_writes {i : Instr} {w : WordInfo} {f : Group → Group} (hi : ∀ s, exec i s = uniWrite w f s)
    (hw : infoOf i = w) (hg : w.gather = false) : WritesGroups i fun _ _ _ g => f g :=
  uniWord_writes hi hw hg fun s b m _ v _ _ _ => withSlots_setGroup s b.core v m.slot _

/-- A write of a uniform register by its number. -/
theorem setUni_eq (g : Group) (d : Fin 128) (x : Word) : g.setUni d.val x = { g with s := g.s.set d x } := by
  simp [Group.setUni, regIx, Nat.mod_eq_of_lt d.isLt]

/-- A word of the U ALU. -/
theorem uniAlu_writes {i : Instr} {d a : Fin 128} {b : USrc} {f : Word → Word → Word} (hi : ∀ s, exec i s = uniAlu d a b f s)
    (hw : infoOf i = uniInfo d (a.val :: usrcReads b)) : WritesUniform i d fun g => f (g.uni a.val) (g.usrc b) := by
  have h := uniWrite_writes (f := fun g => g.setUni d.val (f (g.uni a.val) (g.usrc b))) hi hw rfl
  unfold WritesUniform
  simp only [setUni_eq] at h
  exact h

end Sys2Proof
end

