-- ==== Sys2Proof/Laws/Cross.lean ====
section
/-! SUPPORT. Gathering words: votes, reductions, scans and SHFL. -/

namespace Sys2Proof

open Machine Laws

/-- A word whose gathering set is complete moves no thread before it acts (R173). -/
theorem regather_self {s : State} {b : Bundle} (h : Gathered s b) : s.regather b (prefixOf b).mod = s := by
  unfold State.regather
  refine eachMember_still fun m hm => ?_
  cases hg : s.group? b.core m.slot with
  | none => exact modGroup_none hg _
  | some g =>
    rw [modGroup_some hg]
    have : (g.mapThreads fun l t => if hasBit m.sel l && g.anyThread fun k x => g.awaited (prefixOf b).mod b.pc k && t.together x (prefixOf b).mod && !hasBit m.sel k
        then t.standAt b b.here .ready else t) = g := by
      refine mapThreads_id g _ fun l => if_neg ?_
      rw [Bool.and_eq_true]
      rintro ⟨hl, hx⟩
      unfold Group.anyThread at hx
      obtain ⟨k, _, hk⟩ := List.any_eq_true.1 hx
      simp only [Bool.and_eq_true] at hk
      simp [(h m hm g hg l).2 hl k hk.1.1 hk.1.2] at hk
    rw [this]
    have := setGroup_self s b.core m.slot
    rw [hg] at this
    exact this

/-- A word that needs its gathering set goes on to its effect. -/
theorem issue_gather {s : State} {b : Bundle} {i : WordInfo} {eff : Bundle → Pfx → State → State} (h : Issues s b i)
    (hg : Gathered s b) (he : (eff b (prefixOf b) s).ecc = []) :
    issue i eff s = .next ((eff b (prefixOf b) s).finish s b i) := by
  obtain ⟨rest, hb⟩ : ∃ rest, s.bundles = b :: rest := by
    have := h.first
    cases hs : s.bundles with
    | nil => simp [hs] at this
    | cons x xs => simp only [hs, List.head?_cons, Option.some.injEq] at this; exact ⟨xs, by rw [this]⟩
  have hbr : ((s.members b).any fun m => (s.breaks b m).isSome) = false := by
    rw [List.any_eq_false]
    intro m hm
    simp [h.nobrk m hm]
  have hr := regather_self hg
  unfold issue issueWhen
  rw [hb]
  dsimp only
  unfold prefixOf at he hr ⊢
  simp only [hbr, h.legal, h.free, alwaysReady]
  simp only [Bool.false_eq_true, if_false, if_true]
  rw [hr, ite_self, tokenChecks_self h, eccChecks_self h.clean, eccClear_self he, overwritten_self h, joinedCvx_self h]
  simp [State.stepped, h.nostep]

/-- A gathering word that issues changes the state as its effect does. -/
theorem issue_gather_agrees {s u : State} {b : Bundle} {i : WordInfo} {eff : Bundle → Pfx → State → State} (h : Issues s b i)
    (hg : Gathered s b) (hu : eff b (prefixOf b) s = u) (he : u.ecc = []) :
    ∃ t, issue i eff s = .next t ∧ Agrees u t := by
  subst hu
  exact ⟨_, issue_gather h hg he, agrees_finish ..⟩

/-- A trap for no lane. -/
theorem raise_none (s : State) (b : Bundle) (k : Slot) (lanes : Lane → Bool) (cls : Nat) (d : List Word) (after : Bool)
    (h : ∀ l, lanes l = false) : s.raise b k lanes cls d after = s := by
  unfold State.raise
  split
  · rfl
  · rw [if_neg]
    simp [h]

/-- A gathering word completes. -/
theorem gatherWord_crosses {i : Instr} {w : WordInfo} {f : Pfx → Group → Member → List Lane → Lane → Thread → Thread}
    {z : Bundle → Group → Lane → Thread → Thread}
    (hi : ∀ s, exec i s = gatherWord w f s) (hw : infoOf i = w)
    (hz : ∀ b g l t, (if (prefixOf b).zero then zeroAll t g.ring w else t) = z b g l t) :
    Crosses i (fun b g m xs l t => f (prefixOf b) g m xs l t) z := by
  intro s b h hin hg
  rw [hw] at h hin
  rw [hi]
  unfold gatherWord
  have hu : s.eachMember b (fun m s => match s.group? b.core m.slot with
      | none => s
      | some g =>
        let act := g.active m (prefixOf b)
        if (w.names b.pfx).all g.inAllot then
          let s := s.setGroup b.core m.slot (some (g.mapThreads fun l t =>
            if act l && g.inSet (prefixOf b).mod l then f (prefixOf b) g m (g.contributors m (prefixOf b) l) l t
            else if hasBit m.sel l && !act l && (prefixOf b).zero then t.zeroDst g w else t))
          s.raise b m.slot (fun l => act l && !g.inSet (prefixOf b).mod l) 0x02 [b.current, BitVec.ofNat 32 (b.idx + 1)]
        else s.refuseBlock b (prefixOf b) w m act)
      = onGroups s b fun m g => g.mapThreads fun l x =>
        if g.active m (prefixOf b) l then f (prefixOf b) g m (crossing b m g l) l x else if hasBit m.sel l then z b g l x else x := by
    refine eachMember_groups h.slots fun m hm v hv => ?_
    rw [withSlots_group]
    split
    · rename_i hgr
      rw [hgr]
      exact withSlots_keep hgr
    · rename_i g hgr
      have hgs := hv.symm.trans hgr
      have hact : ∀ l : Lane, g.active m (prefixOf b) l = true → g.inSet (prefixOf b).mod l = true := fun l hl => (hg m hm g hgs l).1 hl
      have hcs : ∀ l : Lane, g.contributors m (prefixOf b) l = crossing b m g l := by
        intro l
        unfold Group.contributors crossing
        apply List.filter_congr
        intro k _
        cases ha : g.active m (prefixOf b) k with
        | false => rfl
        | true => simp [hact k ha]
      dsimp only
      rw [if_pos (hin m hm g hgs), hgr, Option.map_some]
      rw [raise_none _ _ _ _ _ _ _ (fun l => by
        cases ha : g.active m (prefixOf b) l with
        | false => rfl
        | true => simp [hact l ha])]
      rw [withSlots_setGroup]
      have hmap : (g.mapThreads fun l t => if g.active m (prefixOf b) l && g.inSet (prefixOf b).mod l then
            f (prefixOf b) g m (g.contributors m (prefixOf b) l) l t
          else if hasBit m.sel l && !g.active m (prefixOf b) l && (prefixOf b).zero then t.zeroDst g w else t)
          = g.mapThreads fun l x => if g.active m (prefixOf b) l then f (prefixOf b) g m (crossing b m g l) l x
            else if hasBit m.sel l then z b g l x else x := by
        congr 1
        funext l t
        rw [hcs]
        cases ha : g.active m (prefixOf b) l with
        | true => simp [hact l ha]
        | false =>
          rw [← hz b g l t, zeroDst_in (hin m hm g hgs)]
          cases hasBit m.sel l.val <;> simp
      exact congrArg (fun x => withSlots s b.core (v.set m.slot (some x))) hmap
  exact issue_gather_agrees h hg hu h.clean

/-- A vote that writes a register. -/
theorem voteV_crosses {i : Instr} (d : Fin 128) (a : Fin 64) (f : List Lane → Word)
    (hi : ∀ s, exec i s = voteV d a f s) (hw : infoOf i = voteInfo (some d) none) :
    Crosses i (fun _ g _ xs _ t => t.setLane g.ring d.val (f (xs.filter fun l => (g.threads[l]).pred a.val)))
      fun b => zeroRegs b [d.val] :=
  gatherWord_crosses (w := voteInfo (some d) none) (z := fun b => zeroRegs b [d.val])
    (f := fun _ g _ cs _ t => t.setLane g.ring d.val (f (cs.filter fun l => (g.threads[l]).pred a.val))) hi hw fun b g l t => by
    simp [zeroRegs, zeroAll, voteInfo, Block.one, Block.regs]

/-- A vote that writes a predicate. -/
theorem voteQ_crosses {i : Instr} (d a : Fin 64) (f : List Lane → List Lane → Bool)
    (hi : ∀ s, exec i s = voteQ d a f s) (hw : infoOf i = voteInfo none (some d)) :
    Crosses i (fun _ g _ xs _ t => t.setPred d.val (f xs (xs.filter fun l => (g.threads[l]).pred a.val)))
      fun b => zeroPred b d.val :=
  gatherWord_crosses (w := voteInfo none (some d)) (z := fun b => zeroPred b d.val)
    (f := fun _ g _ cs _ t => t.setPred d.val (f cs (cs.filter fun l => (g.threads[l]).pred a.val))) hi hw fun b g l t => by
    simp [zeroPred, zeroAll, voteInfo]

/-- A reduction or scan. -/
theorem crossWord_crosses {i : Instr} (e : Ext) (d : Fin 128) (a : LaneSrc) (fp : Bool)
    (f : Pfx → Group → Lane → Nat → List (Lane × Word) → Word)
    (hi : ∀ s, exec i s = crossWord e d a fp f s) (hw : infoOf i = xlnInfo e d a fp) : CrossesBlock i e d a f :=
  gatherWord_crosses (w := xlnInfo e d a fp) (z := fun b => zeroRegs b (Block.of e d).regs)
    (f := fun p g _ cs l t => t.setBlock g.ring (Block.of e d).regs fun pos =>
      f p g l pos (cs.map fun x => (x, g.src (g.threads[x]) a (posOff e pos)))) hi hw fun b g l t => by
    simp [zeroRegs, zeroAll, xlnInfo]

/-- SHFL. -/
theorem crosses_shfl (e : Ext) (d : Fin 128) (a : LaneSrc) (b : Fin 128) :
    Crosses (.shfl e d a b) (fun u g m _ l t =>
      t.setBlock g.ring (Block.of e d).regs fun pos =>
        let off := posOff e pos
        let j := (t.lane g.ring (b.val + off)).toNat
        let src : Lane := if h : j < 32 then
            if hasBit m.sel j && g.inSet (prefixOf u).mod ⟨j, h⟩ && t.together g.threads[j] (prefixOf u).mod then ⟨j, h⟩ else l
          else l
        g.src (g.threads[src]) a off) fun u => zeroRegs u (Block.of e d).regs :=
  gatherWord_crosses (w := shflInfo e d a b) (z := fun u => zeroRegs u (Block.of e d).regs)
    (f := fun p g m _ l t => t.setBlock g.ring (Block.of e d).regs fun pos =>
        let off := posOff e pos
        let j := (t.lane g.ring (b.val + off)).toNat
        let src : Lane := if h : j < 32 then
            if hasBit m.sel j && g.inSet p.mod ⟨j, h⟩ && t.together g.threads[j] p.mod then ⟨j, h⟩ else l
          else l
        g.src (g.threads[src]) a off) (fun _ => rfl) rfl fun b g l t => by
    simp [zeroRegs, zeroAll, shflInfo]

end Sys2Proof
end

