-- ==== Sys2Proof/Laws/Flow.lean ====
section
/-! SUPPORT. Words that move threads, and words that act beside their groups. -/

namespace Sys2Proof

open Machine Laws

/-- A word whose effect is `u`. -/
theorem completes {i : Instr} {w : WordInfo} {eff : Bundle → Pfx → State → State} {when_ : State → Bundle → Prop} {u : State → Bundle → State}
    (hi : ∀ s, exec i s = issue w eff s) (hw : infoOf i = w) (hg : w.gather = false)
    (hu : ∀ s b, Issues s b w → when_ s b → eff b (prefixOf b) s = u s b) (he : ∀ s b, (u s b).ecc = s.ecc) : Completes i when_ u := by
  intro s b h hx
  rw [hw] at h
  rw [hi]
  exact issue_agrees h hg (hu s b h hx) (by rw [he]; exact h.clean)

@[simp] theorem onGroups_ecc (s : State) (b : Bundle) (F : Member → Group → Group) : (onGroups s b F).ecc = s.ecc := rfl

/-- The threads that a member holds run in the bundle. -/
theorem members_run {s : State} {b : Bundle} {m : Member} {g : Group} {l : Lane} (hm : m ∈ s.members b)
    (hg : s.group? b.core m.slot = some g) (hl : hasBit m.sel l = true) : (g.threads[l]).run = .member := by
  simp only [State.members, List.mem_filter, List.mem_map] at hm
  obtain ⟨⟨y, hy, rfl⟩, -⟩ := hm
  obtain ⟨x, hx, hr⟩ := live_run (show hasBit (s.liveOf b.core y.slot y.sel) l = true from hl)
  have hg : s.group? b.core y.slot = some g := hg
  rw [hg] at hx; cases hx
  exact hr

/-- Changing threads alike. -/
theorem mapThreads_congr {g : Group} {f h : Lane → Thread → Thread} (e : ∀ l : Lane, f l g.threads[l] = h l g.threads[l]) :
    g.mapThreads f = g.mapThreads h := by
  have : (g.mapThreads f).threads = (g.mapThreads h).threads := by
    apply Vector.ext
    intro i hi
    have h1 := mapThreads_thread g f ⟨i, hi⟩
    have h2 := mapThreads_thread g h ⟨i, hi⟩
    exact h1.trans ((e ⟨i, hi⟩).trans h2.symm)
  unfold Group.mapThreads at this ⊢
  simp only at this
  rw [this]

/-- Moving the threads that a member holds. -/
def selected (m : Member) (f : Group → Lane → Thread → Thread) (g : Group) : Group :=
  g.mapThreads fun l t => if hasBit m.sel l then f g l t else t

/-- Moving the threads of a member moves those that it holds. -/
theorem moveThreads_slots {s : State} {b : Bundle} {m : Member} {v : Vector (Option Group) 32} (f : Group → Lane → Thread → Thread)
    (hm : m ∈ s.members b) (u : State) (hv : v[m.slot] = s.group? b.core m.slot) :
    (withSlots u b.core v).moveThreads b m f = withSlots u b.core (v.set m.slot ((v[m.slot]).map (selected m f))) := by
  unfold State.moveThreads
  rw [withSlots_modGroup]
  rw [hv]
  cases hg : s.group? b.core m.slot with
  | none => simp only [Option.map_none]
  | some g =>
    rw [Option.map_some, Option.map_some]
    have e := mapThreads_congr (g := g) (f := fun l t => if hasBit m.sel l && t.run == .member then f g l t else t)
      (h := fun l t => if hasBit m.sel l then f g l t else t) (fun l => by
        cases hl : hasBit m.sel l with
        | false => simp only [Bool.false_and]
        | true => simp only [members_run hm hg hl, Bool.true_and, beq_self_eq_true])
    rw [e, selected]

/-- A terminal word that only moves threads. -/
theorem flow_completes {i : Instr} {w : WordInfo} {eff : Bundle → Pfx → State → State} {when_ : State → Bundle → Prop}
    {f : State → Bundle → Group → Lane → Thread → Thread}
    (hi : ∀ s, exec i s = issue w eff s) (hw : infoOf i = w) (hg : w.gather = false)
    (hu : ∀ s b, Issues s b w → when_ s b → eff b (prefixOf b) s = onGroups s b fun m => selected m (f s b)) :
    Completes i when_ fun s b => onGroups s b fun m => selected m (f s b) :=
  completes hi hw hg hu fun _ _ => rfl

end Sys2Proof
end

