-- ==== Sys2Proof/Laws/LaneWords.lean ====
section
/-! SUPPORT. What each fixed-latency and pip-tracked lane word does, by the shapes of Safety.lean: one lemma for each word, which a
proof cites instead of unfolding `exec`. -/

namespace Sys2Proof

open Machine Laws

theorem writes_iadd (e : Ext) (d : Fin 128) (a : LaneSrc) (b : Fin 128) :
    WritesBlock (.iadd e d a b) (opAB e d a b) addElem :=
  pureWord_writes (op := (opAB e d a b)) (rule := ruleSat) (n := 1) (f := addElem) (fun _ => rfl) rfl

theorem writes_isub (e : Ext) (d : Fin 128) (a : LaneSrc) (b : Fin 128) :
    WritesBlock (.isub e d a b) (opAB e d a b) subElem :=
  pureWord_writes (op := (opAB e d a b)) (rule := ruleSat) (n := 1) (f := subElem) (fun _ => rfl) rfl

theorem writes_imul (e : Ext) (d : Fin 128) (a : LaneSrc) (b : Fin 128) :
    WritesBlock (.imul e d a b) (opAB e d a b) mulElem :=
  pureWord_writes (op := (opAB e d a b)) (rule := ruleSat) (n := 2) (f := mulElem) (fun _ => rfl) rfl

theorem writes_imad (e : Ext) (d : Fin 128) (a : LaneSrc) (b : Fin 128) :
    WritesBlock (.imad e d a b) (opAB e d a b) madElem :=
  pureWord_writes (op := (opAB e d a b)) (rule := ruleSat4) (n := 2) (f := madElem) (fun _ => rfl) rfl

theorem writes_iaddi (e : Ext) (d : Fin 128) (a : LaneSrc) (m : BitVec 7) :
    WritesBlock (.iaddi e d a m) (opAI e d a (imm7 m)) addElem :=
  pureWord_writes (op := (opAI e d a (imm7 m))) (rule := ruleSat) (n := 1) (f := addElem) (fun _ => rfl) rfl

theorem writes_ishiShl (e : Ext) (d : Fin 128) (a : LaneSrc) (n : Fin 32) :
    WritesBlock (.ishiShl e d a n) (opA e d a) (fun x => x.a <<< n.val) :=
  pureWord_writes (op := (opA e d a)) (rule := rulePlain) (n := 1) (f := (fun x => x.a <<< n.val)) (fun _ => rfl) rfl

theorem writes_ishiShrN (e : Ext) (d : Fin 128) (a : LaneSrc) (n : Fin 32) :
    WritesBlock (.ishiShrN e d a n) (opA e d a) (fun x => x.a >>> n.val) :=
  pureWord_writes (op := (opA e d a)) (rule := rulePlain) (n := 1) (f := (fun x => x.a >>> n.val)) (fun _ => rfl) rfl

theorem writes_ishiShrZ (e : Ext) (d : Fin 128) (a : LaneSrc) (n : Fin 32) :
    WritesBlock (.ishiShrZ e d a n) (opA e d a) (fun x => x.a.sshiftRight n.val) :=
  pureWord_writes (op := (opA e d a)) (rule := rulePlain) (n := 1) (f := (fun x => x.a.sshiftRight n.val)) (fun _ => rfl) rfl

theorem writes_ishiRol (e : Ext) (d : Fin 128) (a : LaneSrc) (n : Fin 32) :
    WritesBlock (.ishiRol e d a n) (opA e d a) (fun x => rolWord x.a n.val) :=
  pureWord_writes (op := (opA e d a)) (rule := rulePlain) (n := 1) (f := (fun x => rolWord x.a n.val)) (fun _ => rfl) rfl

theorem writes_and (e : Ext) (d : Fin 128) (a : LaneSrc) (b : Fin 128) :
    WritesBlock (.and e d a b) (opAB e d a b) (fun x => x.a &&& x.b) :=
  pureWord_writes (op := (opAB e d a b)) (rule := rulePlain) (n := 1) (f := (fun x => x.a &&& x.b)) (fun _ => rfl) rfl

theorem writes_or (e : Ext) (d : Fin 128) (a : LaneSrc) (b : Fin 128) :
    WritesBlock (.or e d a b) (opAB e d a b) (fun x => x.a ||| x.b) :=
  pureWord_writes (op := (opAB e d a b)) (rule := rulePlain) (n := 1) (f := (fun x => x.a ||| x.b)) (fun _ => rfl) rfl

theorem writes_xor (e : Ext) (d : Fin 128) (a : LaneSrc) (b : Fin 128) :
    WritesBlock (.xor e d a b) (opAB e d a b) (fun x => x.a ^^^ x.b) :=
  pureWord_writes (op := (opAB e d a b)) (rule := rulePlain) (n := 1) (f := (fun x => x.a ^^^ x.b)) (fun _ => rfl) rfl

theorem writes_shl (e : Ext) (d : Fin 128) (a : LaneSrc) (b : Fin 128) :
    WritesBlock (.shl e d a b) (opAB e d a b) (fun x => shlWord x.a x.b) :=
  pureWord_writes (op := (opAB e d a b)) (rule := rulePlain) (n := 1) (f := (fun x => shlWord x.a x.b)) (fun _ => rfl) rfl

theorem writes_shrN (e : Ext) (d : Fin 128) (a : LaneSrc) (b : Fin 128) :
    WritesBlock (.shrN e d a b) (opAB e d a b) (fun x => shrNWord x.a x.b) :=
  pureWord_writes (op := (opAB e d a b)) (rule := rulePlain) (n := 1) (f := (fun x => shrNWord x.a x.b)) (fun _ => rfl) rfl

theorem writes_shrZ (e : Ext) (d : Fin 128) (a : LaneSrc) (b : Fin 128) :
    WritesBlock (.shrZ e d a b) (opAB e d a b) (fun x => shrZWord x.a x.b) :=
  pureWord_writes (op := (opAB e d a b)) (rule := rulePlain) (n := 1) (f := (fun x => shrZWord x.a x.b)) (fun _ => rfl) rfl

theorem writes_iminZ (e : Ext) (d : Fin 128) (a : LaneSrc) (b : Fin 128) :
    WritesBlock (.iminZ e d a b) (opAB e d a b) (fun x => if x.b.slt x.a then x.b else x.a) :=
  pureWord_writes (op := (opAB e d a b)) (rule := rulePlain) (n := 1) (f := (fun x => if x.b.slt x.a then x.b else x.a)) (fun _ => rfl) rfl

theorem writes_imaxZ (e : Ext) (d : Fin 128) (a : LaneSrc) (b : Fin 128) :
    WritesBlock (.imaxZ e d a b) (opAB e d a b) (fun x => if x.a.slt x.b then x.b else x.a) :=
  pureWord_writes (op := (opAB e d a b)) (rule := rulePlain) (n := 1) (f := (fun x => if x.a.slt x.b then x.b else x.a)) (fun _ => rfl) rfl

theorem writes_iminN (e : Ext) (d : Fin 128) (a : LaneSrc) (b : Fin 128) :
    WritesBlock (.iminN e d a b) (opAB e d a b) (fun x => if x.b.ult x.a then x.b else x.a) :=
  pureWord_writes (op := (opAB e d a b)) (rule := rulePlain) (n := 1) (f := (fun x => if x.b.ult x.a then x.b else x.a)) (fun _ => rfl) rfl

theorem writes_imaxN (e : Ext) (d : Fin 128) (a : LaneSrc) (b : Fin 128) :
    WritesBlock (.imaxN e d a b) (opAB e d a b) (fun x => if x.a.ult x.b then x.b else x.a) :=
  pureWord_writes (op := (opAB e d a b)) (rule := rulePlain) (n := 1) (f := (fun x => if x.a.ult x.b then x.b else x.a)) (fun _ => rfl) rfl

theorem writes_imulhZ (e : Ext) (d : Fin 128) (a : LaneSrc) (b : Fin 128) :
    WritesBlock (.imulhZ e d a b) (opAB e d a b) (fun x => highWord (x.a.toInt * x.b.toInt)) :=
  pureWord_writes (op := (opAB e d a b)) (rule := rulePlain) (n := 2) (f := (fun x => highWord (x.a.toInt * x.b.toInt))) (fun _ => rfl) rfl

theorem writes_imulhN (e : Ext) (d : Fin 128) (a : LaneSrc) (b : Fin 128) :
    WritesBlock (.imulhN e d a b) (opAB e d a b) (fun x => highWord ((x.a.toNat : Int) * x.b.toNat)) :=
  pureWord_writes (op := (opAB e d a b)) (rule := rulePlain) (n := 2) (f := (fun x => highWord ((x.a.toNat : Int) * x.b.toNat))) (fun _ => rfl) rfl

theorem writes_idivZ (e : Ext) (d : Fin 128) (a : LaneSrc) (b : Fin 128) :
    WritesBlock (.idivZ e d a b) (opAB e d a b) (fun x => if x.mod = 1 then (divZ x.a x.b).2 else (divZ x.a x.b).1) :=
  pureWord_writes (op := (opAB e d a b)) (rule := ruleMod1) (n := 8) (f := (fun x => if x.mod = 1 then (divZ x.a x.b).2 else (divZ x.a x.b).1)) (fun _ => rfl) rfl

theorem writes_idivN (e : Ext) (d : Fin 128) (a : LaneSrc) (b : Fin 128) :
    WritesBlock (.idivN e d a b) (opAB e d a b) (fun x => if x.mod = 1 then (divN x.a x.b).2 else (divN x.a x.b).1) :=
  pureWord_writes (op := (opAB e d a b)) (rule := ruleMod1) (n := 8) (f := (fun x => if x.mod = 1 then (divN x.a x.b).2 else (divN x.a x.b).1)) (fun _ => rfl) rfl

theorem writes_bfxN (e : Ext) (d : Fin 128) (a : LaneSrc) (b : Fin 128) :
    WritesBlock (.bfxN e d a b) (opAB e d a b) (fun x => bfxN x.a x.b) :=
  pureWord_writes (op := (opAB e d a b)) (rule := rulePlain) (n := 1) (f := (fun x => bfxN x.a x.b)) (fun _ => rfl) rfl

theorem writes_bfxZ (e : Ext) (d : Fin 128) (a : LaneSrc) (b : Fin 128) :
    WritesBlock (.bfxZ e d a b) (opAB e d a b) (fun x => bfxZ x.a x.b) :=
  pureWord_writes (op := (opAB e d a b)) (rule := rulePlain) (n := 1) (f := (fun x => bfxZ x.a x.b)) (fun _ => rfl) rfl

theorem writes_bfi (e : Ext) (d : Fin 128) (a : LaneSrc) (b : Fin 128) :
    WritesBlock (.bfi e d a b) (opAB e d a b) (fun x => bfiWord x.a x.b x.c) :=
  pureWord_writes (op := (opAB e d a b)) (rule := rulePlain4) (n := 1) (f := (fun x => bfiWord x.a x.b x.c)) (fun _ => rfl) rfl

theorem writes_iunMov (e : Ext) (d : Fin 128) (a : LaneSrc) :
    WritesBlock (.iunMov e d a) (opA e d a) (fun x => x.a) :=
  pureWord_writes (op := (opA e d a)) (rule := rulePlain) (n := 1) (f := (fun x => x.a)) (fun _ => rfl) rfl

theorem writes_iunNot (e : Ext) (d : Fin 128) (a : LaneSrc) :
    WritesBlock (.iunNot e d a) (opA e d a) (fun x => ~~~x.a) :=
  pureWord_writes (op := (opA e d a)) (rule := rulePlain) (n := 1) (f := (fun x => ~~~x.a)) (fun _ => rfl) rfl

theorem writes_iunNeg (e : Ext) (d : Fin 128) (a : LaneSrc) :
    WritesBlock (.iunNeg e d a) (opA e d a) (fun x => negWord x.mod x.a) :=
  pureWord_writes (op := (opA e d a)) (rule := ruleMod1) (n := 1) (f := (fun x => negWord x.mod x.a)) (fun _ => rfl) rfl

theorem writes_iunAbs (e : Ext) (d : Fin 128) (a : LaneSrc) :
    WritesBlock (.iunAbs e d a) (opA e d a) (fun x => absWord x.mod x.a) :=
  pureWord_writes (op := (opA e d a)) (rule := ruleMod1) (n := 1) (f := (fun x => absWord x.mod x.a)) (fun _ => rfl) rfl

theorem writes_iunPopc (e : Ext) (d : Fin 128) (a : LaneSrc) :
    WritesBlock (.iunPopc e d a) (opA e d a) (fun x => BitVec.ofNat 32 (popWord x.a)) :=
  pureWord_writes (op := (opA e d a)) (rule := rulePlain) (n := 1) (f := (fun x => BitVec.ofNat 32 (popWord x.a))) (fun _ => rfl) rfl

theorem writes_iunClz (e : Ext) (d : Fin 128) (a : LaneSrc) :
    WritesBlock (.iunClz e d a) (opA e d a) (fun x => BitVec.ofNat 32 (clzWord x.a)) :=
  pureWord_writes (op := (opA e d a)) (rule := rulePlain) (n := 1) (f := (fun x => BitVec.ofNat 32 (clzWord x.a))) (fun _ => rfl) rfl

theorem writes_iunCtz (e : Ext) (d : Fin 128) (a : LaneSrc) :
    WritesBlock (.iunCtz e d a) (opA e d a) (fun x => BitVec.ofNat 32 (ctzWord x.a)) :=
  pureWord_writes (op := (opA e d a)) (rule := rulePlain) (n := 1) (f := (fun x => BitVec.ofNat 32 (ctzWord x.a))) (fun _ => rfl) rfl

theorem writes_iunBrev (e : Ext) (d : Fin 128) (a : LaneSrc) :
    WritesBlock (.iunBrev e d a) (opA e d a) (fun x => brevWord x.a) :=
  pureWord_writes (op := (opA e d a)) (rule := rulePlain) (n := 1) (f := (fun x => brevWord x.a)) (fun _ => rfl) rfl

theorem writes_iunBswap (e : Ext) (d : Fin 128) (a : LaneSrc) :
    WritesBlock (.iunBswap e d a) (opA e d a) (fun x => bswapWord x.a) :=
  pureWord_writes (op := (opA e d a)) (rule := rulePlain) (n := 1) (f := (fun x => bswapWord x.a)) (fun _ => rfl) rfl

theorem writes_iunSext8 (e : Ext) (d : Fin 128) (a : LaneSrc) :
    WritesBlock (.iunSext8 e d a) (opA e d a) (fun x => (x.a.extractLsb' 0 8).signExtend 32) :=
  pureWord_writes (op := (opA e d a)) (rule := rulePlain) (n := 1) (f := (fun x => (x.a.extractLsb' 0 8).signExtend 32)) (fun _ => rfl) rfl

theorem writes_iunSext16 (e : Ext) (d : Fin 128) (a : LaneSrc) :
    WritesBlock (.iunSext16 e d a) (opA e d a) (fun x => (x.a.extractLsb' 0 16).signExtend 32) :=
  pureWord_writes (op := (opA e d a)) (rule := rulePlain) (n := 1) (f := (fun x => (x.a.extractLsb' 0 16).signExtend 32)) (fun _ => rfl) rfl

theorem writes_iunZext8 (e : Ext) (d : Fin 128) (a : LaneSrc) :
    WritesBlock (.iunZext8 e d a) (opA e d a) (fun x => (x.a.extractLsb' 0 8).zeroExtend 32) :=
  pureWord_writes (op := (opA e d a)) (rule := rulePlain) (n := 1) (f := (fun x => (x.a.extractLsb' 0 8).zeroExtend 32)) (fun _ => rfl) rfl

theorem writes_iunZext16 (e : Ext) (d : Fin 128) (a : LaneSrc) :
    WritesBlock (.iunZext16 e d a) (opA e d a) (fun x => (x.a.extractLsb' 0 16).zeroExtend 32) :=
  pureWord_writes (op := (opA e d a)) (rule := rulePlain) (n := 1) (f := (fun x => (x.a.extractLsb' 0 16).zeroExtend 32)) (fun _ => rfl) rfl

theorem writes_iunFneg (e : Ext) (d : Fin 128) (a : LaneSrc) :
    WritesBlock (.iunFneg e d a) (opA e d a) (fun x => x.a ^^^ 0x80000000#32) :=
  pureWord_writes (op := (opA e d a)) (rule := rulePlain) (n := 1) (f := (fun x => x.a ^^^ 0x80000000#32)) (fun _ => rfl) rfl

theorem writes_iunFabs (e : Ext) (d : Fin 128) (a : LaneSrc) :
    WritesBlock (.iunFabs e d a) (opA e d a) (fun x => x.a &&& 0x7FFFFFFF#32) :=
  pureWord_writes (op := (opA e d a)) (rule := rulePlain) (n := 1) (f := (fun x => x.a &&& 0x7FFFFFFF#32)) (fun _ => rfl) rfl

theorem writes_fadd (e : Ext) (d : Fin 128) (a : LaneSrc) (b : Fin 128) :
    WritesBlock (.fadd e d a b) (opAB e d a b) (fun x => f32Result x (ieeeAdd x.mode (f32Val x.a) (f32Val x.b))) :=
  pureWord_writes (op := (opAB e d a b)) (rule := ruleRnd1) (n := 1) (f := (fun x => f32Result x (ieeeAdd x.mode (f32Val x.a) (f32Val x.b)))) (fun _ => rfl) rfl

theorem writes_fsub (e : Ext) (d : Fin 128) (a : LaneSrc) (b : Fin 128) :
    WritesBlock (.fsub e d a b) (opAB e d a b) (fun x => f32Result x (ieeeAdd x.mode (f32Val x.a) (f32Val x.b).neg)) :=
  pureWord_writes (op := (opAB e d a b)) (rule := ruleRnd1) (n := 1) (f := (fun x => f32Result x (ieeeAdd x.mode (f32Val x.a) (f32Val x.b).neg))) (fun _ => rfl) rfl

theorem writes_fmul (e : Ext) (d : Fin 128) (a : LaneSrc) (b : Fin 128) :
    WritesBlock (.fmul e d a b) (opAB e d a b) (fun x => f32Result x ((f32Val x.a).mul (f32Val x.b)).exact) :=
  pureWord_writes (op := (opAB e d a b)) (rule := ruleRnd1) (n := 1) (f := (fun x => f32Result x ((f32Val x.a).mul (f32Val x.b)).exact)) (fun _ => rfl) rfl

theorem writes_ffma (e : Ext) (d : Fin 128) (a : LaneSrc) (b : Fin 128) :
    WritesBlock (.ffma e d a b) (opAB e d a b) (fun x => f32Result x (ieeeAdd x.mode ((f32Val x.a).mul (f32Val x.b)) (f32Val x.c))) :=
  pureWord_writes (op := (opAB e d a b)) (rule := ruleRnd1F) (n := 1) (f := (fun x => f32Result x (ieeeAdd x.mode ((f32Val x.a).mul (f32Val x.b)) (f32Val x.c)))) (fun _ => rfl) rfl

theorem writes_fdiv (e : Ext) (d : Fin 128) (a : LaneSrc) (b : Fin 128) :
    WritesBlock (.fdiv e d a b) (opAB e d a b) (fun x => f32Result x (ieeeDiv (f32Val x.a) (f32Val x.b))) :=
  pureWord_writes (op := (opAB e d a b)) (rule := ruleRnd1) (n := 4) (f := (fun x => f32Result x (ieeeDiv (f32Val x.a) (f32Val x.b)))) (fun _ => rfl) rfl

theorem writes_fmin (e : Ext) (d : Fin 128) (a : LaneSrc) (b : Fin 128) :
    WritesBlock (.fmin e d a b) (opAB e d a b) (fun x => fminWord x.a x.b) :=
  pureWord_writes (op := (opAB e d a b)) (rule := rulePlain) (n := 1) (f := (fun x => fminWord x.a x.b)) (fun _ => rfl) rfl

theorem writes_fmax (e : Ext) (d : Fin 128) (a : LaneSrc) (b : Fin 128) :
    WritesBlock (.fmax e d a b) (opAB e d a b) (fun x => fmaxWord x.a x.b) :=
  pureWord_writes (op := (opAB e d a b)) (rule := rulePlain) (n := 1) (f := (fun x => fmaxWord x.a x.b)) (fun _ => rfl) rfl

theorem writes_hadd2 (e : Ext) (d : Fin 128) (a : LaneSrc) (b : Fin 128) :
    WritesBlock (.hadd2 e d a b) (opAB e d a b) (fun x => packed2 (halfFmt x.mod) x fun p q _ => ieeeAdd x.mode p q) :=
  pureWord_writes (op := (opAB e d a b)) (rule := ruleRnd1) (n := 1) (f := (fun x => packed2 (halfFmt x.mod) x fun p q _ => ieeeAdd x.mode p q)) (fun _ => rfl) rfl

theorem writes_hmul2 (e : Ext) (d : Fin 128) (a : LaneSrc) (b : Fin 128) :
    WritesBlock (.hmul2 e d a b) (opAB e d a b) (fun x => packed2 (halfFmt x.mod) x fun p q _ => (p.mul q).exact) :=
  pureWord_writes (op := (opAB e d a b)) (rule := ruleRnd1) (n := 1) (f := (fun x => packed2 (halfFmt x.mod) x fun p q _ => (p.mul q).exact)) (fun _ => rfl) rfl

theorem writes_hfma2 (e : Ext) (d : Fin 128) (a : LaneSrc) (b : Fin 128) :
    WritesBlock (.hfma2 e d a b) (opAB e d a b) (fun x => packed2 .f16 x fun p q r => ieeeAdd x.mode (p.mul q) r) :=
  pureWord_writes (op := (opAB e d a b)) (rule := ruleRndF) (n := 1) (f := (fun x => packed2 .f16 x fun p q r => ieeeAdd x.mode (p.mul q) r)) (fun _ => rfl) rfl

theorem writes_bfma2 (e : Ext) (d : Fin 128) (a : LaneSrc) (b : Fin 128) :
    WritesBlock (.bfma2 e d a b) (opAB e d a b) (fun x => packed2 .bf16 x fun p q r => ieeeAdd x.mode (p.mul q) r) :=
  pureWord_writes (op := (opAB e d a b)) (rule := ruleRndF) (n := 1) (f := (fun x => packed2 .bf16 x fun p q r => ieeeAdd x.mode (p.mul q) r)) (fun _ => rfl) rfl

theorem writes_ladd (e : Ext) (d : Fin 128) (a : LaneSrc) (b : Fin 128) :
    WritesBlock (.ladd e d a b) (opAB e d a b) (fun x => ((fun x => logElems x LogFmt.add) x).1) (fun x => ((fun x => logElems x LogFmt.add) x).2) :=
  aluWord_writes (op := (opAB e d a b)) (rule := ruleRnd1) (n := 2) (f := (fun x => logElems x LogFmt.add)) (fun _ => rfl) rfl

theorem writes_lmul (e : Ext) (d : Fin 128) (a : LaneSrc) (b : Fin 128) :
    WritesBlock (.lmul e d a b) (opAB e d a b) (fun x => ((fun x => logElems x LogFmt.mul) x).1) (fun x => ((fun x => logElems x LogFmt.mul) x).2) :=
  aluWord_writes (op := (opAB e d a b)) (rule := ruleRnd1) (n := 1) (f := (fun x => logElems x LogFmt.mul)) (fun _ => rfl) rfl

theorem attaches_funRcp (e : Ext) (d : Fin 128) (a : LaneSrc) :
    AttachesPip (.funRcp e d a) (opA e d a) 32 (fun x => (0, (funRcp (f32Val x.a)).round .f32 x.mode (x.u 1 0))) :=
  sfuWord_attaches (op := (opA e d a)) (rule := ruleRnd) (width := 32) (f := (fun x => (0, (funRcp (f32Val x.a)).round .f32 x.mode (x.u 1 0)))) (fun _ => rfl) rfl

theorem attaches_funRsqrt (e : Ext) (d : Fin 128) (a : LaneSrc) :
    AttachesPip (.funRsqrt e d a) (opA e d a) 32 (fun x => (0, (funRsqrt (f32Val x.a)).round .f32 x.mode (x.u 1 0))) :=
  sfuWord_attaches (op := (opA e d a)) (rule := ruleRnd) (width := 32) (f := (fun x => (0, (funRsqrt (f32Val x.a)).round .f32 x.mode (x.u 1 0)))) (fun _ => rfl) rfl

theorem attaches_funSqrt (e : Ext) (d : Fin 128) (a : LaneSrc) :
    AttachesPip (.funSqrt e d a) (opA e d a) 32 (fun x => (0, (funSqrt (f32Val x.a)).round .f32 x.mode (x.u 1 0))) :=
  sfuWord_attaches (op := (opA e d a)) (rule := ruleRnd) (width := 32) (f := (fun x => (0, (funSqrt (f32Val x.a)).round .f32 x.mode (x.u 1 0)))) (fun _ => rfl) rfl

theorem attaches_funExp2 (e : Ext) (d : Fin 128) (a : LaneSrc) :
    AttachesPip (.funExp2 e d a) (opA e d a) 32 (fun x => (0, (funExp2 (f32Val x.a)).round .f32 x.mode (x.u 1 0))) :=
  sfuWord_attaches (op := (opA e d a)) (rule := ruleRnd) (width := 32) (f := (fun x => (0, (funExp2 (f32Val x.a)).round .f32 x.mode (x.u 1 0)))) (fun _ => rfl) rfl

theorem attaches_funLog2 (e : Ext) (d : Fin 128) (a : LaneSrc) :
    AttachesPip (.funLog2 e d a) (opA e d a) 32 (fun x => (0, (funLog2 (f32Val x.a)).round .f32 x.mode (x.u 1 0))) :=
  sfuWord_attaches (op := (opA e d a)) (rule := ruleRnd) (width := 32) (f := (fun x => (0, (funLog2 (f32Val x.a)).round .f32 x.mode (x.u 1 0)))) (fun _ => rfl) rfl

theorem attaches_funSinpi (e : Ext) (d : Fin 128) (a : LaneSrc) :
    AttachesPip (.funSinpi e d a) (opA e d a) 32 (fun x => (0, (funSinpi (f32Val x.a)).round .f32 x.mode (x.u 1 0))) :=
  sfuWord_attaches (op := (opA e d a)) (rule := ruleRnd) (width := 32) (f := (fun x => (0, (funSinpi (f32Val x.a)).round .f32 x.mode (x.u 1 0)))) (fun _ => rfl) rfl

theorem attaches_funCospi (e : Ext) (d : Fin 128) (a : LaneSrc) :
    AttachesPip (.funCospi e d a) (opA e d a) 32 (fun x => (0, (funCospi (f32Val x.a)).round .f32 x.mode (x.u 1 0))) :=
  sfuWord_attaches (op := (opA e d a)) (rule := ruleRnd) (width := 32) (f := (fun x => (0, (funCospi (f32Val x.a)).round .f32 x.mode (x.u 1 0)))) (fun _ => rfl) rfl

theorem attaches_funTanh (e : Ext) (d : Fin 128) (a : LaneSrc) :
    AttachesPip (.funTanh e d a) (opA e d a) 32 (fun x => (0, (funTanh (f32Val x.a)).round .f32 x.mode (x.u 1 0))) :=
  sfuWord_attaches (op := (opA e d a)) (rule := ruleRnd) (width := 32) (f := (fun x => (0, (funTanh (f32Val x.a)).round .f32 x.mode (x.u 1 0)))) (fun _ => rfl) rfl

theorem attaches_funLogistic (e : Ext) (d : Fin 128) (a : LaneSrc) :
    AttachesPip (.funLogistic e d a) (opA e d a) 32 (fun x => (0, (funLogistic (f32Val x.a)).round .f32 x.mode (x.u 1 0))) :=
  sfuWord_attaches (op := (opA e d a)) (rule := ruleRnd) (width := 32) (f := (fun x => (0, (funLogistic (f32Val x.a)).round .f32 x.mode (x.u 1 0)))) (fun _ => rfl) rfl

theorem writes_cvtZ8Tn5lo (e : Ext) (d : Fin 128) (a : LaneSrc) :
    WritesBlock (.cvtZ8Tn5lo e d a) (opA e d a) (fun x => ((fun x => let t := tn5Of x; (packWord 8 ((t.1.take 4).map tritByte), t.2)) x).1) (fun x => ((fun x => let t := tn5Of x; (packWord 8 ((t.1.take 4).map tritByte), t.2)) x).2) :=
  aluWord_writes (op := (opA e d a)) (rule := ruleTn5) (n := 1) (f := (fun x => let t := tn5Of x; (packWord 8 ((t.1.take 4).map tritByte), t.2))) (fun _ => rfl) rfl

theorem writes_cvtZ8Tn5hi (e : Ext) (d : Fin 128) (a : LaneSrc) :
    WritesBlock (.cvtZ8Tn5hi e d a) (opA e d a) (fun x => ((fun x => let t := tn5Of x; (packWord 8 ((t.1.drop 4).map tritByte), t.2)) x).1) (fun x => ((fun x => let t := tn5Of x; (packWord 8 ((t.1.drop 4).map tritByte), t.2)) x).2) :=
  aluWord_writes (op := (opA e d a)) (rule := ruleTn5) (n := 1) (f := (fun x => let t := tn5Of x; (packWord 8 ((t.1.drop 4).map tritByte), t.2))) (fun _ => rfl) rfl

theorem writes_cvtTn5Z8 (e : Ext) (d : Fin 128) (a : LaneSrc) :
    WritesBlock (.cvtTn5Z8 e d a) (opA e d a) (fun x => (tn5Result x).1) (fun x => (tn5Result x).2) :=
  aluWord_writes (op := (opA e d a)) (rule := ruleTn5F) (n := 1) (f := tn5Result) (fun _ => rfl) rfl

theorem writes_cvtF16F32 (e : Ext) (d : Fin 128) (a : LaneSrc) :
    WritesBlock (.cvtF16F32 e d a) (opA e d a) (fun x => ((cvtResult (.float .f32) (.float .f16)) x).1) (fun x => ((cvtResult (.float .f32) (.float .f16)) x).2) :=
  aluWord_writes (op := (opA e d a)) (rule := ruleCvt (cvtPacked (.float .f32) (.float .f16)) true) (n := 1) (f := (cvtResult (.float .f32) (.float .f16))) (fun _ => rfl) rfl

theorem writes_cvtBf16F32 (e : Ext) (d : Fin 128) (a : LaneSrc) :
    WritesBlock (.cvtBf16F32 e d a) (opA e d a) (fun x => ((cvtResult (.float .f32) (.float .bf16)) x).1) (fun x => ((cvtResult (.float .f32) (.float .bf16)) x).2) :=
  aluWord_writes (op := (opA e d a)) (rule := ruleCvt (cvtPacked (.float .f32) (.float .bf16)) true) (n := 1) (f := (cvtResult (.float .f32) (.float .bf16))) (fun _ => rfl) rfl

theorem writes_cvtF32F16 (e : Ext) (d : Fin 128) (a : LaneSrc) :
    WritesBlock (.cvtF32F16 e d a) (opA e d a) (fun x => ((cvtResult (.float .f16) (.float .f32)) x).1) (fun x => ((cvtResult (.float .f16) (.float .f32)) x).2) :=
  aluWord_writes (op := (opA e d a)) (rule := ruleCvt (cvtPacked (.float .f16) (.float .f32)) false) (n := 1) (f := (cvtResult (.float .f16) (.float .f32))) (fun _ => rfl) rfl

theorem writes_cvtF32Bf16 (e : Ext) (d : Fin 128) (a : LaneSrc) :
    WritesBlock (.cvtF32Bf16 e d a) (opA e d a) (fun x => ((cvtResult (.float .bf16) (.float .f32)) x).1) (fun x => ((cvtResult (.float .bf16) (.float .f32)) x).2) :=
  aluWord_writes (op := (opA e d a)) (rule := ruleCvt (cvtPacked (.float .bf16) (.float .f32)) false) (n := 1) (f := (cvtResult (.float .bf16) (.float .f32))) (fun _ => rfl) rfl

theorem writes_cvtE4m3F32 (e : Ext) (d : Fin 128) (a : LaneSrc) :
    WritesBlock (.cvtE4m3F32 e d a) (opA e d a) (fun x => ((cvtResult (.float .f32) (.float .e4m3)) x).1) (fun x => ((cvtResult (.float .f32) (.float .e4m3)) x).2) :=
  aluWord_writes (op := (opA e d a)) (rule := ruleCvt (cvtPacked (.float .f32) (.float .e4m3)) true) (n := 1) (f := (cvtResult (.float .f32) (.float .e4m3))) (fun _ => rfl) rfl

theorem writes_cvtE5m2F32 (e : Ext) (d : Fin 128) (a : LaneSrc) :
    WritesBlock (.cvtE5m2F32 e d a) (opA e d a) (fun x => ((cvtResult (.float .f32) (.float .e5m2)) x).1) (fun x => ((cvtResult (.float .f32) (.float .e5m2)) x).2) :=
  aluWord_writes (op := (opA e d a)) (rule := ruleCvt (cvtPacked (.float .f32) (.float .e5m2)) true) (n := 1) (f := (cvtResult (.float .f32) (.float .e5m2))) (fun _ => rfl) rfl

theorem writes_cvtF32E4m3 (e : Ext) (d : Fin 128) (a : LaneSrc) :
    WritesBlock (.cvtF32E4m3 e d a) (opA e d a) (fun x => ((cvtResult (.float .e4m3) (.float .f32)) x).1) (fun x => ((cvtResult (.float .e4m3) (.float .f32)) x).2) :=
  aluWord_writes (op := (opA e d a)) (rule := ruleCvt (cvtPacked (.float .e4m3) (.float .f32)) false) (n := 1) (f := (cvtResult (.float .e4m3) (.float .f32))) (fun _ => rfl) rfl

theorem writes_cvtF32E5m2 (e : Ext) (d : Fin 128) (a : LaneSrc) :
    WritesBlock (.cvtF32E5m2 e d a) (opA e d a) (fun x => ((cvtResult (.float .e5m2) (.float .f32)) x).1) (fun x => ((cvtResult (.float .e5m2) (.float .f32)) x).2) :=
  aluWord_writes (op := (opA e d a)) (rule := ruleCvt (cvtPacked (.float .e5m2) (.float .f32)) false) (n := 1) (f := (cvtResult (.float .e5m2) (.float .f32))) (fun _ => rfl) rfl

theorem writes_cvtZ32F32 (e : Ext) (d : Fin 128) (a : LaneSrc) :
    WritesBlock (.cvtZ32F32 e d a) (opA e d a) (fun x => ((cvtResult (.float .f32) (.int ⟨32, true⟩)) x).1) (fun x => ((cvtResult (.float .f32) (.int ⟨32, true⟩)) x).2) :=
  aluWord_writes (op := (opA e d a)) (rule := ruleCvt (cvtPacked (.float .f32) (.int ⟨32, true⟩)) true) (n := 1) (f := (cvtResult (.float .f32) (.int ⟨32, true⟩))) (fun _ => rfl) rfl

theorem writes_cvtN32F32 (e : Ext) (d : Fin 128) (a : LaneSrc) :
    WritesBlock (.cvtN32F32 e d a) (opA e d a) (fun x => ((cvtResult (.float .f32) (.int ⟨32, false⟩)) x).1) (fun x => ((cvtResult (.float .f32) (.int ⟨32, false⟩)) x).2) :=
  aluWord_writes (op := (opA e d a)) (rule := ruleCvt (cvtPacked (.float .f32) (.int ⟨32, false⟩)) true) (n := 1) (f := (cvtResult (.float .f32) (.int ⟨32, false⟩))) (fun _ => rfl) rfl

theorem writes_cvtF32Z32 (e : Ext) (d : Fin 128) (a : LaneSrc) :
    WritesBlock (.cvtF32Z32 e d a) (opA e d a) (fun x => ((cvtResult (.int ⟨32, true⟩) (.float .f32)) x).1) (fun x => ((cvtResult (.int ⟨32, true⟩) (.float .f32)) x).2) :=
  aluWord_writes (op := (opA e d a)) (rule := ruleCvt (cvtPacked (.int ⟨32, true⟩) (.float .f32)) true) (n := 1) (f := (cvtResult (.int ⟨32, true⟩) (.float .f32))) (fun _ => rfl) rfl

theorem writes_cvtF32N32 (e : Ext) (d : Fin 128) (a : LaneSrc) :
    WritesBlock (.cvtF32N32 e d a) (opA e d a) (fun x => ((cvtResult (.int ⟨32, false⟩) (.float .f32)) x).1) (fun x => ((cvtResult (.int ⟨32, false⟩) (.float .f32)) x).2) :=
  aluWord_writes (op := (opA e d a)) (rule := ruleCvt (cvtPacked (.int ⟨32, false⟩) (.float .f32)) true) (n := 1) (f := (cvtResult (.int ⟨32, false⟩) (.float .f32))) (fun _ => rfl) rfl

theorem writes_cvtZ16F32 (e : Ext) (d : Fin 128) (a : LaneSrc) :
    WritesBlock (.cvtZ16F32 e d a) (opA e d a) (fun x => ((cvtResult (.float .f32) (.int ⟨16, true⟩)) x).1) (fun x => ((cvtResult (.float .f32) (.int ⟨16, true⟩)) x).2) :=
  aluWord_writes (op := (opA e d a)) (rule := ruleCvt (cvtPacked (.float .f32) (.int ⟨16, true⟩)) true) (n := 1) (f := (cvtResult (.float .f32) (.int ⟨16, true⟩))) (fun _ => rfl) rfl

theorem writes_cvtN16F32 (e : Ext) (d : Fin 128) (a : LaneSrc) :
    WritesBlock (.cvtN16F32 e d a) (opA e d a) (fun x => ((cvtResult (.float .f32) (.int ⟨16, false⟩)) x).1) (fun x => ((cvtResult (.float .f32) (.int ⟨16, false⟩)) x).2) :=
  aluWord_writes (op := (opA e d a)) (rule := ruleCvt (cvtPacked (.float .f32) (.int ⟨16, false⟩)) true) (n := 1) (f := (cvtResult (.float .f32) (.int ⟨16, false⟩))) (fun _ => rfl) rfl

theorem writes_cvtZ8F32 (e : Ext) (d : Fin 128) (a : LaneSrc) :
    WritesBlock (.cvtZ8F32 e d a) (opA e d a) (fun x => ((cvtResult (.float .f32) (.int ⟨8, true⟩)) x).1) (fun x => ((cvtResult (.float .f32) (.int ⟨8, true⟩)) x).2) :=
  aluWord_writes (op := (opA e d a)) (rule := ruleCvt (cvtPacked (.float .f32) (.int ⟨8, true⟩)) true) (n := 1) (f := (cvtResult (.float .f32) (.int ⟨8, true⟩))) (fun _ => rfl) rfl

theorem writes_cvtN8F32 (e : Ext) (d : Fin 128) (a : LaneSrc) :
    WritesBlock (.cvtN8F32 e d a) (opA e d a) (fun x => ((cvtResult (.float .f32) (.int ⟨8, false⟩)) x).1) (fun x => ((cvtResult (.float .f32) (.int ⟨8, false⟩)) x).2) :=
  aluWord_writes (op := (opA e d a)) (rule := ruleCvt (cvtPacked (.float .f32) (.int ⟨8, false⟩)) true) (n := 1) (f := (cvtResult (.float .f32) (.int ⟨8, false⟩))) (fun _ => rfl) rfl

theorem writes_cvtF32Z8 (e : Ext) (d : Fin 128) (a : LaneSrc) :
    WritesBlock (.cvtF32Z8 e d a) (opA e d a) (fun x => ((cvtResult (.int ⟨8, true⟩) (.float .f32)) x).1) (fun x => ((cvtResult (.int ⟨8, true⟩) (.float .f32)) x).2) :=
  aluWord_writes (op := (opA e d a)) (rule := ruleCvt (cvtPacked (.int ⟨8, true⟩) (.float .f32)) false) (n := 1) (f := (cvtResult (.int ⟨8, true⟩) (.float .f32))) (fun _ => rfl) rfl

theorem writes_cvtF32N8 (e : Ext) (d : Fin 128) (a : LaneSrc) :
    WritesBlock (.cvtF32N8 e d a) (opA e d a) (fun x => ((cvtResult (.int ⟨8, false⟩) (.float .f32)) x).1) (fun x => ((cvtResult (.int ⟨8, false⟩) (.float .f32)) x).2) :=
  aluWord_writes (op := (opA e d a)) (rule := ruleCvt (cvtPacked (.int ⟨8, false⟩) (.float .f32)) false) (n := 1) (f := (cvtResult (.int ⟨8, false⟩) (.float .f32))) (fun _ => rfl) rfl

theorem writes_cvtF32Z16 (e : Ext) (d : Fin 128) (a : LaneSrc) :
    WritesBlock (.cvtF32Z16 e d a) (opA e d a) (fun x => ((cvtResult (.int ⟨16, true⟩) (.float .f32)) x).1) (fun x => ((cvtResult (.int ⟨16, true⟩) (.float .f32)) x).2) :=
  aluWord_writes (op := (opA e d a)) (rule := ruleCvt (cvtPacked (.int ⟨16, true⟩) (.float .f32)) false) (n := 1) (f := (cvtResult (.int ⟨16, true⟩) (.float .f32))) (fun _ => rfl) rfl

theorem writes_cvtF32N16 (e : Ext) (d : Fin 128) (a : LaneSrc) :
    WritesBlock (.cvtF32N16 e d a) (opA e d a) (fun x => ((cvtResult (.int ⟨16, false⟩) (.float .f32)) x).1) (fun x => ((cvtResult (.int ⟨16, false⟩) (.float .f32)) x).2) :=
  aluWord_writes (op := (opA e d a)) (rule := ruleCvt (cvtPacked (.int ⟨16, false⟩) (.float .f32)) false) (n := 1) (f := (cvtResult (.int ⟨16, false⟩) (.float .f32))) (fun _ => rfl) rfl

theorem writes_cvtZ16Z32 (e : Ext) (d : Fin 128) (a : LaneSrc) :
    WritesBlock (.cvtZ16Z32 e d a) (opA e d a) (fun x => ((cvtResult (.int ⟨32, true⟩) (.int ⟨16, true⟩)) x).1) (fun x => ((cvtResult (.int ⟨32, true⟩) (.int ⟨16, true⟩)) x).2) :=
  aluWord_writes (op := (opA e d a)) (rule := ruleCvt (cvtPacked (.int ⟨32, true⟩) (.int ⟨16, true⟩)) false) (n := 1) (f := (cvtResult (.int ⟨32, true⟩) (.int ⟨16, true⟩))) (fun _ => rfl) rfl

theorem writes_cvtN16Z32 (e : Ext) (d : Fin 128) (a : LaneSrc) :
    WritesBlock (.cvtN16Z32 e d a) (opA e d a) (fun x => ((cvtResult (.int ⟨32, true⟩) (.int ⟨16, false⟩)) x).1) (fun x => ((cvtResult (.int ⟨32, true⟩) (.int ⟨16, false⟩)) x).2) :=
  aluWord_writes (op := (opA e d a)) (rule := ruleCvt (cvtPacked (.int ⟨32, true⟩) (.int ⟨16, false⟩)) false) (n := 1) (f := (cvtResult (.int ⟨32, true⟩) (.int ⟨16, false⟩))) (fun _ => rfl) rfl

theorem writes_cvtZ8Z32 (e : Ext) (d : Fin 128) (a : LaneSrc) :
    WritesBlock (.cvtZ8Z32 e d a) (opA e d a) (fun x => ((cvtResult (.int ⟨32, true⟩) (.int ⟨8, true⟩)) x).1) (fun x => ((cvtResult (.int ⟨32, true⟩) (.int ⟨8, true⟩)) x).2) :=
  aluWord_writes (op := (opA e d a)) (rule := ruleCvt (cvtPacked (.int ⟨32, true⟩) (.int ⟨8, true⟩)) false) (n := 1) (f := (cvtResult (.int ⟨32, true⟩) (.int ⟨8, true⟩))) (fun _ => rfl) rfl

theorem writes_cvtN8Z32 (e : Ext) (d : Fin 128) (a : LaneSrc) :
    WritesBlock (.cvtN8Z32 e d a) (opA e d a) (fun x => ((cvtResult (.int ⟨32, true⟩) (.int ⟨8, false⟩)) x).1) (fun x => ((cvtResult (.int ⟨32, true⟩) (.int ⟨8, false⟩)) x).2) :=
  aluWord_writes (op := (opA e d a)) (rule := ruleCvt (cvtPacked (.int ⟨32, true⟩) (.int ⟨8, false⟩)) false) (n := 1) (f := (cvtResult (.int ⟨32, true⟩) (.int ⟨8, false⟩))) (fun _ => rfl) rfl

theorem attaches_cvtL16F32 (e : Ext) (d : Fin 128) (a : LaneSrc) :
    AttachesPip (.cvtL16F32 e d a) (opA e d a) (Scalar.bits (.log .l16)) (cvtSfuResult (.float .f32) (.log .l16)) :=
  sfuWord_attaches (op := (opA e d a)) (rule := ruleCvt (cvtPacked (.float .f32) (.log .l16)) true) (width := Scalar.bits (.log .l16)) (f := (cvtSfuResult (.float .f32) (.log .l16))) (fun _ => rfl) rfl

theorem attaches_cvtF32L16 (e : Ext) (d : Fin 128) (a : LaneSrc) :
    AttachesPip (.cvtF32L16 e d a) (opA e d a) (Scalar.bits (.float .f32)) (cvtSfuResult (.log .l16) (.float .f32)) :=
  sfuWord_attaches (op := (opA e d a)) (rule := ruleCvt (cvtPacked (.log .l16) (.float .f32)) true) (width := Scalar.bits (.float .f32)) (f := (cvtSfuResult (.log .l16) (.float .f32))) (fun _ => rfl) rfl

theorem attaches_cvtL8F32 (e : Ext) (d : Fin 128) (a : LaneSrc) :
    AttachesPip (.cvtL8F32 e d a) (opA e d a) (Scalar.bits (.log .l8)) (cvtSfuResult (.float .f32) (.log .l8)) :=
  sfuWord_attaches (op := (opA e d a)) (rule := ruleCvt (cvtPacked (.float .f32) (.log .l8)) true) (width := Scalar.bits (.log .l8)) (f := (cvtSfuResult (.float .f32) (.log .l8))) (fun _ => rfl) rfl

theorem attaches_cvtF32L8 (e : Ext) (d : Fin 128) (a : LaneSrc) :
    AttachesPip (.cvtF32L8 e d a) (opA e d a) (Scalar.bits (.float .f32)) (cvtSfuResult (.log .l8) (.float .f32)) :=
  sfuWord_attaches (op := (opA e d a)) (rule := ruleCvt (cvtPacked (.log .l8) (.float .f32)) true) (width := Scalar.bits (.float .f32)) (f := (cvtSfuResult (.log .l8) (.float .f32))) (fun _ => rfl) rfl

end Sys2Proof
end

