-- ==== Sys2Proof/Laws/Memory.lean ====
section
/-! SUPPORT. Cell lists: a read after a write, and every operation over memory keeps the canonical form. -/

namespace Sys2Proof

open Machine

/-- A canonical list from an address is canonical from every lower one. -/
theorem cellsFrom_mono {m : List Host.Cell} {lo hi : Nat} (h : lo ≤ hi) (w : cellsFrom hi m = true) : cellsFrom lo m = true := by
  cases m with
  | nil => rfl
  | cons c rest =>
    simp only [cellsFrom, Bool.and_eq_true, decide_eq_true_eq] at w ⊢
    exact ⟨⟨Nat.le_trans h w.1.1, w.1.2⟩, w.2⟩

/-- An address below a canonical list reads as zero. -/
theorem getCell_below {m : List Host.Cell} : ∀ {lo x : Nat}, x < lo → cellsFrom lo m = true → getCell m x = 0 := by
  induction m with
  | nil => intros; rfl
  | cons c rest ih =>
    intro lo x h w
    simp only [cellsFrom, Bool.and_eq_true, decide_eq_true_eq] at w
    rw [getCell, if_neg (by omega)]
    exact ih (by omega) w.2

/-- A byte that is not 0. -/
theorem byte_ne {v : Byte} (h : ¬v = 0) : (v != 0) = true := bne_iff_ne.mpr h

/-- A write keeps the canonical form. -/
theorem setCell_wf {m : List Host.Cell} {x : Nat} {v : Byte} : ∀ {lo : Nat}, lo ≤ x → cellsFrom lo m = true → cellsFrom lo (setCell m x v) = true := by
  induction m with
  | nil =>
    intro lo h _
    rw [setCell]
    split
    · rfl
    · next hv =>
      simp only [cellsFrom, Bool.and_eq_true, decide_eq_true_eq]
      exact ⟨⟨h, byte_ne hv⟩, trivial⟩
  | cons c rest ih =>
    intro lo h w
    obtain ⟨a, b⟩ := c
    have w' := w
    simp only [cellsFrom, Bool.and_eq_true, decide_eq_true_eq] at w'
    rw [setCell]
    split
    · next hx =>
      split
      · exact w
      · next hv =>
        simp only [cellsFrom, Bool.and_eq_true, decide_eq_true_eq]
        exact ⟨⟨h, byte_ne hv⟩, ⟨Nat.succ_le_of_lt hx, w'.1.2⟩, w'.2⟩
    · split
      · next hx =>
        subst hx
        split
        · exact cellsFrom_mono (by omega) w'.2
        · next hv =>
          simp only [cellsFrom, Bool.and_eq_true, decide_eq_true_eq]
          exact ⟨⟨h, byte_ne hv⟩, w'.2⟩
      · simp only [cellsFrom, Bool.and_eq_true, decide_eq_true_eq]
        exact ⟨w'.1, ih (by omega) w'.2⟩

/-- A read after a write: the byte written at its address, and at every other what was there before. -/
theorem getCell_setCell {m : List Host.Cell} {x y : Nat} {v : Byte} : ∀ {lo : Nat}, cellsFrom lo m = true →
    getCell (setCell m x v) y = if y = x then v else getCell m y := by
  induction m with
  | nil =>
    intro lo _
    rw [setCell]
    split
    · next hv => rw [hv, getCell, ite_self]
    · simp only [getCell, eq_comm]
  | cons c rest ih =>
    intro lo w
    obtain ⟨a, b⟩ := c
    have w' := w
    simp only [cellsFrom, Bool.and_eq_true, decide_eq_true_eq] at w'
    rw [setCell]
    split
    · next hx =>
      split
      · next hv =>
        split
        · next hy => rw [hy, hv]; exact getCell_below (lo := a) (by omega) (cellsFrom_mono (Nat.le_refl a) (by simp only [cellsFrom, Bool.and_eq_true, decide_eq_true_eq]; exact ⟨⟨Nat.le_refl a, w'.1.2⟩, w'.2⟩))
        · rfl
      · rw [getCell]; simp only [eq_comm]
    · split
      · next hx =>
        subst hx
        split
        · next hv =>
          split
          · next hy => rw [hy, hv]; exact getCell_below (lo := x + 1) (by omega) w'.2
          · next hy => rw [getCell, if_neg (by omega)]
        · rw [getCell]
          by_cases hy : y = x
          · rw [if_pos hy.symm, if_pos hy]
          · rw [if_neg (fun h => hy h.symm), if_neg hy, getCell, if_neg (fun h => hy h.symm)]
      · rw [getCell, getCell, ih w'.2]
        by_cases hy : y = x
        · rw [if_pos hy, if_pos hy, if_neg (by omega)]
        · rw [if_neg hy, if_neg hy]

/-- A write of several bytes keeps the canonical form. -/
theorem setCells_wf {m : List Host.Cell} {a : Nat} {bs : List Byte} (w : Memory.wf m = true) : Memory.wf (setCells m a bs) = true := by
  unfold setCells
  generalize bs.zipIdx = ps
  induction ps generalizing m with
  | nil => exact w
  | cons p rest ih => exact ih (setCell_wf (Nat.zero_le _) w)

/-- A part of a canonical list is canonical. -/
theorem filter_wf {m : List Host.Cell} {f : Host.Cell → Bool} : ∀ {lo : Nat}, cellsFrom lo m = true → cellsFrom lo (m.filter f) = true := by
  induction m with
  | nil => intro lo w; exact w
  | cons c rest ih =>
    intro lo w
    obtain ⟨a, b⟩ := c
    simp only [cellsFrom, Bool.and_eq_true, decide_eq_true_eq] at w
    rw [List.filter_cons]
    split
    · simp only [cellsFrom, Bool.and_eq_true, decide_eq_true_eq]
      exact ⟨w.1, ih w.2⟩
    · exact cellsFrom_mono (by omega) (ih w.2)

/-- Dropping cells keeps the canonical form. -/
theorem dropCells_wf {m : List Host.Cell} {f : Nat → Bool} (w : Memory.wf m = true) : Memory.wf (dropCells m f) = true := filter_wf w

/-- A line is stored anew under another key in the canonical form. -/
theorem rekeyLine_wf {s : State} {key : Option (Fin 8)} {line : Nat} (w : Memory.wf s.mem = true) : Memory.wf (s.rekeyLine key line).mem = true := by
  unfold State.rekeyLine
  extract_lets loc stored req bs
  clear_value bs
  split
  · exact w
  · exact setCells_wf (m := s.mem) (a := loc / 128 * 128) (bs := bs) w

/-- A write at a physical address keeps the canonical form, whatever its key. -/
theorem writePa_wf {s : State} {key : Option (Fin 8)} {pa : Nat} {b : Byte} (w : Memory.wf s.mem = true) : Memory.wf (s.writePa key pa b).mem = true := by
  have r : Memory.wf (s.rekey key pa).mem = true := by
    unfold State.rekey
    split
    · exact w
    · exact rekeyLine_wf (rekeyLine_wf w)
  exact setCell_wf (Nat.zero_le _) r

/-- A write of several bytes at a physical address keeps the canonical form. -/
theorem writeBytes_wf {s : State} {key : Option (Fin 8)} {pa : Nat} {bs : List Byte} (w : Memory.wf s.mem = true) :
    Memory.wf (s.writeBytes key pa bs).mem = true := by
  unfold State.writeBytes
  generalize bs.zipIdx = ps
  induction ps generalizing s with
  | nil => rw [List.foldl_nil]; exact w
  | cons p rest ih => rw [List.foldl_cons]; exact ih (writePa_wf w)

end Sys2Proof
end

