-- ==== Sys2Proof/Laws/Quant.lean ====
section
/-! SUPPORT. The QNT group. -/

namespace Sys2Proof

open Machine Laws

/-- A QNT form acts on the threads of its groups and sets CVX where a lane does. -/
theorem quantFor_groups {s : State} {b : Bundle} {names dst : List Nat} {f : Group → Lane → Thread → List Word × Bool}
    {v : Vector (Option Group) 32} {m : Member} (hv : v[m.slot] = s.group? b.core m.slot) (ha : m ∈ s.members b)
    (hin : ∀ m ∈ s.members b, ∀ g, s.group? b.core m.slot = some g → names.all g.inAllot = true)
    (hc : NoCvxTrap s b fun g l t => (f g l t).2) :
    (withSlots s b.core v).quantFor b (prefixOf b) names dst f m = withSlots s b.core (v.set m.slot ((v[m.slot]).map
      (laneGroup b (fun g l t => t.setBlock g.ring dst fun i => (f g l t).1.getD i 0) (zeroRegs b dst) (fun g l t => (f g l t).2) m))) := by
  unfold State.quantFor
  rw [withSlots_group]
  split
  · rename_i h
    rw [h]
    exact withSlots_keep h
  · rename_i g h
    have hg := hv.symm.trans h
    dsimp only
    rw [if_pos (hin m ha g hg), h, Option.map_some, withSlots_setGroup]
    have hthreads : (g.mapThreads fun l t => if g.active m (prefixOf b) l then t.setBlock g.ring dst fun i => (f g l t).1.getD i 0
          else if hasBit m.sel l && (prefixOf b).zero then t.setBlock g.ring dst fun _ => 0 else t)
        = g.mapThreads fun l t => if g.active m (prefixOf b) l then t.setBlock g.ring dst fun i => (f g l t).1.getD i 0
          else if hasBit m.sel l then zeroRegs b dst g l t else t := by
      congr 1
      funext l t
      cases hasBit m.sel l.val <;> simp [zeroRegs]
    unfold laneGroup
    rw [← hthreads]
    unfold State.laneCvx
    dsimp only
    split
    · rename_i hany
      have hoff : s.cvxOn b.core = false := by
        rcases hc with hc | hc
        · exact hc
        · exfalso
          obtain ⟨l, -, hl⟩ := List.any_eq_true.1 hany
          simp only [Bool.and_eq_true] at hl
          have := hc m ha g hg l hl.1
          exact Bool.noConfusion (hl.2.symm.trans this)
      rw [withSlots_modGroup]
      have hon : ∀ w, (withSlots s b.core w).cvxOn b.core = false := fun w => by
        simpa [withSlots, State.cvxOn] using hoff
      simp [hon]
    · rename_i hany
      simp

/-- A QNT form completes with its effect on the threads of its bundle. -/
theorem quantWord_writes {i : Instr} {w : WordInfo} {names dst : List Nat} {f : Pfx → Group → Lane → Thread → List Word × Bool}
    (hi : ∀ s, exec i s = issue w (fun b p s => s.eachMember b fun m s => s.quantFor b p names dst (f p) m) s) (hw : infoOf i = w)
    (hg : w.gather = false) : WritesRegs i names dst f := by
  intro s b h hin hc
  rw [hw] at h
  rw [hi]
  refine issue_agrees h hg ?_ h.clean
  exact eachMember_groups h.slots fun m hm v hv => quantFor_groups hv hm hin hc

theorem writes_qntMxp (f : Fin 8) (d : Fin 128) (a : LaneSrc) (x : MxFmt) (h : qntMx f = some x) :
    WritesRegs (.qntMxp f d a) (packRegs d.val false ++ wideRegs a) (packRegs d.val false) (mxpResult x a) := by
  refine quantWord_writes (w := qntInfo d a true false (qntMx f).isSome) (fun s => ?_) rfl rfl
  change execQntMxp f d a s = _
  unfold execQntMxp
  rw [h]

theorem writes_qntMxu (f : Fin 8) (d : Fin 128) (a : LaneSrc) (x : MxFmt) (h : qntMx f = some x) :
    WritesRegs (.qntMxu f d a) (packRegs (srcBase a) false ++ regRun d.val 32) (regRun d.val 32) (mxuResult x a) := by
  refine quantWord_writes (w := qntInfo d a false false (qntMx f).isSome) (fun s => ?_) rfl rfl
  change execQntMxu f d a s = _
  unfold execQntMxu
  rw [h]

theorem writes_qntAqp (f : Fin 8) (d : Fin 128) (a : LaneSrc) (w : Nat) (h : qntAq f = some w) :
    WritesRegs (.qntAqp f d a) (packRegs d.val true ++ wideRegs a) (packRegs d.val false) (aqpResult w d a) := by
  refine quantWord_writes (w := qntInfo d a true true (qntAq f).isSome) (fun s => ?_) rfl rfl
  change execQntAqp f d a s = _
  unfold execQntAqp
  rw [h]

theorem writes_qntAqu (f : Fin 8) (d : Fin 128) (a : LaneSrc) (w : Nat) (h : qntAq f = some w) :
    WritesRegs (.qntAqu f d a) (packRegs (srcBase a) true ++ regRun d.val 32) (regRun d.val 32) (aquResult w a) := by
  refine quantWord_writes (w := qntInfo d a false true (qntAq f).isSome) (fun s => ?_) rfl rfl
  change execQntAqu f d a s = _
  unfold execQntAqu
  rw [h]

end Sys2Proof
end

