-- ==== Sys2Proof/Laws/UniWords.lean ====
section
/-! SUPPORT. What each compare, predicate and uniform word does, by the shapes of Safety.lean. -/

namespace Sys2Proof

open Machine Laws

/-! ### Compares, predicates, MOVI -/

theorem writes_icmp (c : Fin 8) (n : Bool) (p : Fin 64) (a : LaneSrc) (b : Fin 128) :
    WritesPred (.icmp c n p a b) p fun g t =>
      if n then t.pred p.val && intCond c.val (g.src t a 0) (t.lane g.ring b.val) else intCond c.val (g.src t a 0) (t.lane g.ring b.val) :=
  laneWord_pred (w := compareInfo p a (.lane b)) (fun _ => rfl) rfl rfl rfl rfl

theorem writes_icmpi (c : Fin 8) (n : Bool) (p : Fin 64) (a : LaneSrc) (m : BitVec 7) :
    WritesPred (.icmpi c n p a m) p fun g t =>
      if n then t.pred p.val && intCond c.val (g.src t a 0) (imm7 m) else intCond c.val (g.src t a 0) (imm7 m) :=
  laneWord_pred (w := compareInfo p a (.imm (imm7 m))) (fun _ => rfl) rfl rfl rfl rfl

theorem writes_fcmp (c : Fin 8) (n : Bool) (p : Fin 64) (a : LaneSrc) (b : Fin 128) :
    WritesPred (.fcmp c n p a b) p fun g t =>
      if n then t.pred p.val && floatCond c.val (g.src t a 0) (t.lane g.ring b.val) else floatCond c.val (g.src t a 0) (t.lane g.ring b.val) :=
  laneWord_pred (w := compareInfo p a (.lane b)) (fun _ => rfl) rfl rfl rfl rfl

theorem writes_predAnd (b d a : Fin 64) : WritesPred (.predAnd b d a) d fun _ t => t.pred a.val && t.pred b.val :=
  laneWord_pred (w := predInfo d) (fun _ => rfl) rfl rfl rfl rfl
theorem writes_predOr (b d a : Fin 64) : WritesPred (.predOr b d a) d fun _ t => t.pred a.val || t.pred b.val :=
  laneWord_pred (w := predInfo d) (fun _ => rfl) rfl rfl rfl rfl
theorem writes_predXor (b d a : Fin 64) : WritesPred (.predXor b d a) d fun _ t => t.pred a.val != t.pred b.val :=
  laneWord_pred (w := predInfo d) (fun _ => rfl) rfl rfl rfl rfl
theorem writes_predAndn (b d a : Fin 64) : WritesPred (.predAndn b d a) d fun _ t => t.pred a.val && !t.pred b.val :=
  laneWord_pred (w := predInfo d) (fun _ => rfl) rfl rfl rfl rfl
theorem writes_predOrn (b d a : Fin 64) : WritesPred (.predOrn b d a) d fun _ t => t.pred a.val || !t.pred b.val :=
  laneWord_pred (w := predInfo d) (fun _ => rfl) rfl rfl rfl rfl
theorem writes_predNot (d a : Fin 64) : WritesPred (.predNot d a) d fun _ t => !t.pred a.val :=
  laneWord_pred (w := predInfo d) (fun _ => rfl) rfl rfl rfl rfl
theorem writes_predMov (d a : Fin 64) : WritesPred (.predMov d a) d fun _ t => t.pred a.val :=
  laneWord_pred (w := predInfo d) (fun _ => rfl) rfl rfl rfl rfl
theorem writes_predFromv (d : Fin 64) (a : LaneSrc) : WritesPred (.predFromv d a) d fun g t => g.src t a 0 != 0 :=
  laneWord_pred (w := compareInfo d a .none) (fun _ => rfl) rfl rfl rfl rfl

theorem writes_predTov (d : Fin 128) (a : Fin 64) :
    WritesLanes (.predTov d a) [d.val] fun _ g _ t => t.setLane g.ring d.val (if t.pred a.val then 1 else 0) := by
  have e : (Block.one d).regs = [d.val] := by simp [Block.one, Block.regs, List.range_succ]
  rw [← e]
  exact laneWord_writes (w := tovInfo d) (f := fun _ _ g _ t => t.setLane g.ring d.val (if t.pred a.val then 1 else 0))
    (fun _ => rfl) rfl rfl rfl rfl rfl

theorem writes_movi (e : Ext) (d : Fin 128) (m : BitVec 15) :
    WritesLanes (.movi e d m) (Block.of e d.val).regs fun b g _ t => t.setBlock g.ring (Block.of e d.val).regs fun _ => moviValue (prefixOf b).mod m :=
  laneWord_writes (w := moviInfo e d) (d := Block.of e d)
    (f := fun _ p g _ t => t.setBlock g.ring (Block.of e d.val).regs fun _ => moviValue p.mod m) (fun _ => rfl) rfl rfl rfl rfl rfl

/-! ### The U ALU (R153, R154) -/

theorem writes_uadd (d a : Fin 128) (b : USrc) :
    WritesUniform (.uadd d a b) d fun g => (fun x y => narrow 0 (intOf 0 x + intOf 0 y)) (g.uni a.val) (g.usrc b) :=
  uniAlu_writes (b := b) (f := (fun x y => narrow 0 (intOf 0 x + intOf 0 y))) (fun _ => rfl) rfl

theorem writes_uaddSatz (d a : Fin 128) (b : USrc) :
    WritesUniform (.uaddSatz d a b) d fun g => (fun x y => narrow 1 (intOf 1 x + intOf 1 y)) (g.uni a.val) (g.usrc b) :=
  uniAlu_writes (b := b) (f := (fun x y => narrow 1 (intOf 1 x + intOf 1 y))) (fun _ => rfl) rfl

theorem writes_uaddSatn (d a : Fin 128) (b : USrc) :
    WritesUniform (.uaddSatn d a b) d fun g => (fun x y => narrow 2 (intOf 2 x + intOf 2 y)) (g.uni a.val) (g.usrc b) :=
  uniAlu_writes (b := b) (f := (fun x y => narrow 2 (intOf 2 x + intOf 2 y))) (fun _ => rfl) rfl

theorem writes_usub (d a : Fin 128) (b : USrc) :
    WritesUniform (.usub d a b) d fun g => (fun x y => narrow 0 (intOf 0 x - intOf 0 y)) (g.uni a.val) (g.usrc b) :=
  uniAlu_writes (b := b) (f := (fun x y => narrow 0 (intOf 0 x - intOf 0 y))) (fun _ => rfl) rfl

theorem writes_usubSatz (d a : Fin 128) (b : USrc) :
    WritesUniform (.usubSatz d a b) d fun g => (fun x y => narrow 1 (intOf 1 x - intOf 1 y)) (g.uni a.val) (g.usrc b) :=
  uniAlu_writes (b := b) (f := (fun x y => narrow 1 (intOf 1 x - intOf 1 y))) (fun _ => rfl) rfl

theorem writes_usubSatn (d a : Fin 128) (b : USrc) :
    WritesUniform (.usubSatn d a b) d fun g => (fun x y => narrow 2 (intOf 2 x - intOf 2 y)) (g.uni a.val) (g.usrc b) :=
  uniAlu_writes (b := b) (f := (fun x y => narrow 2 (intOf 2 x - intOf 2 y))) (fun _ => rfl) rfl

theorem writes_umul (d a : Fin 128) (b : USrc) :
    WritesUniform (.umul d a b) d fun g => (fun x y => x * y) (g.uni a.val) (g.usrc b) :=
  uniAlu_writes (b := b) (f := (fun x y => x * y)) (fun _ => rfl) rfl

theorem writes_umulhZ (d a : Fin 128) (b : USrc) :
    WritesUniform (.umulhZ d a b) d fun g => (fun x y => highWord (x.toInt * y.toInt)) (g.uni a.val) (g.usrc b) :=
  uniAlu_writes (b := b) (f := (fun x y => highWord (x.toInt * y.toInt))) (fun _ => rfl) rfl

theorem writes_umulhN (d a : Fin 128) (b : USrc) :
    WritesUniform (.umulhN d a b) d fun g => (fun x y => highWord ((x.toNat : Int) * y.toNat)) (g.uni a.val) (g.usrc b) :=
  uniAlu_writes (b := b) (f := (fun x y => highWord ((x.toNat : Int) * y.toNat))) (fun _ => rfl) rfl

theorem writes_uand (d a : Fin 128) (b : USrc) :
    WritesUniform (.uand d a b) d fun g => (fun x y => x &&& y) (g.uni a.val) (g.usrc b) :=
  uniAlu_writes (b := b) (f := (fun x y => x &&& y)) (fun _ => rfl) rfl

theorem writes_uor (d a : Fin 128) (b : USrc) :
    WritesUniform (.uor d a b) d fun g => (fun x y => x ||| y) (g.uni a.val) (g.usrc b) :=
  uniAlu_writes (b := b) (f := (fun x y => x ||| y)) (fun _ => rfl) rfl

theorem writes_uxor (d a : Fin 128) (b : USrc) :
    WritesUniform (.uxor d a b) d fun g => (fun x y => x ^^^ y) (g.uni a.val) (g.usrc b) :=
  uniAlu_writes (b := b) (f := (fun x y => x ^^^ y)) (fun _ => rfl) rfl

theorem writes_ushl (d a : Fin 128) (b : USrc) :
    WritesUniform (.ushl d a b) d fun g => (fun x y => shlWord x y) (g.uni a.val) (g.usrc b) :=
  uniAlu_writes (b := b) (f := (fun x y => shlWord x y)) (fun _ => rfl) rfl

theorem writes_ushrN (d a : Fin 128) (b : USrc) :
    WritesUniform (.ushrN d a b) d fun g => (fun x y => shrNWord x y) (g.uni a.val) (g.usrc b) :=
  uniAlu_writes (b := b) (f := (fun x y => shrNWord x y)) (fun _ => rfl) rfl

theorem writes_ushrZ (d a : Fin 128) (b : USrc) :
    WritesUniform (.ushrZ d a b) d fun g => (fun x y => shrZWord x y) (g.uni a.val) (g.usrc b) :=
  uniAlu_writes (b := b) (f := (fun x y => shrZWord x y)) (fun _ => rfl) rfl

theorem writes_uminZ (d a : Fin 128) (b : USrc) :
    WritesUniform (.uminZ d a b) d fun g => (fun x y => if y.slt x then y else x) (g.uni a.val) (g.usrc b) :=
  uniAlu_writes (b := b) (f := (fun x y => if y.slt x then y else x)) (fun _ => rfl) rfl

theorem writes_umaxZ (d a : Fin 128) (b : USrc) :
    WritesUniform (.umaxZ d a b) d fun g => (fun x y => if x.slt y then y else x) (g.uni a.val) (g.usrc b) :=
  uniAlu_writes (b := b) (f := (fun x y => if x.slt y then y else x)) (fun _ => rfl) rfl

theorem writes_uminN (d a : Fin 128) (b : USrc) :
    WritesUniform (.uminN d a b) d fun g => (fun x y => if y.ult x then y else x) (g.uni a.val) (g.usrc b) :=
  uniAlu_writes (b := b) (f := (fun x y => if y.ult x then y else x)) (fun _ => rfl) rfl

theorem writes_umaxN (d a : Fin 128) (b : USrc) :
    WritesUniform (.umaxN d a b) d fun g => (fun x y => if x.ult y then y else x) (g.uni a.val) (g.usrc b) :=
  uniAlu_writes (b := b) (f := (fun x y => if x.ult y then y else x)) (fun _ => rfl) rfl

theorem writes_ufmin (d a b : Fin 128) :
    WritesUniform (.ufmin d a b) d fun g => fminWord (g.uni a.val) (g.usrc (.reg b)) :=
  uniAlu_writes (b := (.reg b)) (f := fminWord) (fun _ => rfl) rfl

theorem writes_ufmax (d a b : Fin 128) :
    WritesUniform (.ufmax d a b) d fun g => fmaxWord (g.uni a.val) (g.usrc (.reg b)) :=
  uniAlu_writes (b := (.reg b)) (f := fmaxWord) (fun _ => rfl) rfl

theorem writes_ucmp (d a : Fin 128) (c : Fin 8) (b : USrc) :
    WritesUniform (.ucmp d a c b) d fun g => (fun x y => if intCond c.val x y then 1 else 0) (g.uni a.val) (g.usrc b) :=
  uniAlu_writes (b := b) (f := (fun x y => if intCond c.val x y then 1 else 0)) (fun _ => rfl) rfl


theorem writes_umovhi (d : Fin 128) (m : BitVec 14) :
    WritesUniform (.umovhi d m) d fun g => m ++ (g.uni d.val).extractLsb' 0 18 := by
  have h := uniWrite_writes (i := .umovhi d m) (w := uniInfo d [d.val]) (f := fun g => g.setUni d.val (m ++ (g.uni d.val).extractLsb' 0 18))
    (fun _ => rfl) rfl rfl
  simp only [setUni_eq] at h
  exact h

theorem writes_umovlo (d : Fin 128) (m : BitVec 18) : WritesUniform (.umovlo d m) d fun _ => m.zeroExtend 32 := by
  have h := uniWrite_writes (i := .umovlo d m) (w := uniInfo d []) (f := fun g => g.setUni d.val (m.zeroExtend 32)) (fun _ => rfl) rfl rfl
  simp only [setUni_eq] at h
  exact h

end Sys2Proof
end

