-- ==== Sys2Proof/Tests/Slice0.lean ====
section
/-! SUPPORT. Tests of the model: words of the opcode table against the decoder, ill-formed terms, a state and operands that meet the hypotheses
of each statement, and single steps with values that the specification gives. -/

set_option Elab.async false

open Sys2Proof Sys2Proof.Machine

namespace Sys2Proof.Tests

/-- The decoder reads each word as its instruction. -/
noncomputable def decodes (l : List (Nat × Instr)) : Bool := l.all fun p => match decode p.1 with
  | .ok i => decide (i = p.2)
  | .error _ => false

/-! ### States that meet hypotheses -/

/-- The bundle that is open first. -/
def front (s : State) : Bundle := s.bundles.headD ⟨0, 0, false, [], 0, 0, 15, true, [], none, false, 0⟩

/-- The conditions of `Issues` but the first, as a test. -/
def issuesTest (s : State) (b : Bundle) (i : WordInfo) : Bool :=
  decide (b.members.map Member.slot).Nodup && ((s.members b).all fun m => (s.breaks b m).isNone) && (i.static b.pfx).isNone && !s.stalls b i && s.ecc.isEmpty &&
  !b.step && b.members.all fun m => match s.group? b.core m.slot with
    | some g => g.tokens.all fun t => !i.reads.contains t.reg && (!i.writes.contains t.reg || (t.done && i.peeks.contains t.reg)) && (i.token != some t.reg || t.done)
    | none => true

/-- The group of the bundle's one member passes `f`. -/
def soleTest (s : State) (b : Bundle) (f : Member → Group → Bool) : Bool :=
  match s.members b with
  | [m] => match s.group? b.core m.slot with
    | some g => f m g
    | none => false
  | _ => false

/-- The first bundle holds one group, its word `i` issues, and the group passes `f`. -/
noncomputable def readyTest (s : State) (i : Instr) (f : State → Bundle → Member → Group → Bool) : Bool :=
  !s.bundles.isEmpty && issuesTest s (front s) (infoOf i) && soleTest s (front s) (f s (front s))

theorem issues_of_test {s : State} {b : Bundle} {i : WordInfo} (hb : s.bundles.head? = some b) (h : issuesTest s b i = true) : Issues s b i := by
  simp only [issuesTest, Bool.and_eq_true, decide_eq_true_eq, List.all_eq_true, Bool.not_eq_true', Option.isNone_iff_eq_none, List.isEmpty_iff] at h
  obtain ⟨⟨⟨⟨⟨⟨h1, h2⟩, h3⟩, h4⟩, h5⟩, h6⟩, h7⟩ := h
  refine ⟨hb, h1, h2, h3, h4, ?_, h5, h6⟩
  intro m hm g hg t ht
  have := h7 m hm
  simp only [hg, List.all_eq_true] at this
  have := this t ht
  simp only [Bool.and_eq_true, Bool.or_eq_true, Bool.not_eq_true', List.contains_eq_mem, decide_eq_false_iff_not, decide_eq_true_eq, bne_iff_ne] at this
  exact ⟨this.1.1, this.1.2, fun h => this.2.resolve_left (fun n => n h)⟩

theorem sole_of_test {s : State} {b : Bundle} {f : Member → Group → Bool} (h : soleTest s b f = true) :
    ∃ m g, s.members b = [m] ∧ s.group? b.core m.slot = some g ∧ groupsOf s b = [(m, g)] ∧ f m g = true := by
  unfold soleTest at h
  split at h
  · next m hm =>
    split at h
    · next g hg => exact ⟨m, g, hm, hg, by simp [groupsOf, hm, hg], h⟩
    · cases h
  · cases h

/-- A state and its first bundle, of one group, meet `W`, and the word `i` issues. -/
abbrev Met (i : Instr) (W : State → Bundle → Prop) : Prop := ∃ s b, Issues s b (infoOf i) ∧ W s b

/-- What is known of a bundle of one group. -/
structure Sole (s : State) (b : Bundle) (m : Member) (g : Group) : Prop where
  members : s.members b = [m]
  group : s.group? b.core m.slot = some g
  groups : groupsOf s b = [(m, g)]

theorem met_of_test {i : Instr} {W : State → Bundle → Prop} (s : State) {f : State → Bundle → Member → Group → Bool} (h : readyTest s i f = true)
    (hW : ∀ b m g, Sole s b m g → f s b m g = true → W s b) : Met i W := by
  simp only [readyTest, Bool.and_eq_true, Bool.not_eq_true', List.isEmpty_eq_false_iff] at h
  obtain ⟨⟨h1, h2⟩, h3⟩ := h
  obtain ⟨m, g, a, b, c, d⟩ := sole_of_test h3
  refine ⟨s, front s, issues_of_test ?_ h2, hW _ m g ⟨a, b, c⟩ d⟩
  cases hs : s.bundles with
  | nil => exact absurd hs h1
  | cons x xs => simp [front, hs]

theorem Sole.all {s : State} {b : Bundle} {m : Member} {g : Group} (h : Sole s b m g) {P : Member → Group → Prop} (hP : P m g) :
    ∀ n ∈ s.members b, ∀ x, s.group? b.core n.slot = some x → P n x := by
  intro n hn x hx
  rw [h.members, List.mem_singleton] at hn
  subst hn
  rw [h.group] at hx
  cases hx
  exact hP

theorem Sole.each {s : State} {b : Bundle} {m : Member} {g : Group} (h : Sole s b m g) {P : Member × Group → Prop} (hP : P (m, g)) :
    ∀ x ∈ groupsOf s b, P x := by
  simpa [h.groups] using hP

/-- A word with no condition beyond its issue. -/
theorem met_any {i : Instr} (s : State) (h : readyTest s i (fun _ _ _ _ => true) = true) : Met i fun _ _ => True :=
  met_of_test s h fun _ _ _ _ _ => trivial

/-- A condition on each group. -/
theorem met_groups {i : Instr} {P : State → Bundle → Member × Group → Prop} [∀ s b x, Decidable (P s b x)] (s : State)
    (h : readyTest s i (fun s b m g => decide (P s b (m, g))) = true) : Met i fun s b => ∀ x ∈ groupsOf s b, P s b x :=
  met_of_test s h fun _ _ _ q hp => q.each (of_decide_eq_true hp)

/-- A word in handler mode, with a condition on each group. -/
theorem met_handler {i : Instr} {P : State → Bundle → Member × Group → Prop} [∀ s b x, Decidable (P s b x)] (s : State)
    (h : readyTest s i (fun s b m g => g.handler.isSome && decide (P s b (m, g))) = true) : Met i fun s b => InHandler s b ∧ ∀ x ∈ groupsOf s b, P s b x :=
  met_of_test s h fun _ _ _ q hp => by
    rw [Bool.and_eq_true] at hp
    exact ⟨q.all hp.1, q.each (of_decide_eq_true hp.2)⟩

/-- A word outside handler mode, with a condition on each group. -/
theorem met_user {i : Instr} {P : State → Bundle → Member × Group → Prop} [∀ s b x, Decidable (P s b x)] (s : State)
    (h : readyTest s i (fun s b m g => g.handler.isNone && decide (P s b (m, g))) = true) : Met i fun s b => NoHandler s b ∧ ∀ x ∈ groupsOf s b, P s b x :=
  met_of_test s h fun _ _ _ q hp => by
    rw [Bool.and_eq_true] at hp
    exact ⟨q.all (Option.isNone_iff_eq_none.mp hp.1), q.each (of_decide_eq_true hp.2)⟩

/-- A lane word: its registers lie in the allotment, and no conversion-exception trap is enabled. -/
theorem met_lanes {i : Instr} (s : State) (h : readyTest s i (fun s b _ g => ((infoOf i).names b.pfx).all g.inAllot && !s.cvxOn b.core) = true) :
    Met i fun s b => InAllot s b (infoOf i) ∧ ∀ cvx, NoCvxTrap s b cvx :=
  met_of_test s h fun _ _ _ q hp => by
    rw [Bool.and_eq_true, Bool.not_eq_true'] at hp
    exact ⟨q.all hp.1, fun _ => .inl hp.2⟩

/-- No fixed-latency result of the bundle's group is on its way, and the operations of the device are numbered below the next number. -/
def AtRest (s : State) (b : Bundle) : Prop := Numbered s ∧ ∀ x ∈ groupsOf s b, x.2.landing = []

/-- A word that issues at rest, whose group passes `f`. -/
theorem met_rest {i : Instr} {W : State → Bundle → Prop} (s : State) {f : State → Bundle → Member → Group → Bool}
    (h : readyTest s i (fun s b m g => (s.ops.all fun o => decide (o.id < s.nextId)) && g.landing.isEmpty && f s b m g) = true)
    (hW : ∀ b m g, Sole s b m g → f s b m g = true → W s b) : Met i fun s b => AtRest s b ∧ W s b :=
  met_of_test s h fun b m g q hp => by
    simp only [Bool.and_eq_true, List.all_eq_true, decide_eq_true_eq, List.isEmpty_iff] at hp
    exact ⟨⟨hp.1.1, q.each hp.1.2⟩, hW b m g q hp.2⟩

/-- A lane word of the kind that completes later. -/
theorem met_lanes_rest {i : Instr} (s : State) (h : readyTest s i (fun s b _ g => (s.ops.all fun o => decide (o.id < s.nextId)) && g.landing.isEmpty &&
    (((infoOf i).names b.pfx).all g.inAllot && !s.cvxOn b.core)) = true) : Met i fun s b => AtRest s b ∧ InAllot s b (infoOf i) ∧ ∀ cvx, NoCvxTrap s b cvx :=
  met_rest s (f := fun s b _ g => ((infoOf i).names b.pfx).all g.inAllot && !s.cvxOn b.core) h fun _ _ _ q hp => by
    rw [Bool.and_eq_true, Bool.not_eq_true'] at hp
    exact ⟨q.all hp.1, fun _ => .inl hp.2⟩

/-- The word `w` is the next of a bundle of the 32 threads of one group, which `f` changes, under a prefix. -/
def placed (w : Nat) (f : Group → Group := id) (p : Option Pfx := none) : State :=
  let s := (State.reset.withFetchWord 32 w).modGroup 0 0 f
  { s with bundles := s.bundles.map fun b => { b with pfx := p } }

/-- The instruction's word is next. -/
noncomputable def on (i : Instr) (f : Group → Group := id) (p : Option Pfx := none) : State := placed ((encode i).getD 0) f p

/-- The group is in the handler of a trap of class `cls`. -/
def inHandler (cls : Nat) (restore : Bool) (g : Group) : Group := { g with handler := some ⟨[], cls, restore, Vector.replicate 4 0⟩ }

/-- The group holds an allotment of `k` registers a lane. -/
def holding (k : Nat) (g : Group) : Group := { g with allot := { g.allot with k := k, granted := true, zeroed := true } }

/-- The group with a uniform register set. -/
def withS (n : Fin 128) (v : Word) (g : Group) : Group := { g with s := g.s.set n v }

/-- The words of the rows PREFIX to IMAX_Z of the opcode table, with operands in each field. -/
theorem test_decode_pfx : decodes [
    (0x7E77476E, .pfx 14 true 6 true 14 6 14), (0x012EA95F, .iadd 4 93 (.v 82) 95), (0x027DED9F, .isub 1 123 (.s 91) 31),
    (0x05CD35E0, .imul 7 26 (.v 107) 96), (0x071C7A20, .imad 4 56 (.s 116) 32), (0x08AB8261, .iaddi 2 87 (.v 4) 0x61),
    (0x0BFAC681, .ishiShl 7 117 (.s 13) 1), (0x0B4A0EA2, .ishiShrN 5 20 (.v 29) 2), (0x0A995342, .ishiShrZ 2 50 (.s 38) 2),
    (0x0A289B63, .ishiRol 0 81 (.v 54) 3), (0x0D77DFA3, .and 5 111 (.s 63) 35), (0x0EC727E4, .or 3 14 (.v 79) 100),
    (0x10166C24, .xor 0 44 (.s 88) 36), (0x13A5B465, .shl 6 75 (.v 104) 101), (0x14F4F8A5, .shrN 3 105 (.s 113) 37),
    (0x164400E6, .shrZ 1 8 (.v 1) 102), (0x19D3C8A7, .iminZ 7 39 (.s 17) 39), (0x1B228D67, .imaxZ 4 69 (.v 26) 103)] = true := by decide +kernel

/-- The words of the rows IMIN_N to IUN_ZEXT8 of the opcode table, with operands in each field. -/
theorem test_decode_iminN : decodes [
    (0x1CB25528, .iminN 2 100 (.s 42) 40), (0x1FC119E8, .imaxN 7 2 (.v 51) 104), (0x2150E1A9, .imulhZ 5 33 (.s 67) 41),
    (0x229FA669, .imulhN 2 63 (.v 76) 105), (0x242F6E2A, .idivZ 0 94 (.s 92) 42), (0x277E32EA, .idivN 5 124 (.v 101) 106),
    (0x28CDFA80, .iunMov 3 27 (.s 117)), (0x281CBF01, .iunNot 0 57 (.v 126)), (0x29AC4702, .iunNeg 6 88 (.s 14)),
    (0x28FB0B83, .iunAbs 3 118 (.v 23)), (0x284AD384, .iunPopc 1 21 (.s 39)), (0x29999805, .iunClz 6 51 (.v 48)),
    (0x29296006, .iunCtz 4 82 (.s 64)), (0x28B8A807, .iunBrev 2 113 (.v 80)), (0x29C7EC88, .iunBswap 7 15 (.s 89)),
    (0x29573489, .iunSext8 5 46 (.v 105)), (0x28A6790A, .iunSext16 2 76 (.s 114)), (0x2835810B, .iunZext8 0 107 (.v 2))] = true := by decide +kernel

/-- The words of the rows IUN_ZEXT16 to PRED_FROMV of the opcode table, with operands in each field. -/
theorem test_decode_iunZext16 : decodes [
    (0x2944C58C, .iunZext16 5 9 (.s 11)), (0x28D40D8D, .iunFneg 3 40 (.v 27)), (0x2823520E, .iunFabs 0 70 (.s 36)),
    (0x2BB29A73, .bfxN 6 101 (.v 52) 115), (0x2CC1DEB3, .bfxZ 3 3 (.s 61) 51), (0x2E5126F4, .bfi 1 34 (.v 77) 116),
    (0x31BD366E, .icmp 6 true 58 (.v 108) 110), (0x331559C0, .icmpi 4 false 42 (.s 51) 0x40), (0x346CB991, .fcmp 1 true 25 (.v 115) 17),
    (0x377B8480, .predAnd 47 28 9), (0x37E75C01, .predOr 60 58 56), (0x36533402, .predXor 10 25 40), (0x36C70C03, .predAndn 24 56 24),
    (0x372AC384, .predOrn 37 22 7), (0x36067A85, .predNot 51 53), (0x36000986, .predMov 0 19), (0x36071908, .predTov 14 50),
    (0x360DF809, .predFromv 27 (.s 112))] = true := by decide +kernel

/-- The words of the rows FADD to HMUL2 of the opcode table, with operands in each field. -/
theorem test_decode_fadd : decodes [
    (0x3857F9BB, .fadd 1 47 (.s 115) 59), (0x3BA6BE7B, .fsub 6 77 (.v 124) 123), (0x3D36463C, .fmul 4 108 (.s 12) 60),
    (0x3E450AFC, .ffma 1 10 (.v 21) 124), (0x41D4D2BD, .fmin 7 41 (.s 37) 61), (0x4323977D, .fmax 4 71 (.v 46) 125),
    (0x44B35F3E, .fdiv 2 102 (.s 62) 62), (0x47C22380, .funRcp 7 4 (.v 71)), (0x4751EB81, .funRsqrt 5 35 (.s 87)),
    (0x46E13382, .funSqrt 3 66 (.v 103)), (0x46307803, .funExp2 0 96 (.s 112)), (0x47BF8004, .funLog2 6 127 (.v 0)),
    (0x46CEC485, .funSinpi 3 29 (.s 9)), (0x465E0C86, .funCospi 1 60 (.v 25)), (0x47AD5107, .funTanh 6 90 (.s 34)),
    (0x473C9908, .funLogistic 4 121 (.v 50)), (0x484BDDC3, .hadd2 1 23 (.s 59) 67), (0x4BDB2584, .hmul2 7 54 (.v 75) 4)] = true := by decide +kernel

/-- The words of the rows HFMA2 to CVT_N16_F32 of the opcode table, with operands in each field. -/
theorem test_decode_hfma2 : decodes [
    (0x4D2A6A44, .hfma2 4 84 (.s 84) 68), (0x4EB9B205, .bfma2 2 115 (.v 100) 5), (0x51C8F6C5, .ladd 7 17 (.s 109) 69),
    (0x53583E86, .lmul 5 48 (.v 125) 6), (0x54A74300, .cvtF16F32 2 78 (.s 6)), (0x54368B01, .cvtBf16F32 0 109 (.v 22)),
    (0x5545CF82, .cvtF32F16 5 11 (.s 31)), (0x54D51783, .cvtF32Bf16 3 42 (.v 47)), (0x5464DF84, .cvtE4m3F32 1 73 (.s 63)),
    (0x55B3A405, .cvtE5m2F32 6 103 (.v 72)), (0x55036C06, .cvtF32E4m3 4 6 (.s 88)), (0x54523087, .cvtF32E5m2 1 36 (.v 97)),
    (0x55E1F888, .cvtZ32F32 7 67 (.s 113)), (0x5530BD09, .cvtN32F32 4 97 (.v 122)), (0x5480450A, .cvtF32Z32 2 0 (.s 10)),
    (0x55CF098B, .cvtF32N32 7 30 (.v 19)), (0x555ED18C, .cvtZ16F32 5 61 (.s 35)), (0x54AD960D, .cvtN16F32 2 91 (.v 44))] = true := by decide +kernel

/-- The words of the rows CVT_Z8_F32 to QNT_MXP of the opcode table, with operands in each field. -/
theorem test_decode_cvtZ8F32 : decodes [
    (0x543D5E0E, .cvtZ8F32 0 122 (.s 60)), (0x554C228F, .cvtN8F32 5 24 (.v 69)), (0x54DBEA90, .cvtF32Z8 3 55 (.s 85)),
    (0x542AAF11, .cvtF32N8 0 85 (.v 94)), (0x55BA7712, .cvtF32Z16 6 116 (.s 110)), (0x5509BF13, .cvtF32N16 4 19 (.v 126)),
    (0x5458C394, .cvtZ16Z32 1 49 (.s 7)), (0x55E80B95, .cvtN16Z32 7 80 (.v 23)), (0x55375016, .cvtZ8Z32 4 110 (.s 32)),
    (0x54869817, .cvtN8Z32 2 13 (.v 48)), (0x55D5DC98, .cvtL16F32 7 43 (.s 57)), (0x55652499, .cvtF32L16 5 74 (.v 73)),
    (0x54B4691A, .cvtL8F32 2 104 (.s 82)), (0x5403B11B, .cvtF32L8 0 7 (.v 98)), (0x5552F59C, .cvtZ8Tn5lo 5 37 (.s 107)),
    (0x54E23D9D, .cvtZ8Tn5hi 3 68 (.v 123)), (0x5431421E, .cvtTn5Z8 0 98 (.s 4)), (0x57808A00, .qntMxp 6 1 (.v 20))] = true := by decide +kernel

/-- The words of the rows QNT_MXU to AMO_F_AND of the opcode table, with operands in each field. -/
theorem test_decode_qntMxu : decodes [
    (0x56CFCE81, .qntMxu 3 31 (.s 29)), (0x565F1682, .qntAqp 1 62 (.v 45)), (0x57AE5B03, .qntAqu 6 92 (.s 54)), (0x593DA8A8, .ld 4 123 10 1 40),
    (0x5A8D693A, .st 2 26 26 2 58), (0x5DDC254B, .lda 7 56 9 2 75), (0x5E2ADCDB, .amoNAdd 85 23 1 91), (0x5E51541B, .amoNMin 34 21 0 27),
    (0x5EB8505C, .amoNMax 112 20 0 92), (0x5EDECB9C, .amoNAnd 61 18 7 28), (0x5F05C7DD, .amoNOr 11 17 7 93), (0x5F6C3F1D, .amoNXor 88 15 6 29),
    (0x5F933B5E, .amoNXchg 38 14 6 94), (0x5FF9B29E, .amoNCas 115 12 5 30), (0x6020AEDF, .amoFAdd 65 11 5 95), (0x6047261F, .amoFMin 14 9 4 31),
    (0x60AE2260, .amoFMax 92 8 4 96), (0x60D499A0, .amoFAnd 41 6 3 32)] = true := by decide +kernel

/-- The words of the rows AMO_F_OR to BRED_OR of the opcode table, with operands in each field. -/
theorem test_decode_amoFOr : decodes [
    (0x613B95E1, .amoFOr 119 5 3 97), (0x616291A2, .amoFXor 69 4 3 34), (0x61890962, .amoFXchg 18 2 2 98), (0x61F00523, .amoFCas 96 1 2 35),
    (0x6216FCE3, .amoCAdd 45 31 1 99), (0x627DF8A4, .amoCMin 123 30 1 36), (0x62A47064, .amoCMax 72 28 0 100), (0x62CB6C25, .amoCAnd 22 27 0 37),
    (0x6331E7E5, .amoCOr 99 25 7 101), (0x6358E3A6, .amoCXor 49 24 7 38), (0x63BF5B66, .amoCXchg 126 22 6 102), (0x63E65727, .amoCCas 76 21 6 39),
    (0x640CCCCD, .amoRAdd 25 19 77), (0x6633CAA8, .bredAdd 103 18 5 40), (0x665A4268, .bredMin 52 16 4 104), (0x66813E29, .bredMax 2 15 4 41),
    (0x66E7B5E9, .bredAnd 79 13 3 105), (0x670EB1AA, .bredOr 29 12 3 42)] = true := by decide +kernel

/-- The words of the rows BRED_XOR to XLN_RMAX_Z of the opcode table, with operands in each field. -/
theorem test_decode_bredXor : decodes [
    (0x6775ADEB, .bredXor 107 11 3 107), (0x68000000, .memcFence), (0x68000001, .memcFenceLd), (0x68000002, .memcFenceSt),
    (0x68108288, .memcPf 33 5), (0x68370189, .memcPfl1 110 3), (0x681E010A, .memcWbl 60 2), (0x6804800B, .memcInvl 9 0), (0x68000010, .memcWbL1),
    (0x68000011, .memcInvL1), (0x6A390E00, .xlnBallot 114 28), (0x6A1F9D01, .xlnAll 63 58), (0x6A068C82, .xlnAny 13 25),
    (0x6A2D1B83, .xlnCount 90 55), (0x6A0B4E04, .xlnMatch 0 22 (.s 28)), (0x6B9A9608, .xlnRadd 6 53 (.v 44)),
    (0x6AE9DA89, .xlnRminZ 3 83 (.s 53)), (0x6A79228A, .xlnRmaxZ 1 114 (.v 69))] = true := by decide +kernel

/-- The words of the rows XLN_RMIN_N to MMA of the opcode table, with operands in each field. -/
theorem test_decode_xlnRminN : decodes [
    (0x6B88670B, .xlnRminN 6 16 (.s 78)), (0x6B17AF0C, .xlnRmaxN 4 47 (.v 94)), (0x6A66F38D, .xlnRand 1 77 (.s 103)),
    (0x6BF63B8E, .xlnRor 7 108 (.v 119)), (0x6B05400F, .xlnRxor 4 10 (.s 0)), (0x6A948810, .xlnRfadd 2 41 (.v 16)),
    (0x6BE3CC91, .xlnRfmin 7 71 (.s 25)), (0x6B731492, .xlnRfmax 5 102 (.v 41)), (0x6A825918, .xlnIscanAdd 2 4 (.s 50)),
    (0x6A11A119, .xlnXscanAdd 0 35 (.v 66)), (0x6B60E59A, .xlnIscanFadd 5 65 (.s 75)), (0x6AF02D9B, .xlnXscanFadd 3 96 (.v 91)),
    (0x6A3F721C, .xlnIscanMinZ 0 126 (.s 100)), (0x6B8EBA1D, .xlnIscanMaxZ 6 29 (.v 116)), (0x6B1E421E, .xlnIscanOr 4 60 (.s 4)),
    (0x6C6D06BC, .shfl 1 90 (.v 13) 60), (0x6FFCCE8D, .xbar 7 121 (.s 29) 13), (0x702726AB, .mma 4 7 (.v 38) (.s 43))] = true := by decide +kernel

/-- The words of the rows MMA_Z to RCV of the opcode table, with operands in each field. -/
theorem test_decode_mmaZ : decodes [
    (0x7096B672, .mmaZ 2 6 (.s 54) (.v 114)), (0x72000780, .maccZero 15), (0x7379CF81, .maccRd 5 115 9 15), (0x7288C782, .maccWr 2 17 8 15),
    (0x72180404, .maccDrs 0 48 8), (0x73673805, .maccDrm 5 78 7 0), (0x72F68386, .maccDrsZ 3 109 7), (0x7205B087, .maccDrmZ 0 11 6 1),
    (0x75954996, .movi 6 42 0x4996), (0x76C01180, .plyPut 3 0 (.v 35)), (0x76739581, .plyGet 1 103 5 3), (0x776D1382, .plyBrx 0x2da27),
    (0x79A73804, .br 52 true true 0x13804), (0x7A3051C2, .call 0x3051c2), (0x7A400000, .ret), (0x7AAE8000, .bri 93), (0x7AC00000, .exit),
    (0x7B000000, .rcv)] = true := by decide +kernel

/-- The words of the rows BAR_TEAM to USHL of the opcode table, with operands in each field. -/
theorem test_decode_barTeam : decodes [
    (0x7B450000, .barTeam 5), (0x7B530000, .barClu 3), (0x7B800000, .yield), (0x7BEE00C0, .trapc 46 false 0xc0),
    (0x7DEEF9AF, .loopr 123 5 0x79af), (0x8127A007, .uadd 73 116 (.reg 7)), (0x805894AC, .uaddSatz 22 18 (.imm 0x2c)),
    (0x81918951, .uaddSatn 100 49 (.reg 81)), (0x82C67C76, .usub 49 79 (.imm 0x76)), (0x83FF709B, .usubSatz 127 110 (.reg 27)),
    (0x83346D40, .usubSatn 77 13 (.imm 0x40)), (0x84695865, .umul 26 43 (.reg 101)), (0x85A2548A, .umulhZ 104 74 (.imm 0xa)),
    (0x84D7412F, .umulhN 53 104 (.reg 47)), (0x860C3C54, .uand 3 7 (.imm 0x54)), (0x89412879, .uor 80 37 (.reg 121)),
    (0x8A7A241E, .uxor 30 68 (.imm 0x1e)), (0x8DAF1043, .ushl 107 98 (.reg 67))] = true := by decide +kernel

/-- The words of the rows USHR_N to ULD_Z16 of the opcode table, with operands in each field. -/
theorem test_decode_ushrN : decodes [
    (0x8EE40C68, .ushrN 57 1 (.imm 0x68)), (0x8E18F88D, .ushrZ 6 31 (.reg 13)), (0x9151F432, .uminZ 84 62 (.imm 0x32)),
    (0x9086E0D7, .umaxZ 33 92 (.reg 87)), (0x91BFDD7C, .uminN 111 123 (.imm 0x7c)), (0x90F0C9A1, .umaxN 60 25 (.reg 33)),
    (0x9029C266, .ufmin 10 56 102), (0x9162BAD6, .ufmax 88 87 86), (0x9297AE90, .ucmp 37 117 5 (.imm 0x10)), (0x95CC2A14, .umovhi 115 0x2a14),
    (0x9702E9B2, .umovlo 64 0x2e9b2), (0x9800C30E, .bra 0xc30e), (0x996DE8EF, .braZ 91 0xe8ef), (0x98A6A88E, .braNz 41 0xa88e),
    (0x9BD96002, .uld 118 44 2), (0x9B125892, .uldZ8 68 75 18), (0x9A474901, .uldN8 17 105 1), (0x9B7C4191, .uldZ16 95 8 17)] = true := by decide +kernel

/-- The words of the rows ULD_N16 to RECSET_BASE of the opcode table, with operands in each field. -/
theorem test_decode_uldN16 : decodes [
    (0x9AB13200, .uldN16 44 38 0), (0x9BEA2A90, .uld64 122 69 16), (0x9B1F1B1F, .uld128 71 99 31), (0x9C54100F, .ust 21 2 15),
    (0x9D89011E, .ust8 98 32 30), (0x9CC1FA0E, .ust16 48 63 14), (0x9DFAF29E, .ust64 126 94 30), (0x9D2FE30D, .ust128 75 124 13),
    (0x9E64D800, .sread 25 27), (0x9F99C880, .sreadV 102 57), (0x9ED2C574, .sreadClr 52 88 (.imm 0x74)), (0x9E07B1EB, .sreadXchg 1 118 107),
    (0xA13CA800, .swrite 79 21), (0xA2119800, .segld 4 51), (0xA3A81080, .segrd 106 2), (0xA45F8000, .recld 23 112), (0xA4147880, .recrd 5 15),
    (0xA6496808, .recsetBase 18 45 8)] = true := by decide +kernel

/-- The words of the rows RECSET_EXT to HREL of the opcode table, with operands in each field. -/
theorem test_decode_recsetExt : decodes [
    (0xA600049C, .recsetExt 0 (.imm 0x1c)), (0xA6340141, .recsetStride 13 (.reg 65)), (0xA66C05E6, .recsetSwz 27 (.imm 0x66)),
    (0xA624020B, .recsetTag 9 (.reg 11)), (0xA65806B0, .recsetFlags 22 (.imm 0x30)), (0xA6100355, .recsetAdv 4 (.reg 85)),
    (0xA64407FA, .recsetFmt 17 (.imm 0x7a)), (0xA8000000, .acq), (0xA8300080, .acqTry 12), (0xA8000100, .acqRel), (0xAA1FE800, .cvset 7 125),
    (0xAA140080, .cvsetAll 5), (0xAB081100, .cvrd 66 2), (0xAC008000, .mcfg 16), (0xAD740080, .mcfgRd 93), (0xAEAC0016, .hwaitFull 43 22),
    (0xAFE00094, .hwaitFree 120 20), (0xB0000006, .hrel 6)] = true := by decide +kernel

/-- The words of the rows HCOMMIT to TSYNC_POLL of the opcode table, with operands in each field. -/
theorem test_decode_hcommit : decodes [
    (0xB2000013, .hcommit 19), (0xB5840010, .hqry 97 16), (0xB4BC008F, .hqryBase 47 15), (0xB5F0010D, .hqryTile 124 13),
    (0xB5280180, .hqryScr 74), (0xB45C0200, .hqryCore 23), (0xB7954800, .mvx 101 41), (0xB6CA3880, .mvxC 50 71), (0xB6033100, .mvxB 0 102),
    (0xB800000D, .plycOpen 13), (0xB800081B, .plycOpenDrop 27), (0xB8000080, .plycClose), (0xB8000100, .plycRev), (0xB80C0180, .plycMark 3),
    (0xB9440200, .plycStat 81), (0xBA39D818, .xpld 14 59 24), (0xBC000000, .tsyncAll), (0xBCEBC880, .tsyncPoll 58 121)] = true := by decide +kernel

/-- The words of the rows TSYNC_COUNT to CTX_REST of the opcode table, with operands in each field. -/
theorem test_decode_tsyncCount : decodes [
    (0xBC1C0100, .tsyncCount 7), (0xBD540180, .tsyncPips 85), (0xBE8AA006, .resv 34 84 6), (0xC1C39800, .launch 112 115),
    (0xC2F40000, .tktWait 61), (0xC2000080, .tktPost), (0xC4000458, .trapImm 88), (0xC4000026, .trapReg 38), (0xC6000000, .eret),
    (0xC6000080, .eretStep), (0xC6000100, .eretKill), (0xC6000180, .eretOut), (0xC8A42C0C, .ctxRd 41 5 (.imm 0xc)), (0xC9DD2080, .ctxRdv 119 36),
    (0xC9121556, .ctxWr 68 66 (.imm 0x56)), (0xC84B0980, .ctxWrv 18 97), (0xC8000200, .ctxSave 0), (0xC800028D, .ctxRest 13)] = true := by decide +kernel


/-! ### Witnesses: lane, uniform and gathering words -/

theorem met_integerArithmetic : Met (.imad 2 4 (.s 0) 8) fun s b => InAllot s b (infoOf (.imad 2 4 (.s 0) 8)) ∧ ∀ cvx, NoCvxTrap s b cvx :=
  met_lanes (on (.imad 2 4 (.s 0) 8) (holding 32) (some { mod := 2, fourth := 12 })) (by decide +kernel)

theorem met_integerDivision : Met (.idivN 0 1 (.v 2) 3) fun s b => InAllot s b (infoOf (.idivN 0 1 (.v 2) 3)) ∧ ∀ cvx, NoCvxTrap s b cvx :=
  met_lanes (on (.idivN 0 1 (.v 2) 3) id (some { mod := 1 })) (by decide +kernel)

theorem met_logicAndShifts : Met (.shrZ 0 15 (.v 15) 15) fun s b => InAllot s b (infoOf (.shrZ 0 15 (.v 15) 15)) ∧ ∀ cvx, NoCvxTrap s b cvx :=
  met_lanes (on (.shrZ 0 15 (.v 15) 15)) (by decide +kernel)

theorem met_immediateShifts : Met (.ishiRol 1 0 (.v 8) 31) fun s b => InAllot s b (infoOf (.ishiRol 1 0 (.v 8) 31)) ∧ ∀ cvx, NoCvxTrap s b cvx :=
  met_lanes (on (.ishiRol 1 0 (.v 8) 31)) (by decide +kernel)

theorem met_bitfields : Met (.bfi 0 4 (.v 5) 6) fun s b => InAllot s b (infoOf (.bfi 0 4 (.v 5) 6)) ∧ ∀ cvx, NoCvxTrap s b cvx :=
  met_lanes (on (.bfi 0 4 (.v 5) 6)) (by decide +kernel)

theorem met_integerUnary : Met (.iunNeg 0 4 (.v 5)) fun s b => InAllot s b (infoOf (.iunNeg 0 4 (.v 5))) ∧ ∀ cvx, NoCvxTrap s b cvx :=
  met_lanes (on (.iunNeg 0 4 (.v 5)) id (some { mod := 1 })) (by decide +kernel)

theorem met_compares : Met (.icmp 2 true 4 (.v 1) 2) fun s b => InAllot s b (infoOf (.icmp 2 true 4 (.v 1) 2)) ∧ ∀ cvx, NoCvxTrap s b cvx :=
  met_lanes (on (.icmp 2 true 4 (.v 1) 2)) (by decide +kernel)

theorem met_predicates : Met (.predAnd 2 3 1) fun s b => InAllot s b (infoOf (.predAnd 2 3 1)) ∧ ∀ cvx, NoCvxTrap s b cvx :=
  met_lanes (on (.predAnd 2 3 1)) (by decide +kernel)

theorem met_moveImmediate : Met (.movi 1 8 0x7FFB) fun s b => InAllot s b (infoOf (.movi 1 8 0x7FFB)) ∧ ∀ cvx, NoCvxTrap s b cvx :=
  met_lanes (on (.movi 1 8 0x7FFB)) (by decide +kernel)

theorem met_floatArithmetic : Met (.ffma 0 1 (.s 4) 2) fun s b => InAllot s b (infoOf (.ffma 0 1 (.s 4) 2)) ∧ ∀ cvx, NoCvxTrap s b cvx :=
  met_lanes (on (.ffma 0 1 (.s 4) 2) id (some { mod := 1, rnd := 1, fourth := 3 })) (by decide +kernel)

theorem met_packed : Met (.hadd2 0 1 (.v 2) 3) fun s b => InAllot s b (infoOf (.hadd2 0 1 (.v 2) 3)) ∧ ∀ cvx, NoCvxTrap s b cvx :=
  met_lanes (on (.hadd2 0 1 (.v 2) 3) id (some { mod := 1 })) (by decide +kernel)

theorem met_logarithmic : Met (.ladd 0 1 (.v 2) 3) fun s b => InAllot s b (infoOf (.ladd 0 1 (.v 2) 3)) ∧ ∀ cvx, NoCvxTrap s b cvx :=
  met_lanes (on (.ladd 0 1 (.v 2) 3)) (by decide +kernel)

theorem met_specialFunctions : Met (.funRsqrt 0 8 (.v 9)) fun s b => AtRest s b ∧ InAllot s b (infoOf (.funRsqrt 0 8 (.v 9))) ∧ ∀ cvx, NoCvxTrap s b cvx :=
  met_lanes_rest (on (.funRsqrt 0 8 (.v 9))) (by decide +kernel)

theorem met_conversions : Met (.cvtF16F32 0 8 (.v 9)) fun s b => InAllot s b (infoOf (.cvtF16F32 0 8 (.v 9))) ∧ ∀ cvx, NoCvxTrap s b cvx :=
  met_lanes (on (.cvtF16F32 0 8 (.v 9)) id (some { mod := 1 })) (by decide +kernel)

theorem met_sfuConversions : Met (.cvtL8F32 0 8 (.v 9)) fun s b => AtRest s b ∧ InAllot s b (infoOf (.cvtL8F32 0 8 (.v 9))) ∧ ∀ cvx, NoCvxTrap s b cvx :=
  met_lanes_rest (on (.cvtL8F32 0 8 (.v 9)) id (some { mod := 3 })) (by decide +kernel)

theorem met_ternary : Met (.cvtTn5Z8 0 8 (.v 9)) fun s b => InAllot s b (infoOf (.cvtTn5Z8 0 8 (.v 9))) ∧ ∀ cvx, NoCvxTrap s b cvx :=
  met_lanes (on (.cvtTn5Z8 0 8 (.v 9)) id (some { mod := 3, fourth := 2 })) (by decide +kernel)

theorem met_quantisation : Met (.qntMxp 0 32 (.v 0)) fun s b =>
    (∀ m ∈ s.members b, ∀ g, s.group? b.core m.slot = some g → (packRegs 32 false ++ wideRegs (.v 0)).all g.inAllot = true) ∧ ∀ cvx, NoCvxTrap s b cvx :=
  met_of_test (on (.qntMxp 0 32 (.v 0)) (holding 64)) (f := fun s b _ g => (packRegs 32 false ++ wideRegs (.v 0)).all g.inAllot && !s.cvxOn b.core)
    (by decide +kernel) fun _ _ _ q hp => by
      rw [Bool.and_eq_true, Bool.not_eq_true'] at hp
      exact ⟨q.all hp.1, fun _ => .inl hp.2⟩

theorem met_uniform : Met (.uadd 3 3 (.imm 1)) fun _ _ => True := met_any (on (.uadd 3 3 (.imm 1))) (by decide +kernel)

/-- A gathering word: every thread that it needs is in the bundle. -/
theorem met_crossLane : Met (.xlnBallot 3 1) fun s b => InAllot s b (infoOf (.xlnBallot 3 1)) ∧ Gathered s b :=
  met_of_test (on (.xlnBallot 3 1)) (f := fun s b m g => ((infoOf (.xlnBallot 3 1)).names b.pfx).all g.inAllot &&
      (List.finRange 32).all fun l => (!g.active m (prefixOf b) l || g.inSet (prefixOf b).mod l) &&
        (!hasBit m.sel l || (List.finRange 32).all fun k => !g.awaited (prefixOf b).mod b.pc k ||
          !(g.threads[l]).together g.threads[k] (prefixOf b).mod || hasBit m.sel k))
    (by decide +kernel) fun b m g q hp => by
      rw [Bool.and_eq_true] at hp
      refine ⟨q.all hp.1, ?_⟩
      replace hp := hp.2
      simp only [Bool.and_eq_true, List.all_eq_true, List.mem_finRange, forall_const, Bool.or_eq_true, Bool.not_eq_true'] at hp
      intro n hn x hx l
      rw [q.members, List.mem_singleton] at hn
      subst hn
      rw [q.group] at hx
      cases hx
      exact ⟨fun h => ((hp l).1).resolve_left (by simp [h]), fun h k h1 h2 =>
        ((((hp l).2).resolve_left (by simp [h])) k).resolve_left fun n => n.elim (by simp [h1]) fun n => Bool.noConfusion (n.symm.trans h2)⟩

/-! ### Witnesses: control flow -/

/-- The kernel's call stack has room for `n` bytes a thread. -/
def withStack (n : Nat) (s : State) : State := { s with launches := s.launches.map fun l => { l with kernel := { l.kernel with stack := n } } }

/-- Each thread of the group is changed. -/
def eachThread (f : Thread → Thread) (g : Group) : Group := { g with threads := g.threads.map f }

theorem met_branch : Met (.br 5 true false 0x1FFFF) fun _ _ => True := met_any (on (.br 5 true false 0x1FFFF)) (by decide +kernel)

theorem met_call : Met (.call 0x3FFFFF) fun s b =>
    ∀ m ∈ s.members b, ∀ g, s.group? b.core m.slot = some g → ∀ l : Lane, hasBit m.sel l = true → (g.threads[l]).depth < s.callRoom g :=
  met_of_test (withStack 64 (on (.call 0x3FFFFF))) (f := fun s _ m g => decide (∀ l : Lane, hasBit m.sel l = true → (g.threads[l]).depth < s.callRoom g))
    (by decide +kernel) fun _ _ _ q hp => q.all (of_decide_eq_true hp)

theorem met_ret : Met .ret fun s b =>
    ∀ m ∈ s.members b, ∀ g, s.group? b.core m.slot = some g → ∀ l : Lane, hasBit m.sel l = true → 0 < (g.threads[l]).depth :=
  met_of_test (withStack 64 (on .ret (eachThread fun t => { t with depth := 1 }))) (f := fun _ _ m g => decide (∀ l : Lane, hasBit m.sel l = true → 0 < (g.threads[l]).depth))
    (by decide +kernel) fun _ _ _ q hp => q.all (of_decide_eq_true hp)

theorem met_exit : Met .exit fun _ _ => True := met_any (on .exit) (by decide +kernel)

/-- R121: the highest step code, and the two counters where the clauses meet: within the allotment and just beyond it. -/
theorem met_loopr : Met (.loopr 15 5 1) fun s b => ∀ x ∈ groupsOf s b, x.2.inAllot (15 : Fin 128).val = true := met_groups (on (.loopr 15 5 1)) (by decide +kernel)
theorem met_loopr_beyond : Met (.loopr 16 5 1) fun s b => NoHandler s b ∧ ∀ x ∈ groupsOf s b, x.2.inAllot (16 : Fin 128).val = false :=
  met_user (on (.loopr 16 5 1)) (by decide +kernel)

/-- R161: an offset that is just beyond the code image, which traps, and one that is in it. -/
theorem met_bri : Met (.bri 3) fun s b => (∀ x ∈ groupsOf s b, x.2.inAllot (3 : Fin 128).val = true) ∧ (NoHandler s b ∨ ∀ x ∈ groupsOf s b, ∀ l : Lane,
    hasBit x.1.sel l = true → let t := (x.2.threads[l]).lane x.2.ring (3 : Fin 128).val; t.extractLsb' 0 2 = 0 ∧ t.toNat < 4 * (s.codeOf x.2).length) :=
  met_of_test (on (.bri 3) (eachThread fun t => { t with v := t.v.set 3 12 })) (f := fun s _ m g => g.inAllot 3 && decide (4 * (s.codeOf g).length ≤ 12) && g.handler.isNone)
    (by decide +kernel) fun _ _ _ q hp => by
      simp only [Bool.and_eq_true] at hp
      exact ⟨q.each hp.1.1, .inl (q.all (Option.isNone_iff_eq_none.mp hp.2))⟩

theorem met_trapTest : Met (.trapc 5 false 0xFF) fun s b => NoHandler s b ∧ b.words.length = b.idx + 1 :=
  met_of_test (on (.trapc 5 false 0xFF)) (f := fun _ b _ g => g.handler.isNone && b.words.length == b.idx + 1)
    (by decide +kernel) fun _ _ _ q hp => by
      simp only [Bool.and_eq_true, beq_iff_eq] at hp
      exact ⟨q.all (Option.isNone_iff_eq_none.mp hp.1), hp.2⟩
/-! ### Witnesses: special registers, the handler and its words -/

/-- R74: the last number that user code may read, and the first that only handler code may. -/
theorem met_sread : Met (.sread 4 0x0F) fun s b => MayRead s b (0x0F : Fin 128).val :=
  met_of_test (on (.sread 4 0x0F)) (f := fun _ _ _ _ => true) (by decide +kernel) fun _ _ _ q _ => q.all fun h => absurd h (by decide)
theorem met_sread_handler : Met (.sread 4 0x40) fun s b => MayRead s b (0x40 : Fin 128).val :=
  met_of_test (on (.sread 4 0x40) (inHandler 0x16 false)) (f := fun _ _ _ g => g.handler.isSome) (by decide +kernel) fun _ _ _ q hp => q.all fun _ => hp
theorem met_sreadV : Met (.sreadV 4 0x00) fun s b => MayRead s b (0x00 : Fin 128).val ∧ InAllot s b (infoOf (.sreadV 4 0x00)) :=
  met_of_test (on (.sreadV 4 0x00)) (f := fun _ b _ g => ((infoOf (.sreadV 4 0x00)).names b.pfx).all g.inAllot) (by decide +kernel)
    fun _ _ _ q hp => ⟨q.all fun h => absurd h (by decide), q.all hp⟩

theorem met_sreadClr : Met (.sreadClr 4 0x0D (.imm 5)) fun _ _ => True := met_any (on (.sreadClr 4 0x0D (.imm 5))) (by decide +kernel)
theorem met_sreadXchg : Met (.sreadXchg 4 0x0E 5) fun _ _ => True := met_any (on (.sreadXchg 4 0x0E 5)) (by decide +kernel)

/-- R403: the lowest limit that %wdlim takes besides 0. -/
theorem met_swrite : Met (.swrite 0x41 9) fun s b => InHandler s b ∧ ∀ x ∈ groupsOf s b, (x.2.s[(9 : Fin 128).val] == 0 || decide (2 ^ 10 ≤ (x.2.s[(9 : Fin 128).val]).toNat)) = true :=
  met_handler (on (.swrite 0x41 9) (inHandler 0x16 false ∘ withS 9 0x400)) (by decide +kernel)

theorem met_privileged : Met .eret NoHandler :=
  met_of_test (on .eret) (f := fun _ _ _ g => g.handler.isNone) (by decide +kernel) fun _ _ _ q hp => q.all (Option.isNone_iff_eq_none.mp hp)
theorem met_privileged_read : Met (.sread 4 0x40) NoHandler :=
  met_of_test (on (.sread 4 0x40)) (f := fun _ _ _ g => g.handler.isNone) (by decide +kernel) fun _ _ _ q hp => q.all (Option.isNone_iff_eq_none.mp hp)

theorem met_trapReg : Met (.trapReg 3) NoHandler :=
  met_of_test (on (.trapReg 3)) (f := fun _ _ _ g => g.handler.isNone) (by decide +kernel) fun _ _ _ q hp => q.all (Option.isNone_iff_eq_none.mp hp)
theorem met_trapImm_handler : Met (.trapImm 3) InHandler :=
  met_of_test (on (.trapImm 3) (inHandler 0x16 false)) (f := fun _ _ _ g => g.handler.isSome) (by decide +kernel) fun _ _ _ q hp => q.all hp

theorem met_eret : Met .eret InHandler :=
  met_of_test (on .eret (inHandler 0x16 false)) (f := fun _ _ _ g => g.handler.isSome) (by decide +kernel) fun _ _ _ q hp => q.all hp

theorem met_leaveHandler : ∃ (s : State) (c : CoreId) (k : Slot) (g : Group) (d : Delivery), s.group? c k = some g ∧ g.handler = some d ∧
    ∀ l : Lane, (g.threads[l]).gone = false → (g.threads[l]).estate.extractLsb' 4 4 ≠ 5 :=
  ⟨_, 0, 0, _, _, (Option.some_get (x := (on .eret (inHandler 0x16 false)).group? 0 0) (by decide +kernel)).symm,
    (Option.some_get (x := (((on .eret (inHandler 0x16 false)).group? 0 0).get (by decide +kernel)).handler) (by decide +kernel)).symm, by decide +kernel⟩

theorem met_eretOut : Met .eretOut fun s b => (∀ m ∈ s.members b, s.outWaits b m = false) ∧
    ∀ x ∈ groupsOf s b, ∃ d, x.2.handler = some d ∧ d.cls = 0x17 ∧ d.restore = false :=
  met_of_test (on .eretOut (inHandler 0x17 false)) (f := fun s b m g => !s.outWaits b m && g.handler.any fun d => d.cls == 0x17 && !d.restore)
    (by decide +kernel) fun _ _ _ q hp => by
      simp only [Bool.and_eq_true, Bool.not_eq_true', Option.any_eq_true_iff_get, beq_iff_eq] at hp
      refine ⟨by simpa [q.members] using hp.1, q.each ?_⟩
      obtain ⟨h1, h2⟩ := hp.2
      exact ⟨_, (Option.some_get h1).symm, h2⟩

/-- R406: the highest index of an item and its bound. -/
theorem met_ctxRd : Met (.ctxRd 4 0x23 (.imm 3)) fun s b => InHandler s b ∧ ∀ x ∈ groupsOf s b, resetValue x.2 (.imm 3) < (ctxIndices (0x23 : Fin 128).val).getD 0 :=
  met_handler (on (.ctxRd 4 0x23 (.imm 3)) (inHandler 0x16 false)) (by decide +kernel)
theorem met_ctxWr : Met (.ctxWr 0x23 4 (.imm 3)) fun s b => InHandler s b ∧ ∀ x ∈ groupsOf s b, resetValue x.2 (.imm 3) < 4 :=
  met_handler (on (.ctxWr 0x23 4 (.imm 3)) (inHandler 0x16 false)) (by decide +kernel)
theorem met_ctxWr_sticky : Met (.ctxWr 0x24 4 (.imm 0)) fun s b => InHandler s b ∧ ∀ x ∈ groupsOf s b, resetValue x.2 (.imm 0) < 1 :=
  met_handler (on (.ctxWr 0x24 4 (.imm 0)) (inHandler 0x16 false)) (by decide +kernel)
theorem met_ctxWr_seed : Met (.ctxWr 0x25 4 (.imm 1)) fun s b => InHandler s b ∧ ∀ x ∈ groupsOf s b, resetValue x.2 (.imm 1) < 2 :=
  met_handler (on (.ctxWr 0x25 4 (.imm 1)) (inHandler 0x16 false)) (by decide +kernel)
theorem met_ctxRdv : Met (.ctxRdv 8 0) fun s b => InHandler s b ∧ InAllot s b (infoOf (.ctxRdv 8 0)) ∧ ∀ m ∈ s.members b, s.shadowWaits (0 : Fin 128).val b m = false :=
  met_of_test (on (.ctxRdv 8 0) (inHandler 0x16 false)) (f := fun s b m g => g.handler.isSome && (((infoOf (.ctxRdv 8 0)).names b.pfx).all g.inAllot && !s.shadowWaits 0 b m))
    (by decide +kernel) fun _ _ _ q hp => by
      rw [Bool.and_eq_true, Bool.and_eq_true, Bool.not_eq_true'] at hp
      exact ⟨q.all hp.1, q.all hp.2.1, by simpa [q.members] using hp.2.2⟩
/-- A call depth of 0 is within every stack. -/
theorem met_ctxWrv : Met (.ctxWrv 2 9) fun s b => InHandler s b ∧ (∀ m ∈ s.members b, s.shadowWaits (2 : Fin 128).val b m = false) ∧
    ∀ x ∈ groupsOf s b, x.2.inAllot (9 : Fin 128).val = true ∧
    ((2 : Fin 128).val = 2 → ∀ l : Lane, (x.2.threads[l]).gone = false → ((x.2.threads[l]).lane x.2.ring (9 : Fin 128).val).toNat ≤ s.depthLimit x.2) :=
  met_of_test (on (.ctxWrv 2 9) (inHandler 0x16 false)) (f := fun s b m g => g.handler.isSome && (!s.shadowWaits 2 b m && decide (g.inAllot (9 : Fin 128).val = true ∧
      ((2 : Fin 128).val = 2 → ∀ l : Lane, (g.threads[l]).gone = false → ((g.threads[l]).lane g.ring (9 : Fin 128).val).toNat ≤ s.depthLimit g))))
    (by decide +kernel) fun _ _ _ q hp => by
      rw [Bool.and_eq_true, Bool.and_eq_true, Bool.not_eq_true'] at hp
      exact ⟨q.all hp.1, by simpa [q.members] using hp.2.1, q.each (of_decide_eq_true hp.2.2)⟩

theorem met_ctxSave : Met (.ctxSave 31) fun s b => ∃ m g d, s.members b = [m] ∧ s.group? b.core m.slot = some g ∧ g.handler = some d ∧ d.cls = 0x17 ∧
    d.restore = false ∧ s.outWaits b m = false :=
  met_of_test (on (.ctxSave 31) (inHandler 0x17 false)) (f := fun s b m g => !s.outWaits b m && g.handler.any fun d => d.cls == 0x17 && !d.restore)
    (by decide +kernel) fun _ m g q hp => by
      simp only [Bool.and_eq_true, Bool.not_eq_true', Option.any_eq_true_iff_get, beq_iff_eq] at hp
      obtain ⟨h0, h1, h2⟩ := hp
      exact ⟨m, g, _, q.members, q.group, (Option.some_get h1).symm, h2.1, h2.2, h0⟩

/-! ### Witnesses: segments, records and memory -/

theorem met_segld : Met (.segld 6 20) fun s b => InHandler s b ∧ ∀ x ∈ groupsOf s b, (four x.2 (20 : Fin 128).val).extractLsb' 121 7 = 0 ∧
    (four x.2 (20 : Fin 128).val).extractLsb' 58 6 = 0 ∧ ((6 : Fin 8) = 6 → (four x.2 (20 : Fin 128).val).getLsbD 57 = true) :=
  met_handler (on (.segld 6 20) (inHandler 0x16 false ∘ withS 21 0x02000000)) (by decide +kernel)
theorem met_segrd : Met (.segrd 20 6) InHandler :=
  met_of_test (on (.segrd 20 6) (inHandler 0x16 false)) (f := fun _ _ _ g => g.handler.isSome) (by decide +kernel) fun _ _ _ q hp => q.all hp
theorem met_recld : Met (.recld 2 8) fun _ _ => True := met_any (on (.recld 2 8)) (by decide +kernel)
/-- R187: the highest values that the forms of RECSET accept. -/
theorem met_recsetBase : Met (.recsetBase 2 8 9) fun s b => ∀ x ∈ groupsOf s b, (x.2.s[(9 : Fin 128).val]).toNat < 2 ^ 25 :=
  met_groups (on (.recsetBase 2 8 9) (withS 9 0x1FFFFFF)) (by decide +kernel)
theorem met_recsetStride : Met (.recsetStride 2 (.reg 9)) fun s b => ∀ x ∈ groupsOf s b, resetValue x.2 (.reg 9) ≤ 0xFFFF :=
  met_groups (on (.recsetStride 2 (.reg 9)) (withS 9 0xFFFF)) (by decide +kernel)
theorem met_recsetSwz : Met (.recsetSwz 2 (.imm 15)) fun s b => ∀ x ∈ groupsOf s b, resetValue x.2 (.imm 15) ≤ 15 :=
  met_groups (on (.recsetSwz 2 (.imm 15))) (by decide +kernel)
theorem met_recsetTag : Met (.recsetTag 2 (.imm 63)) fun s b => ∀ x ∈ groupsOf s b, resetValue x.2 (.imm 63) ≤ 63 :=
  met_groups (on (.recsetTag 2 (.imm 63))) (by decide +kernel)
theorem met_recsetFmt : Met (.recsetFmt 2 (.imm 127)) fun s b => ∀ x ∈ groupsOf s b, resetValue x.2 (.imm 127) ≤ 127 :=
  met_groups (on (.recsetFmt 2 (.imm 127))) (by decide +kernel)
/-! ### Witnesses: memory words -/

/-- A buffer record. -/
def record (base seg size extent stride swz flags tag : Nat) : BitVec 128 :=
  BitVec.ofNat 128 (base + seg * 2 ^ 57 + size * 2 ^ 61 + extent * 2 ^ 64 + stride * 2 ^ 96 + swz * 2 ^ 112 + flags * 2 ^ 116 + tag * 2 ^ 122)

/-- The group has the record `r` in b4, and 65,536 bytes in each segment. -/
def withRecord (r : BitVec 128) (g : Group) : Group :=
  { g with b := g.b.set (4 : Fin 32) r, seg := Vector.replicate 8 (segOf 0 65536 false) }

/-- Each thread of the group has its lane number, times `n`, in v12. -/
def indexed (n : Nat) (g : Group) : Group :=
  { g with threads := Vector.ofFn fun l : Fin 32 => { g.threads[l] with v := (g.threads[l]).v.set (12 : Fin 128) (BitVec.ofNat 32 (n * l.val)) } }

/-- Core 0 has a partition of the scratch, and a translation of the first pages. -/
def withMemory (s : State) : State :=
  s.modCore 0 fun x => { x with part := 65536, tlb := [⟨0, 0, 21, commonBase, 0, none, true, true, .none⟩] }

theorem settled_of_test {s : State} (h : s.hist.isEmpty = true) : ScratchSettled s := by
  intro v hv
  rw [List.isEmpty_iff.mp h] at hv
  cases hv

/-- The condition `InScratch`, as a test. -/
def inScratchTest (g : Group) (r : Fin 32) (write : Bool) (size : Nat) (n : Int) : Bool :=
  (Rec.of g.b[r]).seg == 2 && (Rec.of g.b[r]).legal false && decide (size ≤ 2 ^ (Rec.of g.b[r]).size) &&
  (!write || (!(Rec.of g.b[r]).ro && !segReadOnly (g.seg[2]))) && decide (0 ≤ n ∧ n < (Rec.of g.b[r]).extent) &&
  decide ((Rec.of g.b[r]).offset n.toNat + size ≤ segLimit (g.seg[2])) && decide ((Rec.of g.b[r]).offset n.toNat % size = 0)

theorem inScratch_of_test {g : Group} {r : Fin 32} {write : Bool} {size : Nat} {n : Int} (h : inScratchTest g r write size n = true) :
    InScratch g r write size n := by
  simp only [inScratchTest, Bool.and_eq_true, decide_eq_true_eq, beq_iff_eq, Bool.or_eq_true, Bool.not_eq_true'] at h
  obtain ⟨⟨⟨⟨⟨⟨h1, h2⟩, h3⟩, h4⟩, h5⟩, h6⟩, h7⟩ := h
  exact ⟨h1, h2, h3, fun w => by simpa [w] using h4, h5, h6, h7⟩

/-- The condition of `LanesInScratch` on one group, as a test. -/
def lanesInScratchTest (s : State) (b : Bundle) (e : Ext) (r : Fin 32) (i : Fin 128) (write : Bool) (m : Member) (g : Group) : Bool :=
  (s.team? g.team).isSome && (Rec.of g.b[r]).legal false && decide (2 ≤ (Rec.of g.b[r]).size) && (!write || !(Rec.of g.b[r]).ro) &&
  (List.finRange 32).all fun l => !g.active m (prefixOf b) l || (positions e).all fun p => inScratchTest g r write 4 (((g.threads[l]).lane g.ring i.val).toInt + (p : Int))

theorem lanesInScratch_of_test {s : State} {b : Bundle} {m : Member} {g : Group} {e : Ext} {r : Fin 32} {i : Fin 128} {write : Bool} (q : Sole s b m g)
    (h : lanesInScratchTest s b e r i write m g = true) : LanesInScratch s b e r i write := by
  refine q.each ?_
  simp only [lanesInScratchTest, Bool.and_eq_true, decide_eq_true_eq, Bool.or_eq_true, Bool.not_eq_true', List.all_eq_true, List.mem_finRange, forall_const] at h
  obtain ⟨⟨⟨⟨h1, h2⟩, h3⟩, h4⟩, h5⟩ := h
  refine ⟨Option.isSome_iff_exists.mp h1, h2, h3, fun w => by simpa [w] using h4, ?_⟩
  intro l hl p hp
  rcases h5 l with h | h
  · rw [hl] at h
    cases h
  · exact inScratch_of_test (h p hp)

theorem met_ld_scratch : Met (.ld 1 8 4 4 12) fun s b => AtRest s b ∧ InAllot s b (infoOf (.ld 1 8 4 4 12)) ∧ LanesInScratch s b 1 4 12 false ∧ ScratchSettled s ∧ (prefixOf b).rnd = 0 :=
  met_rest (withMemory (on (.ld 1 8 4 4 12) (withRecord (record 64 2 2 160 0 2 0 8) ∘ indexed 5)))
    (f := fun s b m g => ((infoOf (.ld 1 8 4 4 12)).names b.pfx).all g.inAllot && lanesInScratchTest s b 1 4 12 false m g && s.hist.isEmpty && (prefixOf b).rnd == 0)
    (by decide +kernel) fun _ _ _ q hp => by
      rw [Bool.and_eq_true, Bool.and_eq_true, Bool.and_eq_true, beq_iff_eq] at hp
      exact ⟨q.all hp.1.1.1, lanesInScratch_of_test q hp.1.1.2, settled_of_test hp.1.2, hp.2⟩

theorem met_st_scratch : Met (.st 0 8 4 4 12) fun s b => InAllot s b (infoOf (.st 0 8 4 4 12)) ∧ LanesInScratch s b 0 4 12 true ∧ ScratchSettled s ∧ (prefixOf b).rnd = 0 :=
  met_of_test (withMemory (on (.st 0 8 4 4 12) (withRecord (record 64 2 2 32 0 0 0 8) ∘ indexed 1)))
    (f := fun s b m g => ((infoOf (.st 0 8 4 4 12)).names b.pfx).all g.inAllot && lanesInScratchTest s b 0 4 12 true m g && s.hist.isEmpty && (prefixOf b).rnd == 0)
    (by decide +kernel) fun _ _ _ q hp => by
      rw [Bool.and_eq_true, Bool.and_eq_true, Bool.and_eq_true, beq_iff_eq] at hp
      exact ⟨q.all hp.1.1.1, lanesInScratch_of_test q hp.1.1.2, settled_of_test hp.1.2, hp.2⟩

theorem met_lda_scratch : Met (.lda 0 8 4 7 12) fun s b => AtRest s b ∧ InAllot s b (infoOf (.lda 0 8 4 7 12)) ∧ LanesInScratch s b 0 4 12 false ∧
    ScratchSettled s ∧ (∀ x ∈ groupsOf s b, x.2.engineHeld = false) ∧ ∀ x ∈ groupsOf s b, ∀ y, s.team? x.2.team = some y → (s.cores[y.core]).part % 4 = 0 :=
  met_rest (withMemory (on (.lda 0 8 4 7 12) (withRecord (record 64 2 2 32 0 0 0 8) ∘ indexed 1)))
    (f := fun s b m g => ((infoOf (.lda 0 8 4 7 12)).names b.pfx).all g.inAllot && lanesInScratchTest s b 0 4 12 false m g && (s.hist.isEmpty && !g.engineHeld) &&
      (s.team? g.team).all fun y : Team => (s.cores[y.core]).part % 4 == 0)
    (by decide +kernel) fun _ _ _ q hp => by
      rw [Bool.and_eq_true, Bool.and_eq_true, Bool.and_eq_true, Bool.and_eq_true, Bool.not_eq_true'] at hp
      refine ⟨q.all hp.1.1.1, lanesInScratch_of_test q hp.1.1.2, settled_of_test hp.1.2.1, q.each hp.1.2.2, q.each fun y hy => ?_⟩
      have := hp.2
      simpa [hy] using this

/-- R206: the last element of the record, whose 16 bytes end at the segment's limit. -/
theorem met_uld_scratch : Met (.uld128 20 9 4) fun s b => AtRest s b ∧ GroupInScratch s b 4 9 false 16 :=
  met_rest (withMemory (on (.uld128 20 9 4) (withRecord (record 0 2 4 4096 0 0 0 8) ∘ withS 9 4095)))
    (f := fun s _ _ g => s.hist.isEmpty && ((s.team? g.team).isSome && inScratchTest g 4 false 16 (g.s[(9 : Fin 128).val]).toInt))
    (by decide +kernel) fun _ _ _ q hp => by
      rw [Bool.and_eq_true, Bool.and_eq_true] at hp
      exact ⟨settled_of_test hp.1, q.each ⟨Option.isSome_iff_exists.mp hp.2.1, inScratch_of_test hp.2.2⟩⟩
theorem met_ust_scratch : Met (.ust8 20 9 4) fun s b => GroupInScratch s b 4 9 true 1 :=
  met_of_test (withMemory (on (.ust8 20 9 4) (withRecord (record 0 2 0 100 0 0 0 8) ∘ withS 9 0)))
    (f := fun s _ _ g => s.hist.isEmpty && ((s.team? g.team).isSome && inScratchTest g 4 true 1 (g.s[(9 : Fin 128).val]).toInt))
    (by decide +kernel) fun _ _ _ q hp => by
      rw [Bool.and_eq_true, Bool.and_eq_true] at hp
      exact ⟨settled_of_test hp.1, q.each ⟨Option.isSome_iff_exists.mp hp.2.1, inScratch_of_test hp.2.2⟩⟩

/-- R190: an index that is just beyond the extent of a record with TRAPOOB fails a check, and the last one within it fails none. -/
theorem met_accessChecks : ∃ (g : Group) (a : Access) (n : Int), a.poss = [0] ∧ (Rec.of a.record).seg ≠ 3 ∧
    firstFailure g a n ((Rec.of a.record).offset n.toNat) = some 0x04 ∧ firstFailure g a (n - 1) ((Rec.of a.record).offset (n - 1).toNat) = none :=
  ⟨((on .exit (withRecord 0)).group? 0 0).get (by decide +kernel), laneAccess 0 4 0 (record 64 0 2 32 0 0 0x20 8), 32,
    by decide +kernel, by decide +kernel, by decide +kernel, by decide +kernel⟩

/-- R185: the lowest reserved swizzle code. -/
theorem met_swizzle : ∃ x : BitVec 128, 6 ≤ (x.extractLsb' 112 4).toNat := ⟨record 0 0 2 32 0 6 0 8, by decide +kernel⟩

/-- The checks of a word of the bundle's one group leave a state and elements that pass `f`. -/
theorem placed_of_test {i : Instr} {a : Member → Group → Access} {r : Nat} {n : Group → Lane → Int} (s : State) (f : State → List Passed → Bool)
    (h : readyTest s i (fun s b m g => g.handler.isNone && ((infoOf i).names b.pfx).all g.inAllot &&
      f (s.place b m r (a m g) (g.active m (prefixOf b)) (n g)).1 (s.place b m r (a m g) (g.active m (prefixOf b)) (n g)).2) = true) :
    ∃ s b m g p passed, Issues s b (infoOf i) ∧ InAllot s b (infoOf i) ∧ s.members b = [m] ∧ s.group? b.core m.slot = some g ∧ NoHandler s b ∧
      s.place b m r (a m g) (g.active m (prefixOf b)) (n g) = (p, passed) ∧ f p passed = true := by
  obtain ⟨s, b, hi, m, g, q, hp⟩ := met_of_test (W := fun s b => ∃ m g, Sole s b m g ∧ (g.handler.isNone && ((infoOf i).names b.pfx).all g.inAllot &&
      f (s.place b m r (a m g) (g.active m (prefixOf b)) (n g)).1 (s.place b m r (a m g) (g.active m (prefixOf b)) (n g)).2) = true) s h
    fun _ m g q hp => ⟨m, g, q, hp⟩
  rw [Bool.and_eq_true, Bool.and_eq_true] at hp
  exact ⟨s, b, m, g, _, _, hi, q.all hp.1.2, q.members, q.group, q.all (Option.isNone_iff_eq_none.mp hp.1.1), rfl, hp.2⟩

/-- Some lane has an element that passed and some lane lies out of bounds, and nothing is poisoned. -/
def someGood (s : State) (xs : List Passed) : Bool :=
  (xs.any fun q => !q.elems.isEmpty) && (xs.any fun q => !q.oob.isEmpty) && xs.all fun q => q.elems.all fun x => x.2.all fun y => !s.poisonedTarget y

/-- The words on memory issue, and a conversion exception is not a trap. -/
theorem met_ld : Met (.ld 0 8 4 4 12) fun s b => InAllot s b (infoOf (.ld 0 8 4 4 12)) :=
  met_of_test (withMemory (on (.ld 0 8 4 4 12) (withRecord (record 64 0 2 20 0 0 0 8) ∘ indexed 1))) (f := fun _ b _ g => ((infoOf (.ld 0 8 4 4 12)).names b.pfx).all g.inAllot)
    (by decide +kernel) fun _ _ _ q hp => q.all hp
theorem met_st : Met (.st 0 8 4 4 12) fun s b => InAllot s b (infoOf (.st 0 8 4 4 12)) ∧ s.cvxOn b.core = false :=
  met_of_test (withMemory (on (.st 0 8 4 4 12) (withRecord (record 64 0 2 20 0 0 0 8) ∘ indexed 1)))
    (f := fun s b _ g => ((infoOf (.st 0 8 4 4 12)).names b.pfx).all g.inAllot && !s.cvxOn b.core)
    (by decide +kernel) fun _ _ _ q hp => by
      rw [Bool.and_eq_true, Bool.not_eq_true'] at hp
      exact ⟨q.all hp.1, hp.2⟩
theorem met_memcWbl : ∃ s b m g p passed, Issues s b (infoOf (.memcWbl 12 4)) ∧ InAllot s b (infoOf (.memcWbl 12 4)) ∧ s.members b = [m] ∧ s.group? b.core m.slot = some g ∧
    NoHandler s b ∧ s.place b m 4 (lineAccess g.b[4]) (g.active m (prefixOf b)) (g.index 12) = (p, passed) ∧ someGood p passed = true :=
  placed_of_test (a := fun _ g => lineAccess g.b[4]) (n := fun g => g.index 12) (withMemory (on (.memcWbl 12 4) (withRecord (record 64 0 2 20 0 0 0 8) ∘ indexed 1)))
    someGood (by decide +kernel)
theorem met_amo : Met (.amoFCas 8 4 0 12) fun s b => InAllot s b (infoOf (.amoFCas 8 4 0 12)) :=
  met_of_test (withMemory (on (.amoFCas 8 4 0 12) (withRecord (record 64 0 2 20 0 0 1 8) ∘ indexed 1)))
    (f := fun _ b _ g => ((infoOf (.amoFCas 8 4 0 12)).names b.pfx).all g.inAllot) (by decide +kernel) fun _ _ _ q hp => q.all hp

theorem met_fence : Met .memcFence Executed :=
  met_of_test (on .memcFence id (some { rnd := 4, scope := 5 })) (f := fun _ b m g => (List.finRange 32).any fun l => g.active m (prefixOf b) l) (by decide +kernel) fun b m g q hp => by
    rw [List.any_eq_true] at hp
    obtain ⟨l, _, hl⟩ := hp
    exact ⟨(m, g), by simp [q.groups], l, hl⟩
theorem met_prefetch : Met (.memcPf 12 4) fun s b => InAllot s b (infoOf (.memcPf 12 4)) ∧ ∃ m g, s.members b = [m] ∧ s.group? b.core m.slot = some g :=
  met_of_test (withMemory (on (.memcPf 12 4) (withRecord (record 64 0 2 20 0 0 0 8) ∘ indexed 1))) (f := fun _ b _ g => ((infoOf (.memcPf 12 4)).names b.pfx).all g.inAllot)
    (by decide +kernel) fun _ m g q hp => ⟨q.all hp, m, g, q.members, q.group⟩
/-! ### Witnesses: atomic units, handles and crossbar patterns -/

/-- A state with one operation, of core 0 and slot 0, that has the work `w`. -/
def working (w : Work) (s : State := on .exit) : State := { s with ops := [⟨7, 0, 0, 1, 0, 0, false, 0, w, .none, .none⟩] }

/-- The bytes of memory from address `a` on. -/
def bytesAt (a : Nat) (bs : List Byte) (s : State) : State :=
  { s with mem := (bs.zipIdx.filter fun b => b.1 != 0).map fun b => (a + b.2, b.1) }

/-- An element of an atomic word of `n` bytes in common memory. -/
def element (op w v cmp n : Nat) : AtomicElem := ⟨0, 3, (List.range n).map fun i => .phys (commonBase + i) none, false, false, false, .none, [], 64, op, w, v, cmp, [8]⟩

/-- A compare and exchange of a 64-bit value, the highest. -/
theorem met_amoUpdate : ∃ (s : State) (e : AtomicElem), PlainElem s e ∧ Sized e ∧ Alone s e.targets ∧ e.w < 5 ∧ e.op < 8 :=
  ⟨on .exit, element 7 4 (2 ^ 64 - 1) 0 8, ⟨by decide +kernel, by decide +kernel⟩, ⟨by decide +kernel, by decide +kernel⟩,
    ⟨by decide +kernel, by decide +kernel, by decide +kernel⟩, by decide +kernel, by decide +kernel⟩

theorem met_amoCell : ∃ (s : State) (e : AtomicElem) (pa : Nat) (key : Option (Fin 8)) (ts : List Target), e.cell = true ∧ e.targets = .phys pa key :: ts ∧
    e.targets.any s.poisonedTarget = false ∧ e.w = 2 :=
  ⟨on .exit, { element 0 2 0x7F800001 0 4 with cell := true }, _, _, _, rfl, rfl, by decide +kernel, rfl⟩

/-- R239, R245: the cell of team 0 with the limit 10, and that of team 1. -/
noncomputable def reserving (team : Byte) : State := bytesAt (commonBase + 4) [10, 0, 0, 0, team] (on .exit)

/-- R245: the conditions of a reservation of `v` under which team 0 finds the words that `f` accepts. -/
def Reserves (s : State) (v : Nat) (f : Nat → (Nat → Nat) → Bool) : Prop :=
  let e := element 0 5 v 0 16
  (PlainElem s e ∧ e.targets.length = 16 ∧ Alone s (e.targets.take 4) ∧ ∀ x ∈ e.targets, s.unwritten x = false) ∧ ∃ g t, s.group? 0 e.slot = some g ∧
    s.team? g.team = some t ∧ f t.index (fun n => foundIn s ((e.targets.drop (4 * n)).take 4)) = true

theorem reserves_of_test {s : State} {v : Nat} {f : Nat → (Nat → Nat) → Bool}
    (h : ((element 0 5 v 0 16).targets.any s.poisonedTarget = false ∧ (∀ v ∈ s.hist, ∀ t ∈ (element 0 5 0 0 16).targets.take 4, v.place ≠ t.spot.1) ∧
      ∀ x ∈ (element 0 5 0 0 16).targets, s.unwritten x = false))
    (hg : ((s.group? 0 0).any fun g => (s.team? g.team).any fun t => f t.index fun n => foundIn s (((element 0 5 v 0 16).targets.drop (4 * n)).take 4)) = true) : Reserves s v f := by
  obtain ⟨h1, h2, h3⟩ := h
  rw [Option.any_eq_true_iff_get] at hg
  obtain ⟨g1, hg⟩ := hg
  rw [Option.any_eq_true_iff_get] at hg
  obtain ⟨g2, hg⟩ := hg
  exact ⟨⟨⟨rfl, h1⟩, by simp [element], ⟨(by decide +kernel : ((element 0 5 0 0 16).targets.take 4).Nodup),
    (by decide +kernel : ∀ t ∈ (element 0 5 0 0 16).targets.take 4, ∀ u ∈ (element 0 5 0 0 16).targets.take 4, t.sameBlock u = true), h2⟩, h3⟩, _, _, (Option.some_get g1).symm, (Option.some_get g2).symm, hg⟩

/-- An amount that takes the cell exactly to its limit; the next amount; and the cell of another team. -/
theorem met_reservation : Reserves (reserving 0) 10 fun i w => w 2 == i && w 3 == 0 && decide (w 0 ≤ w 1) && decide (10 ≤ w 1 - w 0) :=
  reserves_of_test (by decide +kernel) (by decide +kernel)
theorem met_reservation_beyond : Reserves (reserving 0) 11 fun i w => w 2 == i && w 3 == 0 && decide (w 1 - w 0 < 11) :=
  reserves_of_test (by decide +kernel) (by decide +kernel)
theorem met_reservation_team : Reserves (reserving 1) 0 fun i w => w 2 != i := reserves_of_test (by decide +kernel) (by decide +kernel)

/-- The first sector of common memory is poisoned. -/
def poisonedState (s : State) : State := { s with poison := [(s.locOf commonBase / 32, 0)] }

theorem met_poisonedElement : ∃ (s : State) (e : AtomicElem), e.targets.any s.poisonedTarget = true := ⟨poisonedState (on .exit), element 0 0 1 0 4, by decide +kernel⟩

theorem met_poisonReport : ∃ (s : State) (o : Op), s.op? 7 = some o ∧ o.work = .report [(0, 3, 64)] := ⟨working (.report [(0, 3, 64)]), _, rfl, rfl⟩

/-- Elements on two lines: the second is performed, the first is left. -/
theorem met_amoPerformed : ∃ (s : State) (o : Op) (e : AtomicElem) (es : List AtomicElem), s.op? 7 = some o ∧ o.work = .atomic es 1 ⟨3, []⟩ ∧ es[1]? = some e ∧
    (es.filter fun x => x.line != e.line) ≠ [] :=
  ⟨working (.atomic [{ element 0 0 1 0 4 with targets := [.scratch 0 0] }, element 0 0 2 0 4] 1 ⟨3, []⟩), _, _, _, rfl, rfl, rfl, by decide +kernel⟩

theorem met_bredPerformed : ∃ (s : State) (o : Op) (e : AtomicElem) (es : List AtomicElem) (us : List (List AtomicElem)), s.op? 7 = some o ∧
    o.work = .bred us 4 ⟨3, []⟩ ∧ us[0]? = some (e :: es) := ⟨working (.bred [[element 5 1 3 0 4, element 5 1 5 0 4]] 4 ⟨3, []⟩), _, _, _, _, rfl, rfl, rfl⟩

theorem met_bredUpdate : ∃ (s : State) (e : AtomicElem) (es : List AtomicElem), (∀ x ∈ e :: es, x.op = e.op ∧ x.w = e.w ∧ Sized x) ∧ e.w < 5 ∧ e.op < 6 ∧
    PlainElem s e ∧ Alone s e.targets :=
  ⟨on .exit, element 5 1 3 0 4, [element 5 1 5 0 4], by simp [Sized, element], by decide +kernel, by decide +kernel, ⟨by decide +kernel, by decide +kernel⟩,
    ⟨by decide +kernel, by decide +kernel, by decide +kernel⟩⟩

/-- The team's instance 5 of a handle is changed, of input stream 1 or output stream 2. -/
def withHandle (f : Handle → Handle) (s : State) : State :=
  { s with
    teams := s.teams.map fun t => { t with handles := t.handles.set (5 : Fin 32) (f t.handles[(5 : Fin 32)]), size := 4096, base := 128 }
    launches := s.launches.map fun l => { l with kernel := { l.kernel with
      inputs := l.kernel.inputs.set (1 : Fin 8) (some ⟨4, 0x08, 4, 3, 128, 0⟩), outputs := l.kernel.outputs.set (2 : Fin 4) (some ⟨4, 0x08, 4, 3, 128, 0⟩) } } }

/-- An instance that is declared. -/
def instanceOf (out : Bool) (st : HState) (h : Handle) : Handle := { h with declared := true, out := out, st := st, stream := if out then 2 else 1, tile := some 4 }

/-- The instance 5 of the group's team passes a test. -/
def handleTest (s : State) (g : Group) (f : Handle → Bool) : Bool := (s.handleOf g 5).any fun x => f x.2

theorem exists_handle {s : State} {g : Group} {f : Handle → Bool} (h : handleTest s g f = true) : ∃ t h, s.handleOf g 5 = some (t, h) ∧ f h = true := by
  unfold handleTest at h
  rw [Option.any_eq_true_iff_get] at h
  obtain ⟨h1, h2⟩ := h
  exact ⟨_, _, (Option.some_get h1).symm, h2⟩

theorem met_hwaitFull : Met (.hwaitFull 4 5) fun s b => ∀ x ∈ groupsOf s b, ∃ t h, s.handleOf x.2 5 = some (t, h) ∧ Answers h false ∧
    (h.eos = true ∨ (h.fault = false ∧ h.poison = false ∧ (h.cvx = false ∨ s.cvxOn b.core = false))) :=
  met_of_test (withHandle (instanceOf false .full) (on (.hwaitFull 4 5)))
    (f := fun s _ _ g => handleTest s g fun h => decide (h.declared = true ∧ h.out = false ∧ h.st = .full ∧ h.fault = false ∧ h.poison = false ∧ h.cvx = false))
    (by decide +kernel) fun _ _ _ q hp => by
      obtain ⟨t, h, e, p⟩ := exists_handle hp
      obtain ⟨p1, p2, p3, p4, p5, p6⟩ := of_decide_eq_true p
      exact q.each ⟨t, h, e, ⟨p1, p2, by simp [p3]⟩, .inr ⟨p4, p5, .inl p6⟩⟩

theorem met_hwaitFree_waits : Met (.hwaitFree 4 5) fun s b => ∀ x ∈ groupsOf s b, ∃ t h, s.handleOf x.2 5 = some (t, h) ∧ h.declared = true ∧ h.out = true ∧ ¬Answers h true :=
  met_of_test (withHandle (instanceOf true .draining) (on (.hwaitFree 4 5)))
    (f := fun s _ _ g => handleTest s g fun h => decide (h.declared = true ∧ h.out = true ∧ h.st = .draining)) (by decide +kernel) fun _ _ _ q hp => by
      obtain ⟨t, h, e, p⟩ := exists_handle hp
      obtain ⟨p1, p2, p3⟩ := of_decide_eq_true p
      exact q.each ⟨t, h, e, p1, p2, by simp [Answers, p3]⟩

/-- R261: an output instance under `hwait.full`. -/
theorem met_hwaitFull_wrong : Met (.hwaitFull 4 5) fun s b => NoHandler s b ∧ ∀ x ∈ groupsOf s b, ∃ t h, s.handleOf x.2 5 = some (t, h) ∧ (h.declared = false ∨ h.out ≠ false) :=
  met_of_test (withHandle (instanceOf true .free) (on (.hwaitFull 4 5)))
    (f := fun s _ _ g => g.handler.isNone && handleTest s g fun h => h.out) (by decide +kernel) fun _ _ _ q hp => by
      rw [Bool.and_eq_true] at hp
      obtain ⟨t, h, e, p⟩ := exists_handle hp.2
      exact ⟨q.all (Option.isNone_iff_eq_none.mp hp.1), q.each ⟨t, h, e, .inr (by simp [p])⟩⟩

theorem met_hrel : Met (.hrel 5) fun s b => ∃ m g t h, s.members b = [m] ∧ s.group? b.core m.slot = some g ∧ s.handleOf g 5 = some (t, h) ∧
    h.declared = true ∧ h.out = false ∧ h.st = .full ∧ s.hrelWaits 5 b m = false :=
  met_of_test (withHandle (instanceOf false .full) (on (.hrel 5)))
    (f := fun s b m g => (handleTest s g fun h => decide (h.declared = true ∧ h.out = false ∧ h.st = .full)) && !s.hrelWaits 5 b m) (by decide +kernel)
    fun _ m g q hp => by
      rw [Bool.and_eq_true, Bool.not_eq_true'] at hp
      obtain ⟨t, h, e, p⟩ := exists_handle hp.1
      obtain ⟨p1, p2, p3⟩ := of_decide_eq_true p
      exact ⟨m, g, t, h, q.members, q.group, e, p1, p2, p3, hp.2⟩

theorem met_hcommit : Met (.hcommit 5) fun s b => ∃ m g t h f, s.members b = [m] ∧ s.group? b.core m.slot = some g ∧ s.handleOf g 5 = some (t, h) ∧
    h.declared = true ∧ h.out = true ∧ h.st = .free ∧ s.flow t h = some f :=
  met_of_test (withHandle (instanceOf true .free) (on (.hcommit 5)))
    (f := fun s _ _ g => (s.handleOf g 5).any fun x => decide (x.2.declared = true ∧ x.2.out = true ∧ x.2.st = .free) && (s.flow x.1 x.2).isSome) (by decide +kernel)
    fun _ m g q hp => by
      rw [Option.any_eq_true_iff_get] at hp
      obtain ⟨h1, h2⟩ := hp
      rw [Bool.and_eq_true] at h2
      obtain ⟨p1, p2, p3⟩ := of_decide_eq_true h2.1
      exact ⟨m, g, _, _, _, q.members, q.group, (Option.some_get h1).symm, p1, p2, p3, (Option.some_get h2.2).symm⟩

theorem met_hqry : Met (.hqry 4 5) fun s b => ∀ x ∈ groupsOf s b, ∃ t h, s.handleOf x.2 5 = some (t, h) :=
  met_of_test (withHandle (instanceOf true .free) (on (.hqry 4 5))) (f := fun s _ _ g => handleTest s g fun _ => true) (by decide +kernel) fun _ _ _ q hp => by
    obtain ⟨t, h, e, _⟩ := exists_handle hp
    exact q.each ⟨t, h, e⟩
theorem met_hqryCore : Met (.hqryCore 4) fun s b => ∀ x ∈ groupsOf s b, (s.team? x.2.team).isSome = true := met_groups (on (.hqryCore 4)) (by decide +kernel)

theorem met_xbar : Met (.xbar 0 4 (.v 5) 15) fun s b => AtRest s b ∧ InAllot s b (infoOf (.xbar 0 4 (.v 5) 15)) :=
  met_rest (on (.xbar 0 4 (.v 5) 15)) (f := fun _ b _ g => ((infoOf (.xbar 0 4 (.v 5) 15)).names b.pfx).all g.inAllot) (by decide +kernel) fun _ _ _ q hp => q.all hp

/-- The lines of a pattern have been met below the L1, and its elements loaded. -/
def patternMet (b : Bundle) (g : Group) (p : State) (q : Passed) : State :=
  p.touchAll (corePort b.core) (Rec.of g.b[4]).comp false (p.missing b.core (segCached (Rec.of g.b[4]).seg) (q.elems.flatMap fun e => e.2))
def patternLoaded (b : Bundle) (m : Member) (g : Group) (u : State) (q : Passed) : State :=
  let w := (q.elems.foldl (patternElem b m (Rec.of g.b[4]) (u.pastOf b.core m.slot m.sel)) (u, [], [])).1
  if segCached (Rec.of g.b[4]).seg then w.fillAll b.core false (q.elems.flatMap fun e => e.2) else w

/-- A pattern of 128 bytes in memory. -/
theorem met_xpld : Met (.xpld 3 9 4) fun s b => ∃ m g p q, s.members b = [m] ∧ s.group? b.core m.slot = some g ∧ NoHandler s b ∧
    s.placeGroup b m 4 (g.xpldAccess g.b[4] (g.s[(9 : Fin 128).val]).toInt) (g.s[(9 : Fin 128).val]).toInt = (p, some q) ∧
    (∀ e ∈ q.elems, e.2.any (patternMet b g p q).poisonedTarget = false) ∧ Numbered (patternLoaded b m g (patternMet b g p q) q) :=
  met_of_test (withMemory (on (.xpld 3 9 4) (withRecord (record 128 0 2 64 0 0 0 8))))
    (f := fun s b m g => g.handler.isNone && match s.placeGroup b m 4 (g.xpldAccess g.b[4] (g.s[(9 : Fin 128).val]).toInt) (g.s[(9 : Fin 128).val]).toInt with
      | (p, some q) => let u := patternMet b g p q
        let v := patternLoaded b m g u q
        q.elems.length == 32 && (v.ops.all fun o => decide (o.id < v.nextId)) && q.elems.all fun e => !e.2.any u.poisonedTarget
      | _ => false) (by decide +kernel) fun b m g q hp => by
    rw [Bool.and_eq_true] at hp
    obtain ⟨h1, h2⟩ := hp
    split at h2
    · next p x hx =>
      rw [Bool.and_eq_true, Bool.and_eq_true] at h2
      refine ⟨m, g, p, x, q.members, q.group, q.all (Option.isNone_iff_eq_none.mp h1), hx, fun e he => ?_, fun o ho => ?_⟩
      · have := List.all_eq_true.mp h2.2 e he
        simpa using this
      · exact of_decide_eq_true (List.all_eq_true.mp h2.1.2 o ho)
    · cases h2

/-! ### Witnesses: ply tapes -/

/-- The record of a tape of 32 frames in seg5. -/
def tapeRecord : BitVec 128 := record 1024 5 0 2048 0 0 0x10 0

/-- The group's tape stands at `st` with the records `rs`, none of which a lane has consumed. -/
def withTape (st : TapeState) (rs : List PlyRec) (g : Group) : Group :=
  { withRecord tapeRecord g with tape := { openedTape (Rec.of tapeRecord) false with st := st, recs := rs, pos := Vector.replicate 32 rs.length } }

/-- Mark frame 0, and a record of one frame after it: of kind 0 in slot 3, or of kind 1. -/
def mark0 : PlyRec := ⟨0, 1, 2, 0, 0, 0xFFFFFFFF, 0⟩
def oneFrame (kind : Nat) : PlyRec := ⟨1, 1, kind, if kind = 0 then 3 else 0, 0, 0xFFFFFFFF, 0⟩

/-- Frame 1 of the tape holds the record `r` with the payload `bs`. -/
def withFrame (r : PlyRec) (bs : List Byte) (s : State) : State := withMemory (bytesAt (commonBase + 1088) (r.frameBytes bs).flatten s)

theorem met_plycOpen : Met (.plycOpen 4) fun s b => ∃ m g u v w walks, OneGroup s b m g ∧ g.tape.st = .closed ∧ (Rec.of g.b[4]).tapeLegal = true ∧
    (Rec.of g.b[4]).base + (Rec.of g.b[4]).extent ≤ segLimit g.seg[5] ∧
    s.engineLines b.core m.slot g true (g.frameLines ((Rec.of g.b[4]).tape false) 0 1) = (u, w, false) ∧
    u.engineLines b.core m.slot g true (g.frameLines ((Rec.of g.b[4]).tape false) 0 1) = (v, walks, false) ∧ (walks.find? fun w => w.2 == .failure) = none :=
  met_of_test (withMemory (on (.plycOpen 4) (withRecord tapeRecord)))
    (f := fun s b m g => decide (g.tape.st = .closed) && (Rec.of g.b[4]).tapeLegal && decide ((Rec.of g.b[4]).base + (Rec.of g.b[4]).extent ≤ segLimit g.seg[5]) &&
      let ls := g.frameLines ((Rec.of g.b[4]).tape false) 0 1
      let r := s.engineLines b.core m.slot g true ls
      !r.2.2 && !(r.1.engineLines b.core m.slot g true ls).2.2 && ((r.1.engineLines b.core m.slot g true ls).2.1.find? fun w => w.2 == .failure).isNone)
    (by decide +kernel) fun b m g q hp => by
      simp only [Bool.and_eq_true, Bool.not_eq_true', Option.isNone_iff_eq_none, decide_eq_true_eq] at hp
      obtain ⟨⟨⟨h1, h2⟩, h3⟩, ⟨h4, h5⟩, h6⟩ := hp
      exact ⟨m, g, _, _, _, _, ⟨q.members, q.group⟩, h1, h2, h3, Prod.ext rfl (Prod.ext rfl h4), Prod.ext rfl (Prod.ext rfl h5), h6⟩

theorem met_plycRev : Met .plycRev fun s b => ∀ x ∈ groupsOf s b, x.2.tape.st = .recording := met_groups (on .plycRev (withTape .recording [mark0])) (by decide +kernel)
theorem met_plycRev_back : Met .plycRev fun s b => ∀ x ∈ groupsOf s b, x.2.tape.st = .replaying ∧ x.2.partly = false :=
  met_groups (on .plycRev (withTape .replaying [mark0, oneFrame 0])) (by decide +kernel)

theorem met_plycMark : Met (.plycMark 4) fun s b => ∃ m g u v, OneGroup s b m g ∧ g.tape.st = .recording ∧
    (∃ p w, s.recordPlan b.core m.slot (unsuppressed g) [] ((g.markRecording m).form s) = (u, p, w, false)) ∧
    u.recordFor b m (unsuppressed g) (g.markRecording m) = (v, true) :=
  met_of_test (withMemory (on (.plycMark 4) (withTape .recording [mark0])))
    (f := fun s b m g => decide (g.tape.st = .recording) && !(s.recordPlan b.core m.slot (unsuppressed g) [] ((g.markRecording m).form s)).2.2.2 &&
      ((s.recordPlan b.core m.slot (unsuppressed g) [] ((g.markRecording m).form s)).1.recordFor b m (unsuppressed g) (g.markRecording m)).2)
    (by decide +kernel) fun b m g q hp => by
      simp only [Bool.and_eq_true, Bool.not_eq_true', decide_eq_true_eq] at hp
      exact ⟨m, g, _, _, ⟨q.members, q.group⟩, hp.1.1, ⟨_, _, Prod.ext rfl (Prod.ext rfl (Prod.ext rfl hp.1.2))⟩, Prod.ext rfl hp.2⟩

/-- R330: a record that takes the last frames of the tape. -/
theorem met_plan : ∃ (t : Tape) (r : PlyRec), t.frames + r.nfr ≤ t.extent / 64 ∧ t.frames + r.nfr = t.extent / 64 :=
  ⟨openedTape (Rec.of tapeRecord) false, ⟨0, 31, 0, 3, 0, 1, 0⟩, by decide +kernel, by decide +kernel⟩

theorem met_plyPut : Met (.plyPut 0 3 (.v 5)) fun s b => ∃ m g u v, OneGroup s b m g ∧ (∀ n ∈ (infoOf (.plyPut 0 3 (.v 5))).blocks.flatMap Block.regs, g.inAllot n = true) ∧
    s.recordReady b (fun m g => if (putInfo 0 (.v 5)).blocks.flatMap Block.regs |>.all g.inAllot then some (g.putRecording m (prefixOf b) 0 3 (.v 5)) else none) = (u, true) ∧
    u.recordFor b m g (g.putRecording m (prefixOf b) 0 3 (.v 5)) = (v, true) :=
  met_of_test (withMemory (on (.plyPut 0 3 (.v 5)) (withTape .recording [mark0])))
    (f := fun s b m g => ((infoOf (.plyPut 0 3 (.v 5))).blocks.flatMap Block.regs).all g.inAllot &&
      let r := s.recordReady b fun m g => if (putInfo 0 (.v 5)).blocks.flatMap Block.regs |>.all g.inAllot then some (g.putRecording m (prefixOf b) 0 3 (.v 5)) else none
      r.2 && (r.1.recordFor b m g (g.putRecording m (prefixOf b) 0 3 (.v 5))).2)
    (by decide +kernel) fun b m g q hp => by
      rw [Bool.and_eq_true, Bool.and_eq_true] at hp
      exact ⟨m, g, _, _, ⟨q.members, q.group⟩, List.all_eq_true.mp hp.1, Prod.ext rfl hp.2.1, Prod.ext rfl hp.2.2⟩

theorem met_br_records : Met (.br 5 false true 3) fun s b => ∃ m g u v, OneGroup s b m g ∧ s.recordReady b (fun m g => some (g.brRecording m 5 false)) = (u, true) ∧
    u.recordFor b m g (g.brRecording m 5 false) = (v, true) :=
  met_of_test (withMemory (on (.br 5 false true 3) (withTape .recording [mark0])))
    (f := fun s b m g =>
      let r := s.recordReady b fun m g => some (g.brRecording m 5 false)
      r.2 && (r.1.recordFor b m g (g.brRecording m 5 false)).2)
    (by decide +kernel) fun b m g q hp => by
      rw [Bool.and_eq_true] at hp
      exact ⟨m, g, _, _, ⟨q.members, q.group⟩, Prod.ext rfl hp.1, Prod.ext rfl hp.2⟩

theorem met_noRecord : ∃ g : Group, g.tape.records = false ∧ g.tape.st ≠ .replaying :=
  ⟨((on .exit).group? 0 0).get (by decide +kernel), by decide +kernel, by decide +kernel⟩

/-- The condition of `Replays` on each lane, as a test. -/
def replayTest (s : State) (b : Bundle) (m : Member) (g : Group) (want : Option (Nat × Nat)) (lanes : Lane → Bool) : Bool :=
  let lines := g.recordLines g.tape (g.replayRecords lanes)
  let r := s.engineLines b.core m.slot g false lines
  let q := r.1.engineLines b.core m.slot g false lines
  let y := (q.1.modGroup b.core m.slot fun g => { g with refused := [] }).touchLines g.tape q.2.1 false
  !r.2.2 && !q.2.2 && (List.finRange 32).all fun l => !lanes l || match g.replayCheck want (y.recordGood g q.2.1 l) l with
    | .inr x => (decodedFrom g l x).all fun r => !recordLost g g.tape q.2.1 r && !y.recordPoison g g.tape q.2.1 r
    | .inl _ => false

theorem replays_of_test {s : State} {b : Bundle} {m : Member} {g : Group} {want : Option (Nat × Nat)} {lanes : Lane → Bool}
    (h : replayTest s b m g want lanes = true) : ∃ v walks found, Replays s v b m g want lanes walks found := by
  simp only [replayTest, Bool.and_eq_true, Bool.not_eq_true', List.all_eq_true, List.mem_finRange, forall_const, Bool.or_eq_true] at h
  obtain ⟨⟨h1, h2⟩, h3⟩ := h
  let r := s.engineLines b.core m.slot g false (g.recordLines g.tape (g.replayRecords lanes))
  let q := r.1.engineLines b.core m.slot g false (g.recordLines g.tape (g.replayRecords lanes))
  let y := (q.1.modGroup b.core m.slot fun g => { g with refused := [] }).touchLines g.tape q.2.1 false
  refine ⟨y, q.2.1, fun l => Sum.elim (fun _ => (0, mark0)) id (g.replayCheck want (y.recordGood g q.2.1 l) l), q.1, h1, Prod.ext rfl (Prod.ext rfl h2), rfl, ?_⟩
  intro l hl
  have := (h3 l).resolve_left (by simp [hl])
  split at this
  · next x hx =>
    have hx' : g.replayCheck want (y.recordGood g q.2.1 l) l = .inr x := hx
    simp only [hx', Sum.elim_inr, id]
    exact ⟨trivial, fun y hy => by simpa using List.all_eq_true.mp this y hy⟩
  · cases this

theorem met_plyGet : Met (.plyGet 0 8 3 3) fun s b => InAllot s b (infoOf (.plyGet 0 8 3 3)) ∧ ∃ m g, OneGroup s b m g ∧
    ∃ y walks found, Replays s y b m g (some (3, 0)) (g.active m (prefixOf b)) walks found :=
  met_of_test (withFrame (oneFrame 0) (plyPayload (List.replicate 32 0)) (on (.plyGet 0 8 3 3) (withTape .replaying [mark0, oneFrame 0])))
    (f := fun s b m g => ((infoOf (.plyGet 0 8 3 3)).names b.pfx).all g.inAllot && replayTest s b m g (some (3, 0)) (g.active m (prefixOf b)))
    (by decide +kernel) fun b m g q hp => by
      rw [Bool.and_eq_true] at hp
      exact ⟨q.all hp.1, m, g, ⟨q.members, q.group⟩, replays_of_test hp.2⟩

theorem met_plyBrx : Met (.plyBrx 3) fun s b => ∃ m g, OneGroup s b m g ∧ ∃ y walks found, Replays s y b m g none (fun l => hasBit m.sel l) walks found :=
  met_of_test (withFrame (oneFrame 1) (leBytes 4 5) (on (.plyBrx 3) (withTape .replaying [mark0, oneFrame 1])))
    (f := fun s b m g => replayTest s b m g none fun l => hasBit m.sel l)
    (by decide +kernel) fun b m g q hp => ⟨m, g, ⟨q.members, q.group⟩, replays_of_test hp⟩
/-! ### Witnesses: matrix engines -/

/-- A fresh tile, and one of integers. -/
def newTile (z32 : Bool) : Tile := ⟨z32, Vector.replicate 4096 .zero, false, 0, .none⟩

/-- The group has a configuration of two Z8 operands, two tiles, and register cv2 at `st` with a mask. -/
def withEngine (st : CvState) (mask : Word) (g : Group) : Group :=
  { holding 64 g with mcfg := 0x2490, tiles := [newTile false, newTile true], cv := g.cv.set (2 : Fin 8) { g.cv[(2 : Fin 8)] with mask := mask, st := st } }

/-- R276: the highest code of B that stands beside 0x24, and the next one. -/
theorem met_mcfg : Met (.mcfg 9) fun s b => ∀ x ∈ groupsOf s b, validConfig x.2.s[(9 : Fin 128)] = true :=
  met_groups (on (.mcfg 9) (withS 9 0x3240)) (by decide +kernel)
theorem met_mcfg_bad : Met (.mcfg 9) fun s b => NoHandler s b ∧ ∀ x ∈ groupsOf s b, validConfig x.2.s[(9 : Fin 128)] = false :=
  met_user (on (.mcfg 9) (withS 9 0x3640)) (by decide +kernel)
theorem met_mcfgRd : Met (.mcfgRd 9) fun _ _ => True := met_any (on (.mcfgRd 9)) (by decide +kernel)
theorem met_cvset : Met (.cvset 2 9) (Settable · · 2) :=
  met_groups (P := fun _ _ x => (x.2.cv[(2 : Fin 8)]).st = .empty ∨ (x.2.cv[(2 : Fin 8)]).st = .idle) (on (.cvset 2 9) (withEngine .idle 3)) (by decide +kernel)
theorem met_cvrd : Met (.cvrd 9 2) fun _ _ => True := met_any (on (.cvrd 9 2)) (by decide +kernel)

/-- The signing word. -/
def signing : Instr := .mma 1 2 (.v 0) (.v 32)

/-- The conditions of a signing of the lanes of one member on tile 1 through cv2, as a test: `open_` says that the register is OPEN. -/
def signTest (s : State) (b : Bundle) (m : Member) (g : Group) (open_ : Bool) : Bool :=
  let c := g.cv[(2 : Fin 8)]
  decide (b.members.map (s.trim b.core) = [m]) && decide ((m.sel ||| m.skip) &&& ~~~ c.mask = 0) &&
  if open_ then decide (c.st = .open_ ∧ c.fword = b.offset b.idx ∧ (m.sel ||| m.skip) &&& c.signed = 0)
  else decide (c.st = .idle) && decide (1 < g.tiles.length) && validConfig g.mcfg &&
    decide (∀ i : Fin 8, i ≠ 2 → (g.cv[i]).tile = 1 → (g.cv[i]).st = .empty ∨ (g.cv[i]).st = .idle) &&
    (Mcfg.of g.mcfg).all fun k => (g.mmaCheck (.v 0) k.a k.spa k.kj).isNone && (g.mmaCheck (.v 32) k.b 0 k.kj).isNone

theorem sign_of_test {s : State} {b : Bundle} {m : Member} {g : Group} {open_ : Bool} (q : Sole s b m g) (h : signTest s b m g open_ = true) :
    SoleGroup s b m g ∧ MaySign b m g 1 2 (.v 0) (.v 32) := by
  unfold signTest at h
  rw [Bool.and_eq_true, Bool.and_eq_true] at h
  obtain ⟨⟨h1, h2⟩, h3⟩ := h
  refine ⟨⟨of_decide_eq_true h1, q.group⟩, of_decide_eq_true h2, ?_⟩
  cases open_
  · left
    simp only [Bool.false_eq_true, if_false, Bool.and_eq_true, decide_eq_true_eq] at h3
    obtain ⟨⟨⟨⟨p1, p2⟩, p3⟩, p4⟩, p5⟩ := h3
    refine ⟨p1, p2, p3, p4, fun k hk => ?_⟩
    rw [hk] at p5
    simpa using p5
  · exact .inr (of_decide_eq_true h3)

/-- The first two lanes of the bundle. -/
def firstTwo (s : State) : State := { s with bundles := s.bundles.map fun b => { b with members := b.members.map fun m => { m with sel := 3 } } }

/-- The condition `AllSigned`, as a test. -/
def allSignedTest (g : Group) (c : Cv) : Bool := decide (∀ l : Lane, hasBit c.mask l = true → hasBit c.signed l = true ∨ (g.threads[l]).gone = true)

/-- The whole mask signs at once. -/
theorem met_mma_all : Met signing fun s b => ∃ m g, (SoleGroup s b m g ∧ MaySign b m g 1 2 (.v 0) (.v 32)) ∧ s.skippedOwes b = false ∧ AllSigned g (signedCv b m g 0 1 2 (.v 0) (.v 32)) ∧
    (s.quads[quadOf b.core]).entries.length < 32 :=
  met_of_test (on signing (withEngine .idle 0xFFFFFFFF))
    (f := fun s b m g => signTest s b m g false && !s.skippedOwes b && allSignedTest g (signedCv b m g 0 1 2 (.v 0) (.v 32)) && decide ((s.quads[quadOf b.core]).entries.length < 32))
    (by decide +kernel) fun _ m g q hp => by
      rw [Bool.and_eq_true, Bool.and_eq_true, Bool.and_eq_true, Bool.not_eq_true'] at hp
      have h : ∀ l : Lane, _ := of_decide_eq_true hp.1.2
      exact ⟨m, g, sign_of_test q hp.1.1.1, hp.1.1.2, h, of_decide_eq_true hp.2⟩

/-- Two lanes of a mask of three sign first. -/
theorem met_mma_some : Met signing fun s b => ∃ m g, (SoleGroup s b m g ∧ MaySign b m g 1 2 (.v 0) (.v 32)) ∧ s.skippedOwes b = false ∧ ¬AllSigned g (signedCv b m g 0 1 2 (.v 0) (.v 32)) :=
  met_of_test (firstTwo (on signing (withEngine .idle 7)))
    (f := fun s b m g => signTest s b m g false && !s.skippedOwes b && !hasBit (signedCv b m g 0 1 2 (.v 0) (.v 32)).signed 2 && hasBit (signedCv b m g 0 1 2 (.v 0) (.v 32)).mask 2 &&
      !(g.threads[(2 : Fin 32)]).gone)
    (by decide +kernel) fun _ m g q hp => by
      simp only [Bool.and_eq_true, Bool.not_eq_true'] at hp
      obtain ⟨⟨⟨⟨h1, h0⟩, h2⟩, h3⟩, h4⟩ := hp
      refine ⟨m, g, sign_of_test q h1, h0, fun h => ?_⟩
      rcases h 2 h3 with h | h
      · exact absurd h (by simpa using h2)
      · exact absurd h (by simpa using h4)

theorem met_mma_empty : Met signing fun s b => NoHandler s b ∧ ∃ m g, SoleGroup s b m g ∧ (g.cv[(2 : Fin 8)]).st = .empty ∧ m.skip = 0 :=
  met_of_test (on signing (withEngine .empty 0)) (f := fun s b m g => g.handler.isNone && decide (b.members.map (s.trim b.core) = [m] ∧ (g.cv[(2 : Fin 8)]).st = .empty ∧ m.skip = 0))
    (by decide +kernel) fun _ m g q hp => by
      rw [Bool.and_eq_true] at hp
      obtain ⟨h1, h2, h3⟩ := of_decide_eq_true hp.2
      exact ⟨q.all (Option.isNone_iff_eq_none.mp hp.1), m, g, ⟨h1, q.group⟩, h2, h3⟩

/-- The condition `TileFree` on one group, as a test. -/
def tileTest (s : State) (b : Bundle) (i : WordInfo) (n : Fin 16) (m : Member) (g : Group) : Bool :=
  (i.names b.pfx).all g.inAllot && decide (n.val < g.tiles.length ∧ (g.tiles.getD n.val Tile.fresh).err = 0) &&
  decide (∀ c : Fin 8, (g.cv[c]).tile = n.val → (g.cv[c]).st = .empty ∨ (g.cv[c]).st = .idle) &&
  ((s.quads[quadOf b.core]).entries.all fun e => !(e.core == b.core && e.slot == m.slot && e.tile == some n.val)) && (List.finRange 32).any (g.active m (prefixOf b))

theorem tileFree_of_test {s : State} {b : Bundle} {i : Instr} {n : Fin 16} {m : Member} {g : Group} (q : Sole s b m g) (h : tileTest s b (infoOf i) n m g = true) :
    TileFree s b i n := by
  unfold tileTest at h
  rw [Bool.and_eq_true, Bool.and_eq_true, Bool.and_eq_true, Bool.and_eq_true] at h
  obtain ⟨⟨⟨⟨h1, h2⟩, h3⟩, h4⟩, h5⟩ := h
  have h2 := of_decide_eq_true h2
  refine ⟨q.all h1, q.each ⟨h2.1, h2.2, of_decide_eq_true h3, fun e he => ?_, h5⟩⟩
  have := List.all_eq_true.mp h4 e he
  simp only [Bool.not_eq_true', Bool.and_eq_false_iff, beq_eq_false_iff_ne] at this
  exact fun h => by simp [h.1, h.2.1, h.2.2] at this

theorem met_macc {i : Instr} {n : Fin 16} (s : State) (h : readyTest s i (fun s b m g => tileTest s b (infoOf i) n m g && !s.cvxOn b.core) = true) :
    Met i fun s b => TileFree s b i n ∧ s.cvxOn b.core = false :=
  met_of_test s h fun _ _ _ q hp => by
    rw [Bool.and_eq_true, Bool.not_eq_true'] at hp
    exact ⟨tileFree_of_test q hp.1, hp.2⟩

theorem met_maccZero : Met (.maccZero 1) fun s b => TileFree s b (.maccZero 1) 1 ∧ s.cvxOn b.core = false :=
  met_macc (on (.maccZero 1) (withEngine .idle 3) (some { mod := 1 })) (by decide +kernel)
/-- The last rows of a tile. -/
theorem met_maccRd : Met (.maccRd 2 16 15 1) fun s b => TileFree s b (.maccRd 2 16 15 1) 1 ∧ s.cvxOn b.core = false :=
  met_macc (on (.maccRd 2 16 15 1) (withEngine .idle 3)) (by decide +kernel)
theorem met_maccWr : Met (.maccWr 1 16 15 1) fun s b => TileFree s b (.maccWr 1 16 15 1) 1 ∧ s.cvxOn b.core = false :=
  met_macc (on (.maccWr 1 16 15 1) (withEngine .idle 3)) (by decide +kernel)

/-- The conditions of a drain of tile 1 with token 3, as a test. -/
def drainTest (s : State) (b : Bundle) (m : Member) (g : Group) : Bool :=
  (List.finRange 32).any (g.active m (prefixOf b)) && decide (1 < g.tiles.length) &&
  decide (∀ c : Fin 8, (g.cv[c]).tile = 1 → (g.cv[c]).st = .empty ∨ (g.cv[c]).st = .idle) &&
  decide ((s.quads[quadOf b.core]).entries.length < 32) && !g.pendingToken 115 && decide (g.pendingCount < 16) && !(s.loading b.core m.slot g).contains 115

/-- A drain whose destination passes its checks. -/
theorem met_drain {i : Instr} {dst : Bundle → Group → Option DrainDst} (s : State) (h : readyTest s i (fun s b m g => drainTest s b m g && (dst b g).isSome) = true) :
    Met i fun s b => ∃ m g x, OneGroup s b m g ∧ (List.finRange 32).any (g.active m (prefixOf b)) = true ∧ 1 < g.tiles.length ∧
      (∀ c : Fin 8, (g.cv[c]).tile = 1 → (g.cv[c]).st = .empty ∨ (g.cv[c]).st = .idle) ∧ (s.quads[quadOf b.core]).entries.length < 32 ∧ g.pendingToken 115 = false ∧
      g.pendingCount < 16 ∧ (s.loading b.core m.slot g).contains 115 = false ∧ dst b g = some x :=
  met_of_test s h fun _ m g q hp => by
    unfold drainTest at hp
    simp only [Bool.and_eq_true, Bool.not_eq_true', decide_eq_true_eq] at hp
    obtain ⟨⟨⟨⟨⟨⟨⟨h1, h2⟩, h3⟩, h4⟩, h5⟩, h6⟩, h7⟩, h8⟩ := hp
    exact ⟨m, g, _, ⟨q.members, q.group⟩, h1, h2, h3, h4, h5, h6, h7, (Option.some_get h8).symm⟩

/-- R296: a destination that ends at the limit of seg2. -/
theorem met_maccDrs : Met (.maccDrs 3 20 1) fun s b => ∃ m g x, OneGroup s b m g ∧ (List.finRange 32).any (g.active m (prefixOf b)) = true ∧ 1 < g.tiles.length ∧
      (∀ c : Fin 8, (g.cv[c]).tile = 1 → (g.cv[c]).st = .empty ∨ (g.cv[c]).st = .idle) ∧ (s.quads[quadOf b.core]).entries.length < 32 ∧ g.pendingToken 115 = false ∧
      g.pendingCount < 16 ∧ (s.loading b.core m.slot g).contains 115 = false ∧ scratchDst 20 b g = some x :=
  met_drain (on (.maccDrs 3 20 1) (withS 20 49152 ∘ withS 21 256 ∘ withEngine .idle 3 ∘ withRecord 0)) (by decide +kernel)
theorem met_maccDrm : Met (.maccDrmZ 3 20 4 1) fun s b => ∃ m g x, OneGroup s b m g ∧ (List.finRange 32).any (g.active m (prefixOf b)) = true ∧ 1 < g.tiles.length ∧
      (∀ c : Fin 8, (g.cv[c]).tile = 1 → (g.cv[c]).st = .empty ∨ (g.cv[c]).st = .idle) ∧ (s.quads[quadOf b.core]).entries.length < 32 ∧ g.pendingToken 115 = false ∧
      g.pendingCount < 16 ∧ (s.loading b.core m.slot g).contains 115 = false ∧ recordDst 20 4 b g = some x :=
  met_drain (on (.maccDrmZ 3 20 4 1) (withS 21 64 ∘ withEngine .idle 3 ∘ withRecord (record 0 0 2 4000 0 0 0 8))) (by decide +kernel)

/-! ### Witnesses: calls, launches and tickets -/

/-- R300: a call of 4 rows of 16 columns on 2 vectors, from row 2 on, with its descriptor in s30 to s33. -/
def calling (g : Group) : Group :=
  let g := withRecord (record 0 0 0 40000 0 0 2 8) g
  withS 30 0x118A4 (withS 31 2 (withS 32 16 (withS 33 3
    { g with b := (g.b.set (5 : Fin 32) (record 1024 0 0 400 0 0 0 8)).set (6 : Fin 32) (record 2048 0 0 4000 0 0 0 8) })))

theorem met_mvx : Met (.mvxC 20 30) fun s b => ∃ m g u path p, OneGroup s b m g ∧
    let words : Vector Word 4 := #v[g.uni 30, g.uni 31, g.uni 32, g.uni 33]
    let x := MvxDesc.of words
    let th := if x.vh then s.handleOf g x.vsrc else none
    g.mvxCheck x (th.map (·.2)) (th.bind fun q => s.flow q.1 q.2) g.b[x.mrec] g.b[x.vsrc] g.b[x.orec] = .inl p ∧
    (s.releaseBy b 5).choosePath .core b.core g.ctx (s.steerOf g.ctx) p g.b[x.mrec] (g.segment (Rec.of g.b[x.mrec])) (List.range (x.nr + 1)) = (u, path) :=
  met_of_test (withMemory (on (.mvxC 20 30) calling)) (f := fun s _ _ g =>
      let words : Vector Word 4 := #v[g.uni 30, g.uni 31, g.uni 32, g.uni 33]
      let x := MvxDesc.of words
      let th := if x.vh then s.handleOf g x.vsrc else none
      (g.mvxCheck x (th.map (·.2)) (th.bind fun q => s.flow q.1 q.2) g.b[x.mrec] g.b[x.vsrc] g.b[x.orec]).isLeft)
    (by decide +kernel) fun b m g q hp => by
      obtain ⟨p, hp⟩ := Sum.isLeft_iff.mp hp
      exact ⟨m, g, _, _, p, ⟨q.members, q.group⟩, hp, rfl⟩

/-- R381: a record at the last place of seg0 that holds one. -/
theorem met_launch : Met (.launch 20 30) fun s b => ∃ m g, OneGroup s b m g ∧ ((g.uni ((30 : Fin 128).val + 1)).extractLsb' 0 25 ++ g.s[(30 : Fin 128)]).toNat % 64 = 0 ∧
    ((g.uni ((30 : Fin 128).val + 1)).extractLsb' 0 25 ++ g.s[(30 : Fin 128)]).toNat + 576 ≤ segLimit g.seg[(0 : Fin 8)] :=
  met_of_test (on (.launch 20 30) (withS 30 64960 ∘ withRecord 0)) (f := fun _ _ _ g =>
      decide (((g.uni ((30 : Fin 128).val + 1)).extractLsb' 0 25 ++ g.s[(30 : Fin 128)]).toNat % 64 = 0 ∧
        ((g.uni ((30 : Fin 128).val + 1)).extractLsb' 0 25 ++ g.s[(30 : Fin 128)]).toNat + 576 ≤ segLimit g.seg[(0 : Fin 8)]))
    (by decide +kernel) fun _ m g q hp => ⟨m, g, ⟨q.members, q.group⟩, of_decide_eq_true hp⟩

/-- The launch has a ticket at offset 256, with NEXT = `next`, and the team's number is 3. Page tables in the common memory map the first 2 MiB to the
common memory (R353, R354). -/
def withTicket (next : Nat) (s : State) : State :=
  let t := bytesAt (commonBase + 256) (leBytes 128 next ++ leBytes 128 (commonBase + 512 + 1) ++ leBytes 128 (commonBase + 640 + 1) ++ leBytes 128 (commonBase + 7)) { s with
    launches := s.launches.map fun l => { l with tkt := true, tktoff := 256, seg := Vector.replicate 8 (segOf 0 65536 false) }
    teams := s.teams.map fun t => { t with index := 3 } }
  withMemory { t with board := { t.board with roots := t.board.roots.set 0 (commonBase + 384) } }

/-- R395: NEXT as the acquire read of the ticket gives it. -/
def nextRead (b : Bundle) (m : Member) (l : Launch) (u : State) (pa : Nat) (key : Option (Fin 8)) : Nat :=
  leValue ((ticketRead b m (lineTargets pa key (l.counterVa l.tktoff) 8) u).2.take 4)

/-- The group has a launch with a ticket, and NEXT translates. `f` sees the number and NEXT. -/
def ticketTest (s : State) (b : Bundle) (m : Member) (g : Group) (write : Bool) (f : Nat → Nat → Bool) : Bool :=
  match s.launch? g.launch, s.team? g.team with
  | some l, some t => l.tkt && match s.translate (.core b.core) l.ctx (l.counterVa l.tktoff / 128 * 128) write with
    | (u, .ok pa key) => f t.index (nextRead b m l u pa key)
    | _ => false
  | _, _ => false

theorem met_ticket {i : Instr} {write : Bool} {f : Nat → Nat → Bool} (s : State) (h : readyTest s i (fun s b m g => ticketTest s b m g write f) = true) :
    Met i fun s b => ∃ m g l t u pa key, OneGroup s b m g ∧ HasTicket s g l t ∧
      s.translate (.core b.core) l.ctx (l.counterVa l.tktoff / 128 * 128) write = (u, .ok pa key) ∧ f t.index (nextRead b m l u pa key) = true :=
  met_of_test s h fun _ m g q hp => by
    unfold ticketTest at hp
    split at hp
    · next l t hl ht =>
      rw [Bool.and_eq_true] at hp
      obtain ⟨h1, h2⟩ := hp
      split at h2
      · next u pa key hu => exact ⟨m, g, l, t, u, pa, key, ⟨q.members, q.group⟩, ⟨hl, ht, h1⟩, hu, h2⟩
      · cases h2
    · cases hp

/-- R394, R395: NEXT has just reached the team, is one behind it, and is just past it. -/
theorem met_tktWait : Met (.tktWait 20) fun s b => ∃ m g l t u pa key, OneGroup s b m g ∧ HasTicket s g l t ∧
    s.translate (.core b.core) l.ctx (l.counterVa l.tktoff / 128 * 128) false = (u, .ok pa key) ∧ (t.index == nextRead b m l u pa key) = true :=
  met_ticket (f := fun t n => t == n) (withTicket 3 (on (.tktWait 20))) (by decide +kernel)
theorem met_tktWait_waits : Met (.tktWait 20) fun s b => ∃ m g l t u pa key, OneGroup s b m g ∧ HasTicket s g l t ∧
    s.translate (.core b.core) l.ctx (l.counterVa l.tktoff / 128 * 128) false = (u, .ok pa key) ∧ (t.index == nextRead b m l u pa key + 1) = true :=
  met_ticket (f := fun t n => t == n + 1) (withTicket 2 (on (.tktWait 20))) (by decide +kernel)
theorem met_tktPost : Met .tktPost fun s b => ∃ m g l t u pa key, OneGroup s b m g ∧ HasTicket s g l t ∧
    s.translate (.core b.core) l.ctx (l.counterVa l.tktoff / 128 * 128) true = (u, .ok pa key) ∧ (t.index == nextRead b m l u pa key) = true :=
  met_ticket (f := fun t n => t == n) (withTicket 3 (on .tktPost)) (by decide +kernel)
theorem met_tktPost_past : Met .tktPost fun s b => ∃ m g l t u pa key, OneGroup s b m g ∧ HasTicket s g l t ∧
    s.translate (.core b.core) l.ctx (l.counterVa l.tktoff / 128 * 128) true = (u, .ok pa key) ∧ (t.index + 1 == nextRead b m l u pa key) = true :=
  met_ticket (f := fun t n => t + 1 == n) (withTicket 4 (on .tktPost)) (by decide +kernel)

/-- The conditions of RESV with its operands in s30 to s32 and its record in b4, as a test. -/
def resvTest (s : State) (b : Bundle) (m : Member) (g : Group) : Bool :=
  let n := (g.uni 30).toNat
  let off := (g.uni 32).toNat
  decide (0 < n ∧ n ≤ 65536) && (Rec.of g.b[(4 : Fin 32)]).legal false && decide ((Rec.of g.b[(4 : Fin 32)]).elem = 4 ∧ off % 16 = 0 ∧
    off + 16 * n ≤ segLimit g.seg[(3 : Fin 8)] ∧ 4 * s.cellCount g.ctx ≤ off) &&
  match s.placeGroup b m 4 (resvSource g.b[(4 : Fin 32)] n) 0 with
  | (u, some q) =>
    let x := u.resvLoad b m (Rec.of g.b[(4 : Fin 32)]) n q.elems
    q.elems.length == 3 && !(q.elems.any fun e => e.2.any u.poisonedTarget) && (g.uni 31).toNat + x.2.sum == 0xFFFFFFFF && (x.1.placeGroup b m 0 (resvSlots off n) 0).2.isSome
  | _ => false

/-- R392: a reservation of three whose sum is the highest number of 32 bits. -/
theorem met_resv : Met (.resv 20 30 4) fun s b => ∃ m g u q v z, OneGroup s b m g ∧ resvTest s b m g = true ∧
    s.placeGroup b m 4 (resvSource g.b[(4 : Fin 32)] (g.uni 30).toNat) 0 = (u, some q) ∧ q.elems.any (fun e => e.2.any u.poisonedTarget) = false ∧
    (u.resvLoad b m (Rec.of g.b[(4 : Fin 32)]) (g.uni 30).toNat q.elems).1.placeGroup b m 0 (resvSlots (g.uni 32).toNat (g.uni 30).toNat) 0 = (v, some z) :=
  met_of_test (withMemory (bytesAt (commonBase + 16) ((List.range 3).flatMap fun i => leBytes 4 (i + 1))
      (on (.resv 20 30 4) (withS 30 3 ∘ withS 31 0xFFFFFFF9 ∘ withS 32 2048 ∘ withRecord (record 16 0 2 5 0 0 0 0)))))
    (f := fun s b m g => resvTest s b m g) (by decide +kernel) fun b m g q hp => by
      have h := hp
      unfold resvTest at hp
      rw [Bool.and_eq_true] at hp
      obtain ⟨h1, h2⟩ := hp
      split at h2
      · next u x hu =>
        simp only [Bool.and_eq_true, Bool.not_eq_true'] at h2
        obtain ⟨z, hz⟩ := Option.isSome_iff_exists.mp h2.2
        exact ⟨m, g, u, x, _, z, ⟨q.members, q.group⟩, h, hu, h2.1.1.2, Prod.ext rfl hz⟩
      · cases h2

/-! ### Witnesses: prefixes, waits, allotments and tokens -/

/-- A PREFIX that stands before a word. -/
theorem met_prefix : ∃ (s : State) (b : Bundle) (rest : List Bundle), s.bundles = b :: rest ∧ (∀ m ∈ s.members b, s.breaks b m = none) ∧ s.stalls b {} = false ∧
    b.pfx = none ∧ b.idx + 1 < b.words.length :=
  ⟨placed 0x7E000010, front (placed 0x7E000010), [], rfl, by decide +kernel, by decide +kernel, rfl, by decide +kernel⟩

theorem met_rcv : Met .rcv fun _ _ => True := met_any (on .rcv) (by decide +kernel)
theorem met_barClu : Met (.barClu 15) fun _ _ => True := met_any (on (.barClu 15)) (by decide +kernel)

/-- The one group of the placed state, after a change. -/
def group0 (f : Group → Group) : Option Group := (placed 0 f).group? 0 0

/-- R165: every thread waits at an RCV. -/
theorem met_settleRcv : ∃ (s : State) (g : Group) (low : Word), s.group? 0 0 = some g ∧ g.handler = none ∧
    (∀ l : Lane, let r := (g.threads[l]).run; r = .exited ∨ r = .rcv ∨ ∃ clu n, r = .bar clu n) ∧ (∃ l : Lane, (g.threads[l]).run = .rcv ∧ waitAddress g.threads[l] = low) ∧
    ∀ l : Lane, (g.threads[l]).run = .rcv → low ≤ waitAddress g.threads[l] :=
  ⟨placed 0 (eachThread fun t => { t with run := .rcv, pc := 8 }), (group0 (eachThread fun t => { t with run := .rcv, pc := 8 })).get (by decide +kernel), 8,
    (Option.some_get _).symm, by decide +kernel, fun l => .inr (.inl (by revert l; decide +kernel)), ⟨0, by decide +kernel, by decide +kernel⟩, by decide +kernel⟩

theorem met_settleRcv_inside : ∃ (s : State) (g : Group) (l : Lane), s.group? 0 0 = some g ∧ g.handler = none ∧ (g.threads[l]).run = .ready ∧ (g.threads[l]).inside.isSome = true :=
  ⟨placed 0 (eachThread fun t => { t with run := .ready, inside := some 1 }), (group0 (eachThread fun t => { t with run := .ready, inside := some 1 })).get (by decide +kernel), 31,
    (Option.some_get _).symm, by decide +kernel, by decide +kernel, by decide +kernel⟩

/-- R167: the whole team waits at barrier 15, and one thread less. -/
theorem met_settleBar : ∃ (s : State) (t : Team), s.team? t.key = some t ∧ s.arrived t false 15 = s.expected t ∧ s.expected t ≠ 0 ∧ t.out = [] ∧ ∀ p ∈ s.teamGroups t, p.2.handler = none :=
  ⟨placed 0 (eachThread fun t => { t with run := .bar false 15 }), ((placed 0 (eachThread fun t => { t with run := .bar false 15 })).teams.head?).get (by decide +kernel),
    by decide +kernel, by decide +kernel, by decide +kernel, by decide +kernel, by decide +kernel⟩
theorem met_settleBar_waits : ∃ (s : State) (t : Team), s.team? t.key = some t ∧ s.arrived t false 15 ≠ s.expected t :=
  ⟨placed 0 id, ((placed 0 id).teams.head?).get (by decide +kernel), by decide +kernel, by decide +kernel⟩

/-- The group's request, with no allotment granted. -/
def asking (g : Group) : Group := { g with allot := { g.allot with granted := false } }

theorem met_grant : ∃ (s : State) (g : Group), s.group? 0 0 = some g := ⟨placed 0 asking, (group0 asking).get (by decide +kernel), (Option.some_get _).symm⟩
theorem met_acq : Met .acq fun s b => ∀ x ∈ groupsOf s b, x.2.allot.granted = true := met_groups (on .acq (holding 64)) (by decide +kernel)
theorem met_acq_waits : Met .acq fun s b => ∀ x ∈ groupsOf s b, x.2.allot.granted = false ∧ (b.core, x.1.slot) ∉ (s.quads[quadOf b.core]).acq :=
  met_groups (on .acq asking) (by decide +kernel)
theorem met_acqTry : Met (.acqTry 9) fun s b => ∃ m g, OneGroup s b m g :=
  met_of_test (on (.acqTry 9) asking) (f := fun _ _ _ _ => true) (by decide +kernel) fun _ m g q _ => ⟨m, g, q.members, q.group⟩
theorem met_acqRel : Met .acqRel fun s b => ∀ x ∈ groupsOf s b, x.2.allot.granted = true → (∀ n : Fin 12, x.2.pip[n] = 0) ∧ (∀ t ∈ x.2.tokens, t.done = true) ∧
    (∀ e ∈ (s.quads[quadOf b.core]).entries, e.core = b.core → e.slot = x.1.slot → e.tile = none) ∧ ∀ n : Fin 8, (x.2.cv[n]).st = .empty ∨ (x.2.cv[n]).st = .idle :=
  met_of_test (on .acqRel (holding 64)) (f := fun s b _ g => g.allot.granted && decide (∀ n : Fin 12, g.pip[n] = 0) && g.tokens.all (·.done) &&
      (s.quads[quadOf b.core]).entries.isEmpty && decide (∀ n : Fin 8, (g.cv[n]).st = .empty ∨ (g.cv[n]).st = .idle)) (by decide +kernel) fun _ _ _ q hp => by
    simp only [Bool.and_eq_true, List.isEmpty_iff, List.all_eq_true] at hp
    obtain ⟨⟨⟨⟨_, h1⟩, h2⟩, h3⟩, h4⟩ := hp
    exact q.each fun _ => ⟨of_decide_eq_true h1, h2, fun e he => absurd (h3 ▸ he) List.not_mem_nil, of_decide_eq_true h4⟩

/-- R117: the grant of 128 registers a lane to a group that stands first. -/
theorem met_acqGrant : ∃ (s : State) (g : Group), (s.quads[(0 : QuadId)]).acq = [(0, 0)] ∧ s.group? 0 0 = some g ∧ s.rowsHeld 0 + (g.allot.k - 16) ≤ 3968 ∧
    s.tilesHeld (quadOf 0) + g.allot.a ≤ 128 :=
  ⟨{ placed 0 asking with quads := State.reset.quads.set 0 { State.reset.quads[(0 : QuadId)] with acq := [(0, 0)] } }, (group0 asking).get (by decide +kernel), by decide +kernel,
    (Option.some_get _).symm, by decide +kernel, by decide +kernel⟩

theorem met_allotmentChecks : Met (.iadd 0 16 (.v 5) 6) fun s b => NoHandler s b ∧ ∃ m g, OneGroup s b m g ∧ ((infoOf (.iadd 0 16 (.v 5) 6)).names b.pfx).all g.inAllot = false :=
  met_of_test (on (.iadd 0 16 (.v 5) 6)) (f := fun _ b _ g => g.handler.isNone && !((infoOf (.iadd 0 16 (.v 5) 6)).names b.pfx).all g.inAllot) (by decide +kernel) fun _ m g q hp => by
    rw [Bool.and_eq_true, Bool.not_eq_true'] at hp
    exact ⟨q.all (Option.isNone_iff_eq_none.mp hp.1), m, g, ⟨q.members, q.group⟩, hp.2⟩

/-- The group has a token in s120. -/
def withToken (done : Bool) (status : Word) (g : Group) : Group := withS 120 status { g with tokens := [⟨120, done, false, .none⟩] }

theorem met_tsyncAll : Met .tsyncAll fun s b => ∀ x ∈ groupsOf s b, ∀ t ∈ x.2.tokens, t.done = true :=
  met_of_test (on .tsyncAll (withToken true 1)) (f := fun _ _ _ g => g.tokens.all (·.done)) (by decide +kernel) fun _ _ _ q hp => q.each (List.all_eq_true.mp hp)
theorem met_tsyncPoll_pending : Met (.tsyncPoll 9 120) fun s b => ∀ x ∈ groupsOf s b, x.2.tokens.any (fun t => t.reg == (120 : Fin 128).val && !t.done) = true :=
  met_groups (on (.tsyncPoll 9 120) (withToken false 0)) (by decide +kernel)
theorem met_tsyncPoll_done : Met (.tsyncPoll 9 120) fun s b => ∀ x ∈ groupsOf s b, x.2.tokens.any (fun t => t.reg == (120 : Fin 128).val && !t.done) = false ∧ JoinsWell s b 120 x.2 :=
  met_of_test (on (.tsyncPoll 9 120) (withToken true 0x301)) (f := fun _ _ _ g => !g.tokens.any (fun t => t.reg == (120 : Fin 128).val && !t.done) &&
      decide (let w := g.s[(120 : Fin 128)]; w.getLsbD 3 = false ∧ w.getLsbD 2 = false ∧ w.getLsbD 1 = false)) (by decide +kernel) fun _ _ _ q hp => by
    rw [Bool.and_eq_true, Bool.not_eq_true'] at hp
    obtain ⟨h1, h2, h3⟩ := of_decide_eq_true hp.2
    exact q.each ⟨hp.1, fun _ => ⟨.inr ⟨h1, h2⟩, .inl h3⟩⟩
/-! ### Witnesses: the picker, the active set, completions and firmware's answers -/

/-- A group of core 0 whose threads stand ready, with no bundle open and the clause of the word `w` in memory. -/
def standingAt (w : Nat) (f : Group → Group := id) : State :=
  let s := placed w (f ∘ eachThread fun t => { t with run := .ready, pc := 0, inside := none })
  withMemory (bytesAt commonBase ((placedHeader w :: placedWords w).flatMap fun w => leBytes 4 w.toNat) { s with bundles := [] })
def standing (f : Group → Group := id) : State := standingAt 0x08202081 f

/-- A pair whose second part is `y`. -/
theorem pair_snd {α β : Type} (x : α × β) {y : β} (h : x.2 = y) : x = (x.1, y) := Prod.ext rfl h

/-- The group of core 0 in slot 0 of a state that holds one. -/
theorem exists_group0 (s : State) (h : (s.group? 0 0).isSome = true) : s.group? 0 0 = some ((s.group? 0 0).get h) := (Option.some_get h).symm

/-- The bundle that forms at the header of the lead thread, slot 0 and lane 0, as a test. -/
def formTest (s : State) (h : Word) (ws : List Word) : Bool :=
  match (s.fillActive 0).group? 0 0 with
  | some g =>
    let pc := (g.threads[(0 : Lane)]).pc
    let r := (s.fillActive 0).fetchClause 0 g pc
    !(s.cores[(0 : CoreId)]).stopped && decide ((s.fillActive 0).lead 0 = some (0, 0)) && (g.threads[(0 : Lane)]).inside.isNone && r.2 == .ok &&
      decide (codeAt (r.1.codeOf g) pc = some h) && decide (clauseWords (r.1.codeOf g) pc = some ws) && !(r.1.gathered 0 g.launch g.handler.isSome pc).isEmpty &&
      r.1.ecc.isEmpty
  | none => false

/-- The first clause of `BundleFormation` applies to core 0. -/
def Forming (s : State) : Prop :=
  ∃ (u : State) (k : Slot) (l : Lane) (g : Group) (h : Word) (ws : List Word), (s.cores[(0 : CoreId)]).stopped = false ∧
      (s.fillActive 0).lead 0 = some (k, l) ∧ (s.fillActive 0).group? 0 k = some g ∧ (g.threads[l]).inside = none ∧
      (s.fillActive 0).fetchClause 0 g (g.threads[l]).pc = (u, .ok) ∧ codeAt (u.codeOf g) (g.threads[l]).pc = some h ∧
      clauseWords (u.codeOf g) (g.threads[l]).pc = some ws ∧ u.ecc = [] ∧ clauseFault h ws = none ∧ (∀ w ∈ ws, w.extractLsb' 25 7 ≠ 0x38) ∧
      u.gathered 0 g.launch g.handler.isSome (g.threads[l]).pc ≠ []

theorem form_of_test {s : State} {h : Word} {ws : List Word} (hc : clauseFault h ws = none) (hw : ∀ w ∈ ws, w.extractLsb' 25 7 ≠ 0x38) (ht : formTest s h ws = true) :
    Forming s := by
  unfold formTest at ht
  split at ht
  · next g hg =>
    simp only [Bool.and_eq_true, Bool.not_eq_true', decide_eq_true_eq, beq_iff_eq, Option.isNone_iff_eq_none, List.isEmpty_eq_false_iff] at ht
    obtain ⟨⟨⟨⟨⟨⟨⟨h1, h2⟩, h3⟩, h4⟩, h5⟩, h6⟩, h7⟩, h8⟩ := ht
    exact ⟨_, 0, 0, g, h, ws, h1, h2, hg, h3, pair_snd _ h4, h5, h6, List.isEmpty_iff.mp h8, hc, hw, h7⟩
  · cases ht

/-- R94: a header of 32 threads. -/
theorem clause_sound : clauseFault (placedHeader 0x08202081) (placedWords 0x08202081) = none := by decide +kernel
theorem clause_plain : (placedWords 0x08202081).all (fun w => w.extractLsb' 25 7 != 0x38) = true := by decide +kernel
theorem standing_forms : formTest standing (placedHeader 0x08202081) (placedWords 0x08202081) = true := by decide +kernel
theorem met_form : ∃ s, Forming s := ⟨standing, form_of_test clause_sound (fun w hw => by simpa using List.all_eq_true.mp clause_plain w hw) standing_forms⟩

/-- R53: the clause of a LOOPR of the offset 0 fails a static check at its word, in user code and in the handler. -/
def badTest (s : State) (handler : Bool) : Bool :=
  match (s.fillActive 0).group? 0 0 with
  | some g =>
    let pc := (g.threads[(0 : Lane)]).pc
    let r := (s.fillActive 0).fetchClause 0 g pc
    !(s.cores[(0 : CoreId)]).stopped && decide ((s.fillActive 0).lead 0 = some (0, 0)) && (g.threads[(0 : Lane)]).inside.isNone && r.2 == .ok && r.1.ecc.isEmpty &&
      decide (codeAt (r.1.codeOf g) pc = some (placedHeader 0x7C000000)) && decide (clauseWords (r.1.codeOf g) pc = some (placedWords 0x7C000000)) && g.handler.isSome == handler &&
      decide ((r.1.gathered 0 g.launch g.handler.isSome pc).map (·.1) = [0])
  | none => false
theorem clause_bad : clauseFault (placedHeader 0x7C000000) (placedWords 0x7C000000) = some (1, 0x01) := by decide +kernel
theorem bad_of_test {s : State} {handler : Bool} (ht : badTest s handler = true) : ∃ (u : State) (k : Slot) (l : Lane) (g : Group) (h : Word) (ws : List Word) (n cls : Nat) (m : Slot × Word),
    (s.cores[(0 : CoreId)]).stopped = false ∧ (s.fillActive 0).lead 0 = some (k, l) ∧ (s.fillActive 0).group? 0 k = some g ∧ (g.threads[l]).inside = none ∧
    (s.fillActive 0).fetchClause 0 g (g.threads[l]).pc = (u, .ok) ∧ u.ecc = [] ∧ codeAt (u.codeOf g) (g.threads[l]).pc = some h ∧
    clauseWords (u.codeOf g) (g.threads[l]).pc = some ws ∧ clauseFault h ws = some (n, cls) ∧ u.gathered 0 g.launch g.handler.isSome (g.threads[l]).pc = [m] ∧ g.handler.isSome = handler := by
  unfold badTest at ht
  split at ht
  · next g hg =>
    simp only [Bool.and_eq_true, Bool.not_eq_true', decide_eq_true_eq, beq_iff_eq, Option.isNone_iff_eq_none, List.isEmpty_iff] at ht
    obtain ⟨⟨⟨⟨⟨⟨⟨⟨h1, h2⟩, h3⟩, h4⟩, h5⟩, h6⟩, h7⟩, h8⟩, h9⟩ := ht
    obtain ⟨m, hm, -⟩ := List.map_eq_singleton_iff.mp h9
    exact ⟨_, 0, 0, g, _, _, 1, 0x01, m, h1, h2, hg, h3, pair_snd _ h4, h5, h6, h7, clause_bad, hm, h8⟩
  · cases ht
theorem met_clauseChecks : badTest (standingAt 0x7C000000) false = true := by decide +kernel
/-- In the handler of the image of that clause. -/
def handlerAt (w : Nat) : State :=
  let s := standingAt w (inHandler 0x16 false)
  { s with board := { s.board with handler := placedHeader w :: placedWords w } }
theorem met_clauseChecks_handler : badTest (handlerAt 0x7C000000) true = true := by decide +kernel

/-- R98: the lead thread, slot 0 and lane 0, goes on inside its clause. -/
def resumeTest (s : State) (i : Nat) (h : Word) (ws : List Word) : Bool :=
  match (s.fillActive 0).group? 0 0 with
  | some g =>
    let t := g.threads[(0 : Lane)]
    !(s.cores[(0 : CoreId)]).stopped && decide ((s.fillActive 0).lead 0 = some (0, 0)) && decide (t.inside = some i) &&
      decide (codeAt ((s.fillActive 0).codeOf g) t.pc = some h) && decide (clauseWords ((s.fillActive 0).codeOf g) t.pc = some ws)
  | none => false

/-- The second clause of `BundleFormation` applies to core 0. -/
def Resuming (s : State) : Prop :=
  ∃ (k : Slot) (l : Lane) (g : Group) (i : Nat) (h : Word) (ws : List Word), (s.cores[(0 : CoreId)]).stopped = false ∧
    (s.fillActive 0).lead 0 = some (k, l) ∧ (s.fillActive 0).group? 0 k = some g ∧ (g.threads[l]).inside = some i ∧
    codeAt ((s.fillActive 0).codeOf g) (g.threads[l]).pc = some h ∧ clauseWords ((s.fillActive 0).codeOf g) (g.threads[l]).pc = some ws

theorem resuming_of_test {s : State} {i : Nat} {h : Word} {ws : List Word} (ht : resumeTest s i h ws = true) : Resuming s := by
  unfold resumeTest at ht
  split at ht
  · next g hg =>
    simp only [Bool.and_eq_true, Bool.not_eq_true', decide_eq_true_eq] at ht
    obtain ⟨⟨⟨⟨h1, h2⟩, h3⟩, h4⟩, h5⟩ := ht
    exact ⟨0, 0, g, i, h, ws, h1, h2, hg, h3, h4, h5⟩
  · cases ht

theorem met_form_inside : ∃ s, Resuming s :=
  ⟨standing (eachThread fun t => { t with inside := some 0, guard := true }),
    resuming_of_test (i := 0) (h := placedHeader 0x08202081) (ws := placedWords 0x08202081) (by decide +kernel)⟩

/-- Slots 0 to `n` - 1 of core 0 hold the group of `standing`, slot `i` changed by `f i`. -/
def several (n : Nat) (f : Slot → Group → Group) : State :=
  match standing.group? 0 0 with
  | some g => standing.modCore 0 fun x => { x with slots := Vector.ofFn fun i : Fin 32 => if i.val < n then some (f i g) else none }
  | none => standing

/-- Slot 0 is ACTIVE and waits, and slot 1 is PENDING, not STARVED, and may come in. -/
theorem met_swapOut : ∃ (s : State) (a p : Slot), s.swappable 0 a = true ∧ s.nextPending 0 s.swapReady = some p :=
  ⟨(several 2 fun i g => if i = 0 then eachThread (fun t => { t with run := .acq }) { g with st := .active } else { g with st := .pending }).modCore 0 fun x =>
    { x with sched := x.sched.map fun y => { y with idle := 5000 }, cycles := 100000 }, 0, 1, by decide +kernel, by decide +kernel⟩

theorem met_starved : ∃ (s : State) (k : Slot), (∃ g, s.group? 0 k = some g ∧ s.groupReady g = true) ∧ 1536 ≤ ((s.cores[(0 : CoreId)]).sched[k]).starve :=
  let s := standing.modCore 0 fun x => { x with sched := x.sched.map fun y => { y with starve := 1536 } }
  ⟨s, 0, ⟨_, exists_group0 s (by decide +kernel), by decide +kernel⟩, by decide +kernel⟩

/-- Seven ACTIVE groups and a STARVED one that waits for a place, and eight. -/
def crowded (n : Nat) : State :=
  (several (n + 1) fun i g => { g with st := if i.val = 0 then .pending else .active }).modCore 0 fun x => { x with sched := x.sched.set 0 { x.sched[0] with starved := true } }
theorem met_swapIn : ∃ s : State, (∃ g, s.group? 0 0 = some g ∧ g.st = .pending ∧ s.groupReady g = true) ∧ ((s.cores[(0 : CoreId)]).sched[(0 : Slot)]).starved = true ∧ (s.activeSlots 0).length < 8 :=
  ⟨crowded 7, ⟨_, exists_group0 (crowded 7) (by decide +kernel), by decide +kernel, by decide +kernel⟩, by decide +kernel, by decide +kernel⟩
theorem met_swapIn_displaces : ∃ (s : State) (p : Slot), (∃ g, s.group? 0 0 = some g ∧ g.st = .pending ∧ s.groupReady g = true) ∧ ((s.cores[(0 : CoreId)]).sched[(0 : Slot)]).starved = true ∧
    8 ≤ (s.activeSlots 0).length ∧ s.displaced 0 = some p :=
  ⟨crowded 8, ((crowded 8).displaced 0).get (by decide +kernel), ⟨_, exists_group0 (crowded 8) (by decide +kernel), by decide +kernel, by decide +kernel⟩, by decide +kernel, by decide +kernel,
    (Option.some_get _).symm⟩

theorem met_yield : ∃ (s : State) (l : Lane) (n : Nat), ∃ g, s.group? 0 0 = some g ∧ (g.threads[l]).run = .yield n ∧ n ≤ (s.cores[(0 : CoreId)]).cycles :=
  let s := standing (eachThread fun t => { t with run := .yield 0 })
  ⟨s, 31, 0, _, exists_group0 s (by decide +kernel), by decide +kernel, by decide +kernel⟩

/-- Operation 7 holds the work `w`. -/
theorem working_op (w : Work) (s : State) : Working (working w s) 7 ⟨7, 0, 0, 1, 0, 0, false, 0, w, .none, .none⟩ w := ⟨rfl, rfl⟩

theorem own_of_test {s : State} {o : Op} {n : Nat} (hn : n < 128) (h : (s.group? o.core o.slot).all (fun g => o.handler == g.handler.isSome) = true) : OwnRegister s o n :=
  ⟨hn, fun _ g hg => by simpa [hg] using h⟩

theorem met_pip : ∃ (s : State) (o : Op), Working s 7 o (.pip 11 [] 1 [] false) ∧ ((1 : Word) = 0 ∨ s.cvxOn o.core = false) :=
  ⟨working (.pip 11 [] 1 [] false), _, working_op _ _, .inr (by decide +kernel)⟩
theorem met_uld : ∃ (s : State) (o : Op), Working s 7 o (.uld [(127, 5)] false 64) ∧ ∀ w ∈ ([(127, 5)] : List (Fin 128 × Word)), OwnRegister s o w.1.val :=
  ⟨working (.uld [(127, 5)] false 64), _, working_op _ _, fun w hw => by
    rw [List.mem_singleton.mp hw]
    exact own_of_test (by decide) (by decide +kernel)⟩

/-- R401: data of kernel code for s124 when its group is in the handler. -/
theorem met_uld_shadow : ∃ (s : State) (o : Op), Working s 7 o (.uld [(124, 5)] false 64) ∧ o.handler = false ∧ ∃ g, s.group? o.core o.slot = some g ∧ g.handler.isSome = true :=
  let s := working (.uld [(124, 5)] false 64) (on .exit (inHandler 0x16 false))
  ⟨s, _, working_op _ _, rfl, _, exists_group0 s (by decide +kernel), by decide +kernel⟩
theorem met_xpldReturn : ∃ (s : State) (o : Op), Working s 7 o (.xpld 15 [(0, 1)] false 64) ∧
    ∀ p ∈ s.ops, p.core = o.core → p.id < 7 → ∀ y ys q v, p.work = .xpld y ys q v → y ≠ 15 :=
  ⟨working (.xpld 15 [(0, 1)] false 64), _, working_op _ _, fun p hp _ hlt => by
    have : p = ⟨7, 0, 0, 1, 0, 0, false, 0, .xpld 15 [(0, 1)] false 64, .none, .none⟩ := by simpa [working] using hp
    subst this
    exact absurd hlt (by decide)⟩
theorem met_ldaComplete : ∃ (s : State) (o : Op), Working s 7 o (.lda 127 [] [] 1 false true) ∧ s.engineHeld o.core o.slot = false ∧ (s.group? o.core o.slot).isSome = true ∧
    OwnRegister s o 127 :=
  ⟨working (.lda 127 [] [] 1 false true), _, working_op _ _, by decide +kernel, by decide +kernel, own_of_test (by decide) (by decide +kernel)⟩
theorem met_plyGetComplete : ∃ (s : State) (o : Op), Working s 7 o (.plyGet 20 [] 3 false false) ∧ OwnRegister s o 20 :=
  ⟨working (.plyGet 20 [] 3 false false), _, working_op _ _, own_of_test (by decide) (by decide +kernel)⟩
theorem met_writeback_line : State.reset.lineHeld 0 = false := by decide +kernel

/-- R132: a narrow result beside a fixed-latency one of the upper half of the row, in it, and after it has landed. -/
theorem met_arrival : let x : Landing := ⟨3, 5, 16, 16, 9⟩
    (∀ y ∈ [x], y.lane = 3 → y.row = 5 → 8 < y.time → y.shift + y.width ≤ 0 ∨ 0 + 16 ≤ y.shift) ∧
    (∃ y ∈ [x], y.lane = 3 ∧ y.row = 5 ∧ 8 < y.time ∧ y.shift ≤ 24 ∧ 24 + 8 ≤ y.shift + y.width) ∧
    ∀ y ∈ [x], y.lane = 3 → y.row = 5 → 9 < y.time → y.shift + y.width ≤ 24 ∨ 24 + 8 ≤ y.shift := by decide
theorem met_arrival_shadow : ∃ (o : Op) (g : Group), o.handler = false ∧ g.handler.isSome = true ∧ g.landing = [] :=
  ⟨⟨7, 0, 0, 1, 0, 0, false, 0, .uld [] false 0, .none, .none⟩, ((on .exit (inHandler 0x16 false)).group? 0 0).get (by decide +kernel), rfl, by decide +kernel, by decide +kernel⟩

/-- R204: threads 3 and 31 of a load have read poison, in user code and in the handler. -/
theorem met_poisonedLoad : ∃ (s : State) (o : Op) (g : Group), Working s 7 o (.pip 11 [] 0 [(3, 64), (31, 128)] false) ∧ s.group? o.core o.slot = some g ∧
    (([(3, 64), (31, 128)] : List (Lane × Nat)).map (·.1)).Nodup ∧
    (∀ x ∈ ([(3, 64), (31, 128)] : List (Lane × Nat)), (g.threads[x.1]).gone = false ∧ (g.threads[x.1]).trap = none) ∧ o.handler = false ∧ g.handler = none :=
  let s := working (.pip 11 [] 0 [(3, 64), (31, 128)] false)
  ⟨s, _, _, working_op _ _, exists_group0 s (by decide +kernel), by decide, by decide +kernel, rfl, by decide +kernel⟩

/-- R364: two entries of the context's queue for which threads wait; lane 31 waits for both. -/
theorem met_answer : ∃ (s : State) (f : FaultEntry) (g : Group), ThreadsWait s 0 f g ∧ ∀ l : Lane, (g.threads[l]).run ≠ .member :=
  let s := standing (eachThread fun t => { t with run := .parked [5, 6] false })
  let f : FaultEntry := { id := 5, ctx := 0, core := 0, slot := 0, lanes := 1, va := 0, kind := 0, refused := 0 }
  ⟨{ s with faults := [f] }, f, _, ⟨by decide +kernel, by decide, fun o ho => absurd ho (List.not_mem_nil (a := o)), by decide +kernel, by decide +kernel, by decide +kernel,
    exists_group0 { s with faults := [f] } (by decide +kernel), by decide +kernel⟩, by decide +kernel⟩

/-! ### Witnesses: launches, dispatch, traps and limits -/

/-- The bytes of a launch record of `n` teams of one core each (R379) at the common memory's first address, and of a descriptor of one group of 32 threads and 16 registers a lane (R378)
behind it. -/
def launchBytes (n : Nat) : List Byte :=
  [640, 0, n, 0x11, 0, 0xFFFFFFFF, 0, 0xFFFFFFFF, 0, 0].flatMap (leBytes 4) ++ List.replicate 600 0 ++ [192, 8, 0, 0, 0, 32 + 1024 + 1048576, 0, 16].flatMap (leBytes 4)

/-- A record of `n` teams is in memory. -/
def recorded (n : Nat) : State := withMemory (bytesAt commonBase (launchBytes n) (placed 0 (withRecord 0)))

/-- What becomes of the launch, as a test. -/
def admissionTest (s : State) (f : State → Admission → Bool) : Bool :=
  match s.group? 0 0 with
  | some g => !g.engineHeld && let r := s.admission (.core 0) g.ctx g.seg 0 g.refused.contains fun s ts => s.opRead 7 ts
    f r.1 r.2
  | none => false

theorem admission_of_test {s : State} {f : State → Admission → Bool} {o : Op} (ho : Working s 7 o (.launch 20 0)) (hc : o.core = 0) (hk : o.slot = 0)
    (h : admissionTest s f = true) : ∃ g u a, Launching s 7 o g 20 0 ∧ s.admission (.core o.core) g.ctx g.seg 0 g.refused.contains (fun s ts => s.opRead 7 ts) = (u, a) ∧ f u a = true := by
  unfold admissionTest at h
  split at h
  · next g hg =>
    rw [Bool.and_eq_true, Bool.not_eq_true'] at h
    rw [← hc, ← hk] at hg
    rw [← hc] at h
    exact ⟨g, _, _, ⟨ho, hg, h.1⟩, (Prod.eta _).symm, h.2⟩
  · cases h

/-- R382: a launch of one team is accepted, and one of 65,537 teams is refused for reason 3. -/
theorem met_admission : ∃ s o g u l desc, Launching s 7 o g 20 0 ∧ s.admission (.core o.core) g.ctx g.seg 0 g.refused.contains (fun s ts => s.opRead 7 ts) = (u, .accept l desc) ∧
    (u.board.queues[l.queue]).length < 256 := by
  obtain ⟨g, u, a, h1, h2, h3⟩ := admission_of_test (working_op (.launch 20 0) (recorded 1)) rfl rfl
    (f := fun u a => match a with | .accept l _ => decide ((u.board.queues[l.queue]).length < 256) | _ => false) (by decide +kernel)
  cases a with
  | accept l desc => exact ⟨_, _, g, u, l, desc, h1, h2, of_decide_eq_true h3⟩
  | refuse _ => cases h3
  | page _ => cases h3
theorem met_refusal : ∃ s o g u why, Launching s 7 o g 20 0 ∧ s.admission (.core o.core) g.ctx g.seg 0 g.refused.contains (fun s ts => s.opRead 7 ts) = (u, .refuse why) := by
  obtain ⟨g, u, a, h1, h2, h3⟩ := admission_of_test (working_op (.launch 20 0) (recorded 65537)) rfl rfl
    (f := fun _ a => match a with | .refuse n => n == 3 | _ => false) (by decide +kernel)
  cases a with
  | accept _ _ => cases h3
  | refuse n => exact ⟨_, _, g, u, n, h1, h2⟩
  | page _ => cases h3
/-- The record's page is not mapped. -/
theorem met_launchPage : ∃ s o g u p, Launching s 7 o g 20 0 ∧ s.admission (.core o.core) g.ctx g.seg 0 g.refused.contains (fun s ts => s.opRead 7 ts) = (u, .page p) ∧
    (∀ f ∈ u.faults, ¬(f.ctx = g.ctx ∧ f.core = o.core ∧ f.slot = o.slot ∧ f.kind = 4 ∧ f.va = p)) := by
  let s := { placed 0 (withRecord 0) with board := { State.reset.board with roots := State.reset.board.roots.set 0 commonBase } }
  obtain ⟨g, u, a, h1, h2, h3⟩ := admission_of_test (working_op (.launch 20 0) s) rfl rfl
    (f := fun u a => match a with | .page _ => u.faults.isEmpty | _ => false) (by decide +kernel)
  cases a with
  | accept _ _ => cases h3
  | refuse _ => cases h3
  | page p => exact ⟨_, _, g, u, p, h1, h2, fun f hf => absurd hf (by rw [List.isEmpty_iff.mp h3]; exact List.not_mem_nil)⟩
theorem met_launchOwn : OwnRegister (working (.launch 20 0)) ⟨7, 0, 0, 1, 0, 0, false, 0, .launch 20 0, .none, .none⟩ 20 := own_of_test (by decide) (by decide +kernel)
theorem met_enqueue : ∃ (s : State) (l : Launch), s.tenantOf l.ctx = none := ⟨State.reset, placedLaunch 0 [], by decide +kernel⟩

/-- Queue 0 holds a launch of contract mx and of one team, of the one context of a tenant that has chiplet 0. -/
def queued : State :=
  let l : Launch := { placedLaunch 9 [] with next := 0, kernel := { placedKernel with contract := 1 } }
  { State.reset with
    launches := [l]
    nextId := 10
    board := { State.reset.board with
      queues := State.reset.board.queues.set 0 [9]
      tenants := State.reset.board.tenants.set 0 (BitVec.ofNat 128 (2 ^ 64 + 2 ^ 63 + 2 ^ 55))
      place := State.reset.board.place.set 0 0x00100000 } }

/-- The first queue's head, as a test. -/
def headTest (s : State) (f : Launch → Bool) : Bool :=
  match s.readyHead 0 with
  | some l => f l
  | none => false

theorem head_of_test {s : State} {f : Launch → Bool} (h : headTest s f = true) : ∃ l, s.readyHead 0 = some l ∧ f l = true := by
  unfold headTest at h
  split at h
  · next l hl => exact ⟨l, hl, h⟩
  · cases h

theorem met_dispatch : ∃ (s : State) (l : Launch) (cores : List CoreId), s.readyHead 0 = some l ∧ rectangle l 0 0 0 = some cores ∧
    s.fits l s.board.spill[(0 : Fin 64)] 0 cores = true ∧ s.nextQueue = some 0 := by
  obtain ⟨l, h1, h2⟩ := head_of_test (s := queued) (f := fun l => decide (rectangle l 0 0 0 = some [0]) && queued.fits l queued.board.spill[(0 : Fin 64)] 0 [0]) (by decide +kernel)
  rw [Bool.and_eq_true] at h2
  exact ⟨queued, l, [0], h1, of_decide_eq_true h2.1, h2.2, by decide +kernel⟩
theorem met_spill : ∃ (s : State) (l : Launch), s.readyHead 0 = some l ∧ (s.placeOf l.ctx).extractLsb' 20 5 ≠ 31 ∧ l.kernel.contract < 4 := by
  obtain ⟨l, h1, h2⟩ := head_of_test (s := queued) (f := fun l => decide ((queued.placeOf l.ctx).extractLsb' 20 5 ≠ 31 ∧ l.kernel.contract < 4)) (by decide +kernel)
  exact ⟨queued, l, h1, of_decide_eq_true h2⟩
theorem met_retire : ∃ (s : State) (g : Group), s.group? 0 0 = some g ∧ g.st = .exiting ∧ (∀ n : Fin 12, g.pip[n] = 0) ∧ (∀ t ∈ g.tokens, t.done = true) ∧
    ∀ o ∈ s.ops, o.concerns 0 0 = false :=
  let s := standing fun g => { g with st := .exiting }
  ⟨s, _, exists_group0 s (by decide +kernel), by decide +kernel, by decide +kernel, by decide +kernel, by decide +kernel⟩

/-- R383: a launch whose last team has ended, with no counter. -/
theorem met_launchComplete : ∃ (s : State) (l : Launch), s.launch? 9 = some l ∧ l.killed = none ∧ l.retired = l.teams ∧ l.next = l.clusters ∧ l.posts = [] ∧
    l.doneoff = BitVec.allOnes 32 ∧ s.submitter 9 = none :=
  ⟨{ State.reset with launches := [{ placedLaunch 9 [] with retired := 1 }] }, { placedLaunch 9 [] with retired := 1 }, rfl, rfl, rfl, by decide +kernel, rfl, rfl,
    by decide +kernel⟩

/-- The scheduler's translations have the first pages of the common memory. -/
def boardMapped (s : State) : State := { s with board := { s.board with tlb := s.board.tlb.set 0 [⟨0, 0, 21, commonBase, 0, none, true, true, .none⟩] } }

/-- R394: a page that is mapped for writing, one that is not, and tables whose region is not valid. -/
def scheduled (s : State) (w : Walk → Bool) : Bool := w (s.translate (.board 0) 0 0 true).2
theorem met_schedulerWrites : scheduled (boardMapped State.reset) (fun w => match w with | .ok _ _ => true | _ => false) = true ∧
    scheduled { State.reset with board := { State.reset.board with roots := State.reset.board.roots.set 0 commonBase } } (· == .page) = true ∧
    scheduled State.reset (· == .failure) = true := ⟨by decide +kernel, by decide +kernel, by decide +kernel⟩

/-- R384: a launch that waits for the word at the start of its seg3 to reach 1. -/
theorem met_counter : ∃ (s : State) (l : Launch), l.waitoff ≠ BitVec.allOnes 32 ∧ l.hold = none ∧ l.lost = false ∧
    (match (s.translate (.board 0) l.ctx ((segBase l.seg[(3 : Fin 8)] + l.waitoff.toNat) % 2 ^ 57 / 128 * 128) false).2 with | .ok _ _ => true | _ => false) = true :=
  ⟨boardMapped State.reset, { placedLaunch 9 [] with waitoff := 0, waitval := 1 }, by decide, rfl, rfl, by decide +kernel⟩

/-- R383: the counter of a launch that has ended is written, and waits for its page. -/
theorem met_launchDone : ∃ (s u : State) (l : Launch), l.doneoff ≠ BitVec.allOnes 32 ∧ (s.postFor l 0 4 true fun s ts => (s.boardAdd l.did ts 1, true)).2 = true ∧
    (u.postFor l 0 4 true fun s ts => (s.boardAdd l.did ts 1, true)).2 = false :=
  ⟨boardMapped State.reset, { State.reset with board := { State.reset.board with roots := State.reset.board.roots.set 0 commonBase } }, { placedLaunch 9 [] with doneoff := 0 },
    by decide, by decide +kernel, by decide +kernel⟩

/-- R396: the post of team 3, with poison, is one of the launch's. -/
def autoPosting : State :=
  let s := withTicket 3 (placed 0)
  { s with launches := s.launches.map fun l => { l with posts := [(2, false, .none), (3, true, .none)] } }
theorem met_autoPost : ∃ (s : State) (id : Nat) (l : Launch) (p : Nat × Bool × View), s.launch? id = some l ∧ l.posts.find? (fun p => p.1 == 3) = some p ∧ l.killed = none := by
  have h : ((autoPosting.launch? 0).any fun l => l.posts.any (fun p => p.1 == 3) && l.killed.isNone) = true := by decide +kernel
  rw [Option.any_eq_true_iff_get] at h
  obtain ⟨h1, h2⟩ := h
  rw [Bool.and_eq_true] at h2
  obtain ⟨p, hp⟩ := Option.isSome_iff_exists.mp (List.find?_isSome.mpr (List.any_eq_true.mp h2.1))
  exact ⟨autoPosting, 0, _, p, (Option.some_get h1).symm, hp, Option.isNone_iff_eq_none.mp h2.2⟩

/-- R412: a suspended cluster of one team comes back to core 47. -/
theorem met_restore : ∃ (s : State) (t : Team) (l : Launch) (cores : List CoreId), l.det = false ∧ s.board.suspended[0]? = some t ∧ s.launch? t.launch = some l ∧
    rectangleAt l 47 = some cores ∧ s.canRestore l cores t = true :=
  let s : State := { State.reset with launches := [placedLaunch 9 []], board := { State.reset.board with suspended := [placedTeam 8 9] } }
  ⟨s, placedTeam 8 9, placedLaunch 9 [], [47], rfl, rfl, rfl, by decide +kernel, by decide +kernel⟩

/-- The trap of a group at rest. -/
theorem met_delivery : ∃ (s : State) (g : Group), s.group? 0 0 = some g ∧ g.handler = none ∧
    (g.preempt = true ∨ g.expired = true ∨ ∃ l : Lane, (g.threads[l]).trap.isSome = true) ∧ (∃ l : Lane, (g.threads[l]).gone = false) ∧ (∀ n : Fin 12, g.pip[n] = 0) ∧ g.preempt = false :=
  let s := standing fun g => g.modThread 31 fun t => { t with trap := some ⟨0x07, 8, [1, 2]⟩ }
  ⟨s, _, exists_group0 s (by decide +kernel), by decide +kernel, .inr (.inr ⟨31, by decide +kernel⟩), ⟨0, by decide +kernel⟩, by decide +kernel, by decide +kernel⟩
/-- R410: a pre-emption of a group with nothing in the engines. -/
theorem met_delivery_preempt : ∃ (s : State) (g : Group), s.group? 0 0 = some g ∧ g.handler = none ∧ g.preempt = true ∧ (∃ l : Lane, (g.threads[l]).gone = false) ∧
    (∀ n : Fin 12, g.pip[n] = 0) ∧ (∀ e ∈ (s.quads[quadOf 0]).entries, e.core ≠ 0) ∧ s.ops = [] :=
  let s := standing fun g => { g with preempt := true }
  ⟨s, _, exists_group0 s (by decide +kernel), by decide +kernel, by decide +kernel, ⟨0, by decide +kernel⟩, by decide +kernel, by decide +kernel, rfl⟩

/-- The limits of core 0 are `n`. -/
def limited (n : Nat) (s : State) : State := s.modCore 0 fun x => { x with
  barlimt := BitVec.ofNat 32 n, barlimc := BitVec.ofNat 32 n, qlim := BitVec.ofNat 32 n, wdlim := BitVec.ofNat 32 n, sched := x.sched.map fun y => { y with quorum := Vector.replicate 8 n } }

/-- A team that has counted `n` cycles at each barrier, and whose watchdog has. -/
def counted (n : Nat) (s : State) : State := { s with teams := s.teams.map fun t => { t with bars := Vector.replicate 32 n, wd := n } }

/-- The team in slot 0 of core 0, as a test. -/
def teamTest (s : State) (f : Team → Bool) : Bool :=
  match s.group? 0 0 with
  | some g => match s.team? g.team with
    | some t => t.core == 0 && f t
    | none => false
  | none => false
theorem team_of_test {s : State} {f : Team → Bool} (h : teamTest s f = true) : ∃ t, TeamAt s 0 0 t ∧ f t = true := by
  unfold teamTest at h
  split at h
  · next g hg =>
    split at h
    · next t ht =>
      rw [Bool.and_eq_true, beq_iff_eq] at h
      exact ⟨t, ⟨g, hg, ht, h.1⟩, h.2⟩
    · cases h
  · cases h

/-- R169: barrier 15 of the team and of the cluster at their limit, with threads that wait. -/
theorem met_barrier : ∃ (s : State) (t : Team), TeamAt s 0 0 t ∧ ((s.cores[(0 : CoreId)]).barlimt).toNat ≠ 0 ∧ ((s.cores[(0 : CoreId)]).barlimt).toNat ≤ t.bars[barIx false 15] ∧
    s.arrived t false 15 ≠ 0 :=
  let s := counted 100 (limited 100 (placed 0 (eachThread fun t => { t with run := .bar false 15 })))
  have ⟨t, h1, h2⟩ := team_of_test (s := s) (f := fun t => decide (((s.cores[(0 : CoreId)]).barlimt).toNat ≠ 0 ∧ ((s.cores[(0 : CoreId)]).barlimt).toNat ≤ t.bars[barIx false 15] ∧
    s.arrived t false 15 ≠ 0)) (by decide +kernel)
  ⟨s, t, h1, of_decide_eq_true h2⟩
theorem met_barrier_cluster : ∃ (s : State) (t : Team), TeamAt s 0 0 t ∧ ((s.cores[(0 : CoreId)]).barlimc).toNat ≠ 0 ∧ ((s.cores[(0 : CoreId)]).barlimc).toNat ≤ t.bars[barIx true 0] ∧
    s.arrived t true 0 ≠ 0 :=
  let s := counted 100 (limited 100 (placed 0 (eachThread fun t => { t with run := .bar true 0 })))
  have ⟨t, h1, h2⟩ := team_of_test (s := s) (f := fun t => decide (((s.cores[(0 : CoreId)]).barlimc).toNat ≠ 0 ∧ ((s.cores[(0 : CoreId)]).barlimc).toNat ≤ t.bars[barIx true 0] ∧
    s.arrived t true 0 ≠ 0)) (by decide +kernel)
  ⟨s, t, h1, of_decide_eq_true h2⟩
theorem met_watchdog : ∃ (s : State) (t : Team), TeamAt s 0 0 t ∧ (s.cores[(0 : CoreId)]).wdlim ≠ 0 ∧ (s.cores[(0 : CoreId)]).wdlim.toNat ≤ t.wd ∧ t.wdHit = false :=
  let s := counted 100 (limited 100 (placed 0))
  have ⟨t, h1, h2⟩ := team_of_test (s := s) (f := fun t => decide ((s.cores[(0 : CoreId)]).wdlim ≠ 0 ∧ (s.cores[(0 : CoreId)]).wdlim.toNat ≤ t.wd ∧ t.wdHit = false)) (by decide +kernel)
  ⟨s, t, h1, of_decide_eq_true h2⟩
theorem met_quorum : ∃ (s : State) (g : Group), s.group? 0 0 = some g ∧ g.handler = none ∧ g.mustHalt = false ∧ (g.cv[(7 : Fin 8)]).st = .open_ ∧
    (s.cores[(0 : CoreId)]).qlim ≠ 0 ∧ (s.cores[(0 : CoreId)]).qlim.toNat ≤ ((s.cores[(0 : CoreId)]).sched[(0 : Slot)]).quorum[(7 : Fin 8)] :=
  let s := limited 100 (standing fun g => { g with cv := g.cv.set 7 { g.cv[7] with st := .open_, mask := 3, signed := 1 } })
  ⟨s, _, exists_group0 s (by decide +kernel), by decide +kernel, by decide +kernel, by decide +kernel, by decide +kernel, by decide +kernel⟩
theorem met_preempt : ∃ (s : State) (g : Group), s.group? 0 0 = some g := ⟨standing, _, exists_group0 standing (by decide +kernel)⟩

/-! ### Witnesses: passes, drains, calls and streams -/

/-- R285: a signing that waits for an entry. -/
theorem met_post : ∃ (s : State) (g : Group), s.group? 0 0 = some g ∧ (g.cv[(2 : Fin 8)]).st = .postwait ∧ g.engineHeld = false ∧ (s.quads[quadOf 0]).entries.length < 32 :=
  let s := standing (withEngine .postwait 3)
  ⟨s, _, exists_group0 s (by decide +kernel), by decide +kernel, by decide +kernel, by decide +kernel⟩

/-- A pass of mma with the configuration `w` on tile 0, whose operands' first rows contribute: A's holds ones in lane 0, and B's holds twos. -/
def passEntry (w : Word) (started : Bool) : Entry :=
  ⟨9, 0, 0, 1, some 0, started, 0, .pass 0 w (.rows [(0, 0, 0x01010101)]) (.rows [(0, 0, 0x02020202)]) 1 .none⟩

/-- Quad 0 has an entry, and its group a tile. -/
def engaged (e : Entry) (t : Tile) (s : State := standing) : State :=
  let s := s.modGroup 0 0 fun g => { holding 64 g with tiles := [t] }
  { s with quads := s.quads.set 0 { s.quads[(0 : QuadId)] with entries := [e] } }

theorem met_passStart : ∃ (s : State) (e : Entry), e.id = 9 ∧ s.nextPass 0 = some e :=
  ⟨engaged (passEntry 0x2490 false) (newTile true), passEntry 0x2490 false, rfl, by decide +kernel⟩

/-- The group, team and tile of the entry, as a test; `f` sees them. -/
def passTest (s : State) (e : Entry) (f : Team → Tile → Bool) : Bool :=
  match s.group? 0 0, s.team? e.team with
  | some g, some t => decide ((s.quads[(0 : QuadId)]).entries.find? (fun x => x.id == 9 && x.started) = some e) && g.team == e.team && match g.tiles[0]? with
    | some x => f t x
    | none => false
  | _, _ => false

theorem pass_of_test {s : State} {e : Entry} {f : Team → Tile → Bool} (h : passTest s e f = true) :
    ∃ g t tile, Running s 0 9 e e.job ∧ s.group? 0 0 = some g ∧ g.team = e.team ∧ s.team? e.team = some t ∧ g.tiles[0]? = some tile ∧ f t tile = true := by
  unfold passTest at h
  split at h
  · next g t hg ht =>
    simp only [Bool.and_eq_true, decide_eq_true_eq, beq_iff_eq] at h
    obtain ⟨⟨h1, h2⟩, h3⟩ := h
    split at h3
    · next x hx => exact ⟨g, t, x, ⟨h1, rfl⟩, hg, h2, ht, hx, h3⟩
    · cases h3
  · cases h

/-- Every row of both operands can be read. -/
def rowsTest (read : Nat → Byte) (x y : Captured) (c : Mcfg) : Bool :=
  (List.range 64).all fun m => (operandRow read x 1 c.a c.spa c.kj m).isSome && (operandRow read y 1 c.b 0 c.kj m).isSome

theorem rows_of_test {read : Nat → Byte} {x y : Captured} {c : Mcfg} (h : rowsTest read x y c = true) : ∃ a b : Nat → List Val × Bool,
    ∀ m < 64, operandRow read x 1 c.a c.spa c.kj m = some (a m) ∧ operandRow read y 1 c.b 0 c.kj m = some (b m) := by
  refine ⟨fun m => (operandRow read x 1 c.a c.spa c.kj m).getD default, fun m => (operandRow read y 1 c.b 0 c.kj m).getD default, fun m hm => ?_⟩
  have := List.all_eq_true.mp h m (List.mem_range.mpr hm)
  rw [Bool.and_eq_true] at this
  have some_of : ∀ o : Option (List Val × Bool), o.isSome = true → o = some (o.getD default) := fun o ho => by cases o with
    | none => cases ho
    | some _ => rfl
  exact ⟨some_of _ this.1, some_of _ this.2⟩

/-- One row of the second operand cannot be read. -/
theorem row_of_test {read : Nat → Byte} {x y : Captured} {c : Mcfg} (h : rowsTest read x y c = false) :
    ∃ m < 64, operandRow read x 1 c.a c.spa c.kj m = none ∨ operandRow read y 1 c.b 0 c.kj m = none := by
  by_contra hn
  push Not at hn
  refine Bool.false_ne_true (h.symm.trans (List.all_eq_true.mpr fun m hm => ?_))
  have := hn m (List.mem_range.mp hm)
  simpa [Option.isSome_iff_ne_none] using this

/-- The configuration of two integer operands. -/
def config : Mcfg := (Mcfg.of 0x2490).get (by decide +kernel)

/-- What the pass reads. -/
def passReader (s : State) (t : Team) (x y : Captured) : Nat → Byte := (passRead s t config x y 1 .none).2.1

/-- R289: a pass of mma onto a tile of its kind, and onto one of the other. -/
theorem met_pass : ∃ (s : State) (g : Group) (t : Team) (tile : Tile) (a b : Nat → List Val × Bool), Running s 0 9 (passEntry 0x2490 true) (passEntry 0x2490 true).job ∧
    PassOf s (passEntry 0x2490 true) 0 g t tile 0x2490 config ∧ tile.z32 = config.z32 ∧ s.ecc = [] ∧
    ∀ m < 64, operandRow (passReader s t (.rows [(0, 0, 0x01010101)]) (.rows [(0, 0, 0x02020202)])) (.rows [(0, 0, 0x01010101)]) 1 config.a config.spa config.kj m = some (a m) ∧
      operandRow (passReader s t (.rows [(0, 0, 0x01010101)]) (.rows [(0, 0, 0x02020202)])) (.rows [(0, 0, 0x02020202)]) 1 config.b 0 config.kj m = some (b m) := by
  obtain ⟨g, t, x, h1, h2, h3, h4, h5, h6⟩ := pass_of_test (s := engaged (passEntry 0x2490 true) (newTile config.z32)) (e := passEntry 0x2490 true)
    (f := fun t x => (x.z32 == config.z32) && rowsTest (passReader (engaged (passEntry 0x2490 true) (newTile config.z32)) t (.rows [(0, 0, 0x01010101)]) (.rows [(0, 0, 0x02020202)]))
      (.rows [(0, 0, 0x01010101)]) (.rows [(0, 0, 0x02020202)]) config)
    (by decide +kernel)
  rw [Bool.and_eq_true, beq_iff_eq] at h6
  obtain ⟨a, b, h7⟩ := rows_of_test h6.2
  exact ⟨_, g, t, x, a, b, h1, ⟨h2, h3, h4, (Option.some_get _).symm, h5⟩, h6.1, rfl, h7⟩

/-- R279: the descriptors of both operands name bytes of seg2, and the first of them is in error. -/
def scratchPass : Entry := ⟨9, 0, 0, 1, some 0, true, 0, .pass 0 0x2490 (.desc 0 0x80) (.desc 4096 0x80) 1 .none⟩
theorem met_pass_poison : ∃ (s : State) (t : Team) (off : Nat), Running s 0 9 scratchPass scratchPass.job ∧ s.team? 1 = some t ∧
    off ∈ passBytes config (.desc 0 0x80) (.desc 4096 0x80) 1 ∧ s.poisonedTarget (s.scratchTarget t off) = true := by
  obtain ⟨g, t, x, h1, h2, h3, h4, h5, h6⟩ := pass_of_test (s := { engaged scratchPass (newTile config.z32) with ecc := [.scratch 0 0] }) (e := scratchPass)
    (f := fun t _ => (passBytes config (.desc 0 0x80) (.desc 4096 0x80) 1).contains 0 &&
      { engaged scratchPass (newTile config.z32) with ecc := [.scratch 0 0] }.poisonedTarget ({ engaged scratchPass (newTile config.z32) with ecc := [.scratch 0 0] }.scratchTarget t 0))
    (by decide +kernel)
  rw [Bool.and_eq_true] at h6
  exact ⟨_, t, 0, h1, h4, by simpa using h6.1, h6.2⟩
theorem met_pass_other : ∃ s g t tile, Running s 0 9 (passEntry 0x2490 true) (passEntry 0x2490 true).job ∧ PassOf s (passEntry 0x2490 true) 0 g t tile 0x2490 config ∧
    tile.z32 ≠ config.z32 := by
  obtain ⟨g, t, x, h1, h2, h3, h4, h5, h6⟩ := pass_of_test (s := engaged (passEntry 0x2490 true) (newTile !config.z32)) (e := passEntry 0x2490 true)
    (f := fun _ x => decide (x.z32 ≠ config.z32)) (by decide +kernel)
  exact ⟨_, g, t, x, h1, ⟨h2, h3, h4, (Option.some_get _).symm, h5⟩, of_decide_eq_true h6⟩

/-- R28: 2:4 sparse rows of A in scratch whose positions are all zero, where those of a group of four must rise. -/
def misfit : Entry := ⟨9, 0, 0, 1, some 0, true, 0, .pass 0 0x12490 (.desc 0 0x80) (.desc 4096 0x80) 1 .none⟩
def sparse : Mcfg := (Mcfg.of 0x12490).get (by decide +kernel)
def sparseReader (s : State) (t : Team) : Nat → Byte := (passRead s t sparse (.desc 0 0x80) (.desc 4096 0x80) 1 .none).2.1
theorem met_pass_misfit : ∃ (s : State) (t : Team), Running s 0 9 misfit misfit.job ∧ s.team? 1 = some t ∧ s.ecc = [] ∧
    ∃ m < 64, operandRow (sparseReader s t) (.desc 0 0x80) 1 sparse.a sparse.spa sparse.kj m = none ∨ operandRow (sparseReader s t) (.desc 4096 0x80) 1 sparse.b 0 sparse.kj m = none := by
  obtain ⟨g, t, x, h1, h2, h3, h4, h5, h6⟩ := pass_of_test (s := engaged misfit (newTile config.z32)) (e := misfit)
    (f := fun t _ => !rowsTest (sparseReader (engaged misfit (newTile config.z32)) t) (.desc 0 0x80) (.desc 4096 0x80) sparse) (by decide +kernel)
  exact ⟨_, t, h1, h4, rfl, row_of_test (by simpa using h6)⟩

/-- A drain of tile 0 to memory. -/
def draining (read : Bool) (out : List (Nat × Nat)) (fault : Option Nat) : Work := .drain 20 0 true 1 0 0 (.scratch 0 256) read out 4 none fault false 0
def drainEntry : Entry := ⟨7, 0, 0, 1, some 0, false, 0, .drain⟩
/-- The drain is operation 7, and its tile has the error `err`. -/
def drainState (err : Nat) : State := working (draining false [] none) (engaged drainEntry { newTile true with err := err } (standing))

def drainTest' (s : State) (f : Tile → Bool) : Bool :=
  match s.group? 0 0 with
  | some g => !g.engineHeld && decide ((s.quads[(0 : QuadId)]).entries.find? (fun x => x.id == 7) = some drainEntry) && (s.quads[(0 : QuadId)]).eligible drainEntry &&
    match g.tiles[0]? with
    | some x => f x
    | none => false
  | none => false
theorem drainStart_of_test {s : State} {f : Tile → Bool} {o : Op} (ho : s.op? 7 = some o) (h : drainTest' s f = true) : ∃ g t, Draining s 0 7 drainEntry o g t 0 ∧ f t = true := by
  unfold drainTest' at h
  split at h
  · next g hg =>
    simp only [Bool.and_eq_true, Bool.not_eq_true', decide_eq_true_eq] at h
    obtain ⟨⟨⟨h1, h2⟩, h3⟩, h4⟩ := h
    split at h4
    · next x hx => exact ⟨g, x, ⟨h2, ho, rfl, h3, hg, h1, hx⟩, h4⟩
    · cases h4
  · cases h
theorem met_drainStart : ∃ s o g t, Draining s 0 7 drainEntry o g t 0 ∧ t.err = 0 ∧ s.ecc = [] ∧ o.work = draining false [] none :=
  have ⟨g, t, h1, h2⟩ := drainStart_of_test (s := drainState 0) (o := ⟨7, 0, 0, 1, 0, 0, false, 0, draining false [] none, .none, .none⟩) (f := fun t => t.err == 0) rfl (by decide +kernel)
  ⟨_, _, g, t, h1, of_decide_eq_true h2, rfl, rfl⟩
theorem met_drainStart_fault : ∃ s o g t, Draining s 0 7 drainEntry o g t 0 ∧ t.err ≠ 0 ∧ o.work = draining false [] none :=
  have ⟨g, t, h1, h2⟩ := drainStart_of_test (s := drainState 2) (o := ⟨7, 0, 0, 1, 0, 0, false, 0, draining false [] none, .none, .none⟩) (f := fun t => decide (t.err ≠ 0)) rfl (by decide +kernel)
  ⟨_, _, g, t, h1, of_decide_eq_true h2, rfl⟩
/-- A drain that has read one element. -/
theorem met_drainComplete : ∃ (s u : State) (o : Op) (g : Group), Working s 7 o (draining true [(5, 4095)] none) ∧ s.group? o.core o.slot = some g ∧ g.engineHeld = false ∧
    OwnRegister s o 20 ∧ s.drainGo o g.ctx (.scratch 0 256) 4 [(5, 4095)] = (u, [], .done) := by
  have h : (match (working (draining true [(5, 4095)] none)  standing).group? 0 0 with
    | some g => !g.engineHeld && decide (((working (draining true [(5, 4095)] none) standing).drainGo ⟨7, 0, 0, 1, 0, 0, false, 0, draining true [(5, 4095)] none, .none, .none⟩ g.ctx (.scratch 0 256) 4
        [(5, 4095)]).2.1 = []) &&
      (match ((working (draining true [(5, 4095)] none) standing).drainGo ⟨7, 0, 0, 1, 0, 0, false, 0, draining true [(5, 4095)] none, .none, .none⟩ g.ctx (.scratch 0 256) 4 [(5, 4095)]).2.2 with
        | .done => true
        | _ => false)
    | none => false) = true := by decide +kernel
  split at h
  · next g hg =>
    simp only [Bool.and_eq_true, Bool.not_eq_true', decide_eq_true_eq] at h
    refine ⟨_, _, _, g, working_op _ _, hg, h.1.1, own_of_test (by decide) (by decide +kernel), Prod.ext rfl (Prod.ext h.1.2 ?_)⟩
    have := h.2
    split at this
    · next e => exact e
    · cases this
  · cases h

/-- The call that `calling` makes, as its operation holds it. -/
def callOf (bank : Bool) (todo : List Nat) (fault : Option Nat) : Call where
  token := 20
  desc := #v[0x118A4, 2, 16, 3]
  mrec := record 0 0 0 40000 0 0 2 8
  vrec := record 1024 0 0 400 0 0 0 8
  orec := record 2048 0 0 4000 0 0 0 8
  seg0 := segOf 0 65536 false
  seg4 := segOf 0 65536 false
  ctx := 0
  contract := 4
  seed := 0
  steer := 0x30604
  vbuf := none
  vecs := none
  vtag := 0
  bank := bank
  banked := false
  todo := todo
  partials := []
  wait := none
  fault := fault
  poison := false
  cvx := false
  oob := false
  dropped := 0

/-- The call's plan, as a test: it has four rows. -/
def planTest (c : Call) : Bool := c.plan.any fun p => p.desc.nr + 1 == 4
theorem plan_of_test {c : Call} (h : planTest c = true) : ∃ p, c.plan = some p ∧ p.desc.nr + 1 = 4 := by
  unfold planTest at h
  rw [Option.any_eq_true_iff_get] at h
  obtain ⟨h1, h2⟩ := h
  exact ⟨_, (Option.some_get h1).symm, by simpa using h2⟩

/-- R306: a core-path call that has posted none of its rows, the last of which stands apart. -/
theorem met_entryPost : ∃ (s : State) (o : Op) (c : Call) (g : Group), c.todo = (List.range 2).map (0 + ·) ++ [3] ∧ ([3] : List Nat).head? ≠ some (0 + 2) ∧ Working s 7 o (.mvx c) ∧
    s.group? o.core o.slot = some g ∧ g.engineHeld = false ∧ c.bank = false ∧ c.fault = none ∧ (rowEntries s o 7).length < 4 ∧ (s.quads[quadOf o.core]).entries.length < 32 :=
  ⟨working (.mvx (callOf false [0, 1, 3] none)) standing, _, callOf false [0, 1, 3] none, _, by decide, by decide, working_op _ _,
    exists_group0 (working (.mvx (callOf false [0, 1, 3] none)) standing) (by decide +kernel), by decide +kernel, rfl, rfl, by decide +kernel, by decide +kernel⟩

/-- A pair of pairs in its parts. -/
theorem four_parts {α β γ δ : Type} (x : α × β × γ × δ) {n : γ} {w : δ} (h1 : x.2.2.1 = n) (h2 : x.2.2.2 = w) : x = (x.1, x.2.1, n, w) :=
  Prod.ext rfl (Prod.ext rfl (Prod.ext h1 h2))

/-- The operation of a call. -/
def callOp (c : Call) : Op := ⟨7, 0, 0, 1, 0, 0, false, 0, .mvx c, .none, .none⟩

/-- The rows of a call run, as a test: `f` sees what comes of it. -/
def rowsRun (s : State) (c : Call) (is : List Nat) (f : State → Call → Nat → Written → Bool) : Bool :=
  match c.plan with
  | some p => let r := (s.readVectors (callOp c) c).1.mvxRows 7 0 p is (s.readVectors (callOp c) c).2 0
    f r.1 r.2.1 r.2.2.1 r.2.2.2
  | none => false
theorem rows_run {s : State} {c : Call} {is : List Nat} {f : State → Call → Nat → Written → Bool} (h : rowsRun s c is f = true) :
    ∃ p u v n m, c.plan = some p ∧ (s.readVectors (callOp c) c).1.mvxRows 7 0 p is (s.readVectors (callOp c) c).2 0 = (u, v, n, m) ∧ f u v n m = true := by
  unfold rowsRun at h
  split at h
  · next p hp => exact ⟨p, _, _, _, _, hp, rfl, h⟩
  · cases h

/-- The state of a call, with an entry for one row of it; the call's pages are mapped or not. -/
def callState (c : Call) (mapped : Bool) : State :=
  let s := { standing with
    quads := standing.quads.set 0 { standing.quads[(0 : QuadId)] with entries := [⟨9, 0, 0, 1, none, true, 0, .rows 7 [3]⟩] } }
  working (.mvx c) (if mapped then withMemory (boardMapped s) else { s with
    cores := s.cores.map fun x => { x with tlb := [] }, board := { s.board with roots := s.board.roots.set 0 (commonBase + 4096), tlb := Vector.replicate 8 [] } })

/-- R306: the entry of the last row of a call runs, and stops at a page. -/
def isDone : Written → Bool
  | .done => true
  | _ => false
def isPage : Written → Bool
  | .page _ => true
  | _ => false
theorem met_rows : ∃ (s u : State) (e : Entry) (o : Op) (c v : Call) (p : MvxPlan) (n : Nat) (m : Written), Running s 0 9 e (.rows 7 [3]) ∧ s.engineHeld e.core e.slot = false ∧
    Working s 7 o (.mvx c) ∧ c.plan = some p ∧ c.wait = none ∧ c.fault = none ∧ (s.readVectors o c).1.mvxRows 7 o.core p [3] (s.readVectors o c).2 0 = (u, v, n, m) ∧ isDone m = true :=
  have ⟨p, u, v, n, m, h1, h2, h3⟩ := rows_run (s := callState (callOf false [] none) true) (c := callOf false [] none) (is := [3]) (f := fun _ _ _ m => isDone m) (by decide +kernel)
  ⟨callState (callOf false [] none) true, u, ⟨9, 0, 0, 1, none, true, 0, .rows 7 [3]⟩, _, _, v, p, n, m, ⟨by decide +kernel, rfl⟩, by decide +kernel, working_op _ _, h1, rfl, rfl, h2, h3⟩
theorem met_rows_page : ∃ (s u : State) (c v : Call) (p : MvxPlan) (n : Nat) (m : Written), c.plan = some p ∧
    (s.readVectors (callOp c) c).1.mvxRows 7 0 p [3] (s.readVectors (callOp c) c).2 0 = (u, v, n, m) ∧ isPage m = true ∧ n < 1 :=
  have ⟨p, u, v, n, m, h1, h2, h3⟩ := rows_run (s := callState (callOf false [] none) false) (c := callOf false [] none) (is := [3])
    (f := fun _ _ n m => isPage m && decide (n < 1)) (by decide +kernel)
  ⟨callState (callOf false [] none) false, u, _, v, p, n, m, h1, h2, by simp_all, by simp_all⟩

/-- R314: the same of a group that is to be saved. -/
theorem met_rows_held : ∃ (s : State) (e : Entry), Running s 0 9 e (.rows 7 [3]) ∧ s.engineHeld e.core e.slot = true :=
  ⟨(callState (callOf false [] none) true).modGroup 0 0 fun g => { g with preempt := true }, ⟨9, 0, 0, 1, none, true, 0, .rows 7 [3]⟩, ⟨by decide +kernel, rfl⟩, by decide +kernel⟩

/-- R307: a call all of whose rows are computed, and one that failed. -/
theorem met_callComplete : ∃ (s : State) (o : Op) (c : Call) (p : MvxPlan), c.plan = some p ∧ Working s 7 o (.mvx c) ∧ s.engineHeld o.core o.slot = false ∧
    OwnRegister s o c.token ∧ c.wait = none ∧ (c.fault.isSome = true ∨ (c.bank = false ∧ c.todo = [] ∧ rowEntries s o 7 = [])) :=
  have ⟨p, h1, _⟩ := plan_of_test (c := callOf false [] none) (by decide +kernel)
  ⟨working (.mvx (callOf false [] none)) standing, _, _, p, h1, working_op _ _, by decide +kernel, own_of_test (by decide) (by decide +kernel), rfl, .inr ⟨rfl, rfl, by decide +kernel⟩⟩
theorem met_callComplete_fault : ∃ (s : State) (o : Op) (c : Call) (p : MvxPlan), c.plan = some p ∧ Working s 7 o (.mvx c) ∧ s.engineHeld o.core o.slot = false ∧ c.wait = none ∧
    c.fault.isSome = true :=
  have ⟨p, h1, _⟩ := plan_of_test (c := callOf true [1, 2, 3] (some 6)) (by decide +kernel)
  ⟨working (.mvx (callOf true [1, 2, 3] (some 6))) standing, _, _, p, h1, working_op _ _, by decide +kernel, rfl, rfl⟩

/-- R312: a bank computes the last row of a call. -/
theorem met_bankCall : ∃ (s u : State) (o : Op) (c v : Call) (p : MvxPlan) (n : Nat) (m : Written), c.plan = some p ∧ Working s 7 o (.mvx c) ∧ s.engineHeld o.core o.slot = false ∧
    OwnRegister s o c.token ∧ c.bank = true ∧ c.wait = none ∧ c.fault = none ∧ (s.readVectors o c).1.mvxRows 7 o.core p c.todo (s.readVectors o c).2 0 = (u, v, n, m) ∧ isDone m = true ∧
    v.wait = none ∧ v.token = c.token ∧ v.fault = none ∧ v.todo = [] ∧ rowEntries u o 7 = [] :=
  let c := callOf true [3] none
  let s := working (.mvx c) { callState c true with quads := standing.quads }
  have ⟨p, u, v, n, m, h1, h2, h3⟩ := rows_run (s := s) (c := c) (is := [3])
    (f := fun u v _ m => isDone m && decide (v.wait = none ∧ v.token = c.token ∧ v.fault = none ∧ v.todo = []) && (rowEntries u (callOp c) 7).isEmpty) (by decide +kernel)
  have h3 := (Bool.and_eq_true _ _).mp h3
  have h4 := (Bool.and_eq_true _ _).mp h3.1
  have h5 := of_decide_eq_true h4.2
  ⟨s, u, _, c, v, p, n, m, h1, working_op _ _, by decide +kernel, own_of_test (by decide) (by decide +kernel), rfl, rfl, rfl, h2, h4.1, h5.1, h5.2.1, h5.2.2.1, h5.2.2.2, List.isEmpty_iff.mp h3.2⟩

/-- The stream of handle 5 has a record of 4,000 elements. -/
def streaming (out : Bool) (st : HState) (cursor : Nat) : State :=
  let s := withHandle (fun h => { instanceOf out st h with cursor := cursor }) standing
  { s with
    teams := s.teams.map fun t => { t with inNext := Vector.replicate 8 1 }
    launches := s.launches.map fun l => { l with
      kernel := { l.kernel with records := [(4, 0)] }, args := l.args.set 0 (record 0 0 0 4000 0 0 0 8), seg := Vector.replicate 8 (segOf 0 65536 false) } }

theorem transfer_of_test {s : State} {test : Team → Handle → Flow → Bool} {f : Team → Flow → Bool}
    (h : (s.transfer? 0 0 5 test).any (fun x => f x.1 x.2) = true) : ∃ t x, s.transfer? 0 0 5 test = some (t, x) ∧ f t x = true := by
  rw [Option.any_eq_true_iff_get] at h
  obtain ⟨h1, h2⟩ := h
  exact ⟨_, _, (Option.some_get h1).symm, h2⟩

/-- R257: a fill may start; one has landed part of its tile; and a drain has written part. -/
theorem met_fillStart : ∃ (s : State) (t : Team) (f : Flow), s.transfer? 0 0 5 (fun t h f => s.fillReady t 5 h f) = some (t, f) :=
  have ⟨t, x, h, _⟩ := transfer_of_test (s := streaming false .free 0) (test := fun t h f => (streaming false .free 0).fillReady t 5 h f) (f := fun _ _ => true) (by decide +kernel)
  ⟨_, t, x, h⟩
theorem met_fill : ∃ (s : State) (t : Team) (f : Flow), Serves s 0 0 5 (fun h => !h.out && h.st == .filling) t f ∧ (t.handles[(5 : Fin 32)]).cursor ≠ f.decl.tile :=
  have ⟨t, x, h, h2⟩ := transfer_of_test (s := streaming false .filling 64) (test := fun _ h _ => (!h.out && h.st == .filling) && h.wait.isNone)
    (f := fun t x => decide ((t.handles[(5 : Fin 32)]).cursor ≠ x.decl.tile)) (by decide +kernel)
  ⟨_, t, x, h, of_decide_eq_true h2⟩
theorem met_drain_stream : ∃ (s : State) (t : Team) (f : Flow), Serves s 0 0 5 (fun h => h.out && h.st == .draining) t f ∧ f.hasTile (((t.handles[(5 : Fin 32)]).tile).getD 0) = true :=
  have ⟨t, x, h, h2⟩ := transfer_of_test (s := streaming true .draining 64) (test := fun _ h _ => (h.out && h.st == .draining) && h.wait.isNone)
    (f := fun t x => x.hasTile (((t.handles[(5 : Fin 32)]).tile).getD 0)) (by decide +kernel)
  ⟨_, t, x, h, h2⟩

/-! ### Witnesses: restores, translation, the Board, links and the host -/

/-- The board holds an image of no byte, of a group that had asked for nothing. -/
def withImage (s : State) : State :=
  { s with board := { s.board with saved := (s.group? 0 0).toList.map fun g => ⟨9, 0, chipOf 0, g.team, g.gid, { g with allot := { g.allot with granted := false } }, [], [], none⟩ } }

/-- R407: `ctx.rest` of an image whose entries fit. -/
theorem met_ctxRest : Met (.ctxRest 4) fun s b => ∃ m g d, s.members b = [m] ∧ s.group? b.core m.slot = some g ∧ g.handler = some d ∧ d.cls = 0x17 ∧
    d.restore = true ∧ s.restReady b m 4 = (s, true) :=
  met_of_test (withImage (on (.ctxRest 4) (inHandler 0x17 true ∘ withRecord 0)))
    (f := fun s b m g => (g.handler.any fun d => d.cls == 0x17 && d.restore) && match s.imageAt b.core m.slot g g.b[(4 : Fin 32)] none with
      | some im => !im.asked && decide (im.entries.length ≤ s.freeEntries b.core)
      | none => false) (by decide +kernel) fun b m g q hp => by
    rw [Bool.and_eq_true, Option.any_eq_true_iff_get] at hp
    obtain ⟨⟨h1, h2⟩, h3⟩ := hp
    rw [Bool.and_eq_true, beq_iff_eq] at h2
    obtain ⟨d, hd⟩ := Option.isSome_iff_exists.mp h1
    have h2 : d.cls = 0x17 ∧ d.restore = true := by simpa [hd] using h2
    refine ⟨m, g, d, q.members, q.group, hd, h2.1, h2.2, ?_⟩
    split at h3
    · next im hi =>
      rw [Bool.and_eq_true, decide_eq_true_eq] at h3
      unfold State.restReady
      simp only [q.group, hd, hi, h2, and_self, if_true, h3.1, Bool.true_or, h3.2, decide_true]
    · cases h3

/-- R359: an invalidation in progress that nothing holds up. -/
def invalidating : State := { State.reset with board := { State.reset.board with inval := BitVec.ofNat 128 (2 ^ 127 + 2 ^ 112 + 2 ^ 102) } }
theorem met_invalidation : invalidating.board.inval.getLsbD 127 = true ∧ invalidating.invalPending invalidating.board.inval = false ∧
    (invalidating.board.inval.getLsbD 120 = true → invalidating.board.hostAck = true) ∧ ∀ c, namesChip invalidating.board.inval (chipOf c) = true → ∀ x ∈ (invalidating.cores[c]).l1, x.dirty = false := by
  refine ⟨by decide +kernel, by decide +kernel, fun h => absurd h (by decide +kernel), fun c _ x hx => ?_⟩
  simp [invalidating, State.reset, Core.reset] at hx
/-- The same for the host too, which has not answered, and has. -/
def askingHost (ack : Bool) : State := { State.reset with board := { State.reset.board with inval := BitVec.ofNat 128 (2 ^ 127 + 2 ^ 120 + 2 ^ 112 + 2 ^ 102), hostAck := ack } }
theorem met_invalidation_waits : (askingHost false).board.inval.getLsbD 120 = true ∧ (askingHost false).board.hostAck = false := by decide +kernel
theorem met_invalidation_host : (askingHost true).board.inval.getLsbD 127 = true ∧ (askingHost true).invalPending (askingHost true).board.inval = false ∧
    (askingHost true).board.hostAck = true := by decide +kernel
theorem met_invalidation_idle : State.reset.board.inval.getLsbD 127 = false := by decide +kernel

/-- R371: a switch that no request holds up. -/
theorem met_switch : ∃ s : State, s.board.busy = true ∧ s.switchPending = false ∧ ∀ o ∈ s.ops, ∀ x : Call, o.work = .mvx x → x.bank = false :=
  ⟨{ State.reset with board := { State.reset.board with busy := true } }, rfl, by decide +kernel, fun _ h => absurd h List.not_mem_nil⟩
theorem met_writeback : ∃ s : State, ∃ m ∈ s.msc, m.line / 8 = 1 ∧ m.dirty = true := ⟨{ State.reset with msc := [⟨8, none, true⟩] }, ⟨8, none, true⟩, by simp, rfl, rfl⟩

/-- Every link is up and keyed, and function 0 has rings of 16 entries at host addresses 0 and 4,096. -/
def hosting (f : VirtFn → VirtFn) : State :=
  { State.reset with board := { State.reset.board with
    links := State.reset.board.links.map fun l => { l with up := true, keyed := true }
    vf := State.reset.board.vf.map fun v => f { v with sqsize := 16, cqsize := 4096, sqbase := 0, cqbase := 4096 } } }
theorem hosting_up (f : VirtFn → VirtFn) (n : Fin 35) : linkUp (hosting f) n := by simp [linkUp, hosting]

/-- Page tables map the first 2 MiB to the address `pa`, and for writing if `w`. -/
def mapping (pa : Nat) (w : Bool) : State :=
  let t := bytesAt (commonBase + 384) (leBytes 128 (commonBase + 512 + 1) ++ leBytes 128 (commonBase + 640 + 1) ++ leBytes 128 (pa + 3 + 4 * w.toNat)) State.reset
  { t with board := { t.board with roots := t.board.roots.set 0 (commonBase + 384), links := t.board.links.map fun l => { l with up := true, keyed := true } } }
def leafTest (s : State) (f : State → TlbEntry → Bool) : Bool :=
  let u := s.walkFrom 0 (31 * 65536 % 2 ^ 57) 8
  match u.walkGo 0 (31 * 65536 % 2 ^ 57) u.board.roots[(0 : Fin 64)] walkLevels with
  | .leaf e => f u e
  | _ => false
/-- A host translation of page 31 finds the leaf `e`. -/
def Translates (s : State) (e : TlbEntry) : Prop :=
  let u := s.walkFrom 0 (31 * 65536 % 2 ^ 57) 8
  u.walkGo 0 (31 * 65536 % 2 ^ 57) u.board.roots[(0 : Fin 64)] walkLevels = .leaf e
theorem leaf_of_test {s : State} {f : State → TlbEntry → Bool} (h : leafTest s f = true) : ∃ e, Translates s e ∧ f (s.walkFrom 0 (31 * 65536 % 2 ^ 57) 8) e = true := by
  unfold leafTest at h
  dsimp only at h
  split at h
  · next e he => exact ⟨e, he, h⟩
  · cases h
/-- R361: the last page of a leaf, for a write where the leaf permits it and where it does not; one of a region that is not valid; and no leaf. -/
theorem met_hostTranslation_link : (∀ w, (mapping commonBase w).linkOpen 0 = true) ∧ (mapping 0 true).linkOpen 0 = true ∧ State.reset.linkOpen 0 = false := by decide +kernel
theorem met_hostTranslation : ∃ (s : State) (e : TlbEntry), Translates s e ∧ e.w = true ∧ (s.walkFrom 0 (31 * 65536 % 2 ^ 57) 8).unreachable (e.pa + 31 * 65536 % 2 ^ 57 % 2 ^ e.size) = false :=
  have ⟨e, h1, h2⟩ := leaf_of_test (s := mapping commonBase true) (f := fun u e => e.w && !u.unreachable (e.pa + 31 * 65536 % 2 ^ 57 % 2 ^ e.size)) (by decide +kernel)
  ⟨_, e, h1, by simpa using h2⟩
theorem met_hostTranslation_readOnly : ∃ (s : State) (e : TlbEntry), Translates s e ∧ e.w = false :=
  have ⟨e, h1, h2⟩ := leaf_of_test (s := mapping commonBase false) (f := fun _ e => !e.w) (by decide +kernel)
  ⟨_, e, h1, by simpa using h2⟩
theorem met_hostTranslation_unreachable : ∃ (s : State) (e : TlbEntry), Translates s e ∧ (s.walkFrom 0 (31 * 65536 % 2 ^ 57) 8).unreachable (e.pa + 31 * 65536 % 2 ^ 57 % 2 ^ e.size) = true :=
  have ⟨e, h1, h2⟩ := leaf_of_test (s := mapping 0 true) (f := fun u e => u.unreachable (e.pa + 31 * 65536 % 2 ^ 57 % 2 ^ e.size)) (by decide +kernel)
  ⟨_, e, h1, h2⟩
theorem met_hostTranslation_none : ∃ s : State, ∀ e, ¬Translates s e := by
  refine ⟨hosting id, fun e h => ?_⟩
  have h2 : leafTest (hosting id) (fun _ _ => true) = false := by decide +kernel
  unfold Translates at h
  dsimp only at h
  unfold leafTest at h2
  dsimp only at h2
  rw [h] at h2
  cases h2

/-- R247: a grant that is a whole number of 1,024 and fits, and one of 65,537 cells in all. -/
theorem met_grantCells : ∃ (s : State) (v : BitVec 128), v.toNat % 1024 = 0 ∧ (s.board.cellGrant.set (7 : Fin 8) v.toNat).toList.sum ≤ 65536 := ⟨State.reset, 65536, by decide +kernel, by decide +kernel⟩
theorem met_grantCells_refused : ∃ (s : State) (v : BitVec 128), v.toNat % 1024 ≠ 0 ∨ 65536 < (s.board.cellGrant.set (7 : Fin 8) v.toNat).toList.sum :=
  ⟨State.reset, 66560, .inr (by decide +kernel)⟩
theorem met_handlerWord : ∃ s : State, 0 < s.board.handler.length := ⟨{ State.reset with board := { State.reset.board with handler := [0] } }, by decide⟩

/-- R422, R426: a tenant's job runs in context 63, and an entry takes the context away; another leaves it. -/
def employed : State := { State.reset with board := { State.reset.board with
  tenants := State.reset.board.tenants.set 7 (BitVec.ofNat 128 (2 ^ 127 + 2 ^ 63)), vf := State.reset.board.vf.set 7 { State.reset.board.vf[(7 : Fin 8)] with job := some 5 } } }
def rewritten (v : BitVec 128) : State := { employed with board := { employed.board with tenants := employed.board.tenants.set 7 (v &&& ~~~0x7FFF) } }
theorem met_tenantEntry : (rewritten (BitVec.ofNat 128 (2 ^ 127 + 2 ^ 63 + 2 ^ 55))).tenantCtx 7 = employed.tenantCtx 7 ∧ employed.tenantCtx 7 = some 63 ∧
    (rewritten 0).tenantCtx 7 ≠ some 63 ∧ (employed.board.vf[(7 : Fin 8)]).job = some 5 ∧ (State.reset.board.vf[(7 : Fin 8)]).job = none := by decide +kernel

/-- R427: of any class that has a unit in service one has the least figure; a class has none. -/
theorem met_classFigure : ∃ (s : State) (i : Fin 488), unitClass i = some 0 ∧ s.unitLive i = true ∧ ∀ j, unitClass j = some 0 → s.unitLive j = true → s.months i ≤ s.months j := by
  let s : State := { State.reset with board := { State.reset.board with chipOut := Vector.replicate 8 false } }
  have hs : unitClass 0 = some 0 ∧ s.unitLive 0 = true := by decide +kernel
  obtain ⟨i, hi, h⟩ := Finset.exists_min_image (Finset.univ.filter fun j => unitClass j = some 0 ∧ s.unitLive j = true) s.months ⟨0, by simp [hs]⟩
  rw [Finset.mem_filter] at hi
  exact ⟨s, i, hi.2.1, hi.2.2, fun j h1 h2 => h j (by simp [h1, h2])⟩
theorem met_classFigure_none : ∃ s : State, ∀ j, unitClass j = some 0 → s.unitLive j = false :=
  ⟨{ State.reset with board := { State.reset.board with chipOut := Vector.replicate 8 true } }, by decide +kernel⟩

/-- R425 to R428: a new error of each kind at the end of its number's range, units without teams and with one, and heat. -/
theorem met_ecc : eccSite (7 * 3 + 1) ∉ State.reset.ecc ∧ eccSite (7 * 3 + 6) ∉ State.reset.ecc := ⟨List.not_mem_nil, List.not_mem_nil⟩
theorem met_unitRetire : (∀ t ∈ State.reset.teams, t.core ≠ (0 : CoreId)) ∧ (∀ t ∈ State.reset.teams, quadOf t.core ≠ 95) ∧
    (∀ t ∈ State.reset.teams, chipOf t.core ≠ 7) ∧ ∀ t ∈ State.reset.board.suspended, chipOf t.core ≠ 7 :=
  ⟨fun _ h => absurd h List.not_mem_nil, fun _ h => absurd h List.not_mem_nil, fun _ h => absurd h List.not_mem_nil, fun _ h => absurd h List.not_mem_nil⟩
theorem met_unitRetire_waits : (∃ s : State, ∃ t ∈ s.teams, chipOf t.core = 0) ∧ ∃ s : State, s.teams = [] ∧ ∃ t ∈ s.board.suspended, chipOf t.core = 0 :=
  ⟨⟨{ State.reset with teams := [placedTeam 8 9] }, _, List.mem_singleton.mpr rfl, by decide +kernel⟩,
    { State.reset with board := { State.reset.board with suspended := [placedTeam 8 9] } }, rfl, _, List.mem_singleton.mpr rfl, by decide +kernel⟩
theorem met_closing : ∃ s : State, (3 : CoreId) ∈ [(2 : CoreId), 3] ∧ s.board.closing[chipOf 3] = true :=
  ⟨{ State.reset with board := { State.reset.board with closing := Vector.replicate 8 true } }, by decide, by decide +kernel⟩
theorem met_activation : ∃ s : State, s.board.staged.find? (fun x => x.1 == 3) = some (3, [1]) := ⟨{ State.reset with board := { State.reset.board with staged := [(3, [1])] } }, by decide +kernel⟩
theorem met_throttle : 0 < State.reset.board.clockMhz[(16 : Fin 17)] := by decide +kernel

/-- R429: the device has no power, and a power-up is next or is not. -/
def unpowered (a : List Event) : State := { State.reset with agenda := a, board := { State.reset.board with power := false } }
theorem met_unpowered : (unpowered []).board.power = false ∧ ∀ rest, (unpowered []).agenda ≠ .row .powerUpReset :: rest := ⟨rfl, fun _ h => nomatch h⟩
theorem met_powerUp : (unpowered [.row .powerUpReset]).board.power = false ∧ (unpowered [.row .powerUpReset]).agenda = .row .powerUpReset :: [] := ⟨rfl, rfl⟩

/-- R420: links that have failed so often, or in training; firmware holds no completion entry. -/
def failed (n : Nat) (x : Bool := false) : State := { State.reset with board := { State.reset.board with links := State.reset.board.links.map fun l => { l with failures := n, failed := x } } }
theorem met_links : ((failed 2).board.links[(34 : Fin 35)]).failures < 3 ∧ ((failed 2).board.links[(34 : Fin 35)]).failed = false ∧ ((failed 3).board.links[(34 : Fin 35)]).failures = 3 ∧
    ((failed 3).board.links[(34 : Fin 35)]).failed = false ∧ ((failed 3).board.links[(34 : Fin 35)]).failures < 4 ∧ 4 ≤ ((failed 4).board.links[(0 : Fin 35)]).failures ∧
    ((failed 0 true).board.links[(18 : Fin 35)]).failed = true := by decide +kernel
theorem met_links_held : NoneHeld (failed 3) ∧ NoneHeld (failed 4) ∧ NoneHeld (failed 0 true) := by unfold NoneHeld; decide +kernel

theorem size_16 : RingSize 16 := ⟨4, by decide, by decide, by decide⟩
theorem size_4096 : RingSize 4096 := ⟨12, by decide, by decide, by decide⟩

theorem met_sqtail : ∃ s : State, linkUp s 0 ∧ (s.board.vf[(0 : Fin 8)]).ready = true := ⟨hosting fun v => { v with ready := true }, hosting_up _ 0, by decide +kernel⟩
theorem met_sqtail_legal : ∃ s : State, linkUp s 0 ∧ (s.board.vf[(0 : Fin 8)]).ready = false ∧ RingSize (s.board.vf[(0 : Fin 8)]).sqsize ∧ RingSize (s.board.vf[(0 : Fin 8)]).cqsize ∧
    (s.board.vf[(0 : Fin 8)]).sqbase.toNat % 64 = 0 ∧ (s.board.vf[(0 : Fin 8)]).cqbase.toNat % 64 = 0 :=
  have h : (hosting id).board.vf[(0 : Fin 8)].sqsize = 16 ∧ (hosting id).board.vf[(0 : Fin 8)].cqsize = 4096 := by decide +kernel
  ⟨hosting id, hosting_up _ 0, by decide +kernel, h.1 ▸ size_16, h.2 ▸ size_4096, by decide +kernel, by decide +kernel⟩
theorem met_sqtail_illegal : ∃ s : State, linkUp s 0 ∧ (s.board.vf[(0 : Fin 8)]).ready = false ∧ (s.board.vf[(0 : Fin 8)]).sqbase.toNat % 64 ≠ 0 :=
  ⟨hosting fun v => { v with sqbase := 32 }, hosting_up _ 0, by decide +kernel, by decide +kernel⟩
theorem met_cqhead : ∃ s : State, linkUp s 0 ∧ (s.board.vf[(0 : Fin 8)]).held = [] := ⟨hosting id, hosting_up _ 0, by decide +kernel⟩
theorem met_cqhead_held : ∃ (s : State) (e : List Byte × View) (w : Word), linkUp s 0 ∧ (s.board.vf[(0 : Fin 8)]).held = [e] ∧ (s.board.vf[(0 : Fin 8)]).ready = true ∧
    (s.board.vf[(0 : Fin 8)]).cqpos + 1 < (s.board.vf[(0 : Fin 8)]).cqsize.toNat ∧ (s.board.vf[(0 : Fin 8)]).cqpos + 1 ≠ w.toNat :=
  ⟨hosting fun v => { v with ready := true, held := [(leBytes 16 5, .none)] }, (leBytes 16 5, .none), 7, hosting_up _ 0, by decide +kernel, by decide +kernel, by decide +kernel, by decide +kernel⟩

/-- A tenant with one context and the chiplet 0, whose ring is READY and holds an entry of zeros: the record at address 0. -/
def submitting : State :=
  let s := hosting fun v => { v with ready := true, sqtail := 1 }
  let s := bytesAt commonBase (launchBytes 1) s
  { s with board := { s.board with
    tenants := s.board.tenants.set 0 (BitVec.ofNat 128 (2 ^ 64 + 2 ^ 63 + 2 ^ 55))
    ctxSegs := s.board.ctxSegs.set 0 (Vector.replicate 8 (segOf 0 65536 false))
    tlb := s.board.tlb.set 0 [⟨0, 0, 21, commonBase, 0, none, true, true, .none⟩] } }
/-- What firmware reads of function 0's next entry. -/
def entryRead (s : State) : State × List Byte × View :=
  let v := s.board.vf[(0 : Fin 8)]
  let r := s.readAs v.rung ((List.range 32).map fun i => .phys (hostBase + v.sqbase.toNat + 32 * v.sqpos + i) none)
  (r.1, r.2.1, v.rung)
/-- What firmware finds of the record that it names. -/
def entryAdmission (s : State) (ctx : Fin 64) : State × Admission :=
  let r := entryRead s
  r.1.admission (.board ((s.chips ctx).headD 0)) ctx s.board.ctxSegs[ctx] (leValue (r.2.1.take 8) % 2 ^ 57) (fun _ => (s.board.vf[(0 : Fin 8)]).refused)
    fun s ts => ((s.readAs r.2.2 ts).1, (s.readAs r.2.2 ts).2.1)
def EntryWaits (s : State) : Prop :=
  (s.board.vf[(0 : Fin 8)]).ready = true ∧ (s.board.vf[(0 : Fin 8)]).wait = none ∧
    (s.board.vf[(0 : Fin 8)]).sqpos ≠ (s.board.vf[(0 : Fin 8)]).sqtail.toNat % (s.board.vf[(0 : Fin 8)]).sqsize.toNat ∧
    leValue (((entryRead s).2.1.drop 16).take 4) = 0
def submitTest (s : State) (f : State → Admission → Bool) : Bool :=
  let v := s.board.vf[(0 : Fin 8)]
  decide (v.ready = true ∧ v.wait = none ∧ v.sqpos ≠ v.sqtail.toNat % v.sqsize.toNat ∧ leValue (((entryRead s).2.1.drop 16).take 4) = 0) && match s.tenantCtx 0 with
  | some ctx => f (entryAdmission s ctx).1 (entryAdmission s ctx).2
  | none => false
/-- The last clause of `HostRings` applies to function 0. -/
def Submits (s : State) (f : State → Admission → Bool) : Prop :=
  ∃ (u : State) (ctx : Fin 64) (a : Admission), EntryWaits s ∧ s.tenantCtx 0 = some ctx ∧ entryAdmission s ctx = (u, a) ∧ f u a = true
theorem submits_of_test {s : State} {f : State → Admission → Bool} (h : submitTest s f = true) : Submits s f := by
  unfold submitTest at h
  rw [Bool.and_eq_true] at h
  obtain ⟨h1, h⟩ := h
  have h1 := of_decide_eq_true h1
  split at h
  · next ctx hc => exact ⟨_, ctx, _, h1, hc, Prod.mk.eta.symm, h⟩
  · cases h
/-- An entry whose record is accepted while its queue has room and while it has none, and one whose record is all zeros. -/
theorem met_submission : Submits submitting (fun u a => match a with | .accept l _ => decide ((u.board.queues[l.queue]).length < 256) | _ => false) ∧ linkUp submitting 0 :=
  ⟨submits_of_test (by decide +kernel), hosting_up (fun v => { v with ready := true, sqtail := 1 }) 0⟩
def fullQueues : State := { submitting with board := { submitting.board with queues := Vector.replicate 64 (List.replicate 256 1) } }
theorem met_submission_full : ∃ s : State, Submits s fun u a => match a with | .accept l _ => decide (256 ≤ (u.board.queues[l.queue]).length) | _ => false :=
  ⟨fullQueues, submits_of_test (by decide +kernel)⟩
theorem met_submission_refused : ∃ s : State, Submits s fun _ a => match a with | .refuse _ => true | _ => false :=
  ⟨{ submitting with mem := [] }, submits_of_test (by decide +kernel)⟩

/-- R416: the last line of a tenant's range. -/
theorem met_hostAccess : linkUp (hosting id) 0 ∧ 2 ^ 40 - 64 + 64 ≤ 2 ^ 40 ∧ 3 < 4 := ⟨hosting_up _ 0, by decide, by decide⟩
/-- R416: the last aligned location of the first region of tenant 0. -/
theorem met_hostAtomic : ∃ s : State, linkUp s 0 ∧ 2 ^ 30 - 8 + (leBytes 8 5).length ≤ 2 ^ 40 ∧ (leBytes 8 5).length ∈ [1, 2, 4, 8] ∧ (2 ^ 30 - 8) % (leBytes 8 5).length = 0 ∧
    ∀ i < (leBytes 8 5).length, (rangeByte s 0 (2 ^ 30 - 8 + i)).isSome = true :=
  let s := hosting id
  ⟨{ s with board := { s.board with owner := s.board.owner.set 0 (some 0), regions := s.board.regions.set 0 0x80000000 } }, hosting_up id 0, by decide, by decide, by decide, by decide +kernel⟩
/-- R417: the ends of the ranges of BAR0 that hold no register; and rings that are READY and are not. -/
theorem met_bar : (∀ off ∈ [0x0C, 0x0F, 0x14, 0x17, 0x24, 0x27, 0x2C, 0x2F, 0x34, 0xFFF], off < 4096 ∧ (0x0C ≤ off ∧ off < 0x10 ∨ 0x14 ≤ off ∧ off < 0x18 ∨ 0x24 ≤ off ∧ off < 0x28 ∨
      0x2C ≤ off ∧ off < 0x30 ∨ 0x34 ≤ off)) ∧ ((hosting id).board.vf[(0 : Fin 8)]).ready = false ∧ ((hosting fun v => { v with ready := true }).board.vf[(7 : Fin 8)]).ready = true := by
  decide +kernel
/-- R228: the last bytes of the host's own memory. -/
theorem met_hostOwn : linkUp (hosting id) 0 ∧ 2 ^ 51 - 2 + ([1, 2] : List Byte).length ≤ 2 ^ 51 := ⟨hosting_up _ 0, by decide⟩
/-- R227: a peer reads the first sector of an export of common memory, and one that no export serves. -/
theorem met_peer : ∃ (s : State) (e : Export), PeerUp s ∧ 7 ≠ s.board.pkg ∧ s.board.exports = [e] ∧ e.tenant = (2 ^ 38 + 4096) / 2 ^ 38 ∧
    e.off ≤ (2 ^ 38 + 4096) % 2 ^ 38 / 32 * 32 ∧ (2 ^ 38 + 4096) % 2 ^ 38 / 32 * 32 + 32 ≤ e.off + e.size ∧
    ∀ i < 32, s.unreachable (e.pa + ((2 ^ 38 + 4096) % 2 ^ 38 / 32 * 32 - e.off) + i) = false ∧ s.peerRefuses (e.pa + ((2 ^ 38 + 4096) % 2 ^ 38 / 32 * 32 - e.off) + i) = false :=
  ⟨{ hosting id with board := { (hosting id).board with exports := [⟨1, 4096, 65536, commonBase⟩] } }, ⟨1, 4096, 65536, commonBase⟩, ⟨18, by decide, by decide, hosting_up id 18⟩,
    by decide +kernel, rfl, by decide, by decide, by decide, by decide +kernel⟩
theorem met_peer_write : ∃ (s : State) (e : Export), PeerUp s ∧ 7 ≠ s.board.pkg ∧ s.board.exports = [e] ∧ e.tenant = (2 ^ 38 + 4096) / 2 ^ 38 ∧
    e.off ≤ (2 ^ 38 + 4096) % 2 ^ 38 ∧ (2 ^ 38 + 4096) % 2 ^ 38 + 2 ≤ e.off + e.size ∧
    ∀ i < 2, s.unreachable (e.pa + ((2 ^ 38 + 4096) % 2 ^ 38 - e.off) + i) = false ∧ s.peerRefuses (e.pa + ((2 ^ 38 + 4096) % 2 ^ 38 - e.off) + i) = false :=
  ⟨{ hosting id with board := { (hosting id).board with exports := [⟨1, 4096, 2, commonBase⟩] } }, ⟨1, 4096, 2, commonBase⟩, ⟨1, by decide, by decide, hosting_up id 1⟩,
    by decide +kernel, rfl, by decide, by decide, by decide, by decide +kernel⟩
theorem met_peer_none : PeerUp (hosting id) ∧ 7 ≠ (hosting id).board.pkg ∧ (hosting id).board.exports = [] :=
  ⟨⟨1, by decide, by decide, hosting_up id 1⟩, by decide +kernel, by decide +kernel⟩

/-! ### Witnesses: the machine as a whole -/

theorem met_encode : encode (.iaddi 0 64 (.v 65) 1) = some 0x08202081 ∧ decode 0x08202081 = .ok (.iaddi 0 64 (.v 65) 1) := ⟨by decide +kernel, by
  have h : decodes [(0x08202081, .iaddi 0 64 (.v 65) 1)] = true := by decide +kernel
  simp only [decodes, List.all_cons, List.all_nil, Bool.and_true] at h
  split at h
  · next i e => rw [e, of_decide_eq_true h]
  · cases h⟩

/-- R43: a step issues the placed word; a step runs an event; and nothing is due. -/
theorem met_step : ∃ (s : State) (b : Bundle) (i : Instr), s.board.power = true ∧ s.agenda = .issue 0 :: [] ∧ s.due (.issue 0) = none ∧
    s.bundles[(({ s with agenda := [] } : State).selected 0).getD 0]? = some b ∧ decode b.current.toNat = .ok i :=
  ⟨placed 0x08202081, front (placed 0x08202081), _, rfl, rfl, by decide +kernel, by decide +kernel, met_encode.2⟩
theorem met_step_event : encode .powerDown = none ∧ ∃ s : State, s.board.power = true ∧ s.agenda = .row .powerDown :: [] ∧ s.due (.row .powerDown) = none :=
  ⟨by decide +kernel, { State.reset with agenda := [.row .powerDown] }, rfl, rfl, by decide +kernel⟩
/-- A word of code is no event of its own. -/
theorem met_step_word : (encode .rcv).isSome = true ∧ ∃ s : State, s.board.power = true ∧ s.agenda = .row .rcv :: [] ∧ s.due (.row .rcv) = none :=
  ⟨by decide +kernel, { State.reset with agenda := [.row .rcv] }, rfl, rfl, by decide +kernel⟩
/-- R107: a group that has starved is marked before time passes on its core. -/
theorem met_step_due : ∃ s : State, s.board.power = true ∧ s.agenda.head?.getD s.choose = .tick 0 1 ∧ s.due (.tick 0 1) = some (.row (.groupStarved 0 0)) :=
  ⟨{ standing.modCore 0 fun x => { x with sched := x.sched.map fun y => { y with starve := 1536 } } with agenda := [.tick 0 1] }, by decide +kernel, rfl, by decide +kernel⟩
theorem met_step_chosen : ∃ s : State, s.board.power = true ∧ s.agenda = [] ∧ s.due s.choose = none ∧ ∃ t, s.act s.choose = .next t :=
  ⟨askingHost false, rfl, rfl, by decide +kernel, _, rfl⟩

/-- No row has this word. -/
noncomputable def refuses (w : Nat) : Bool := match decode w with
  | .ok _ => false
  | .error _ => true
theorem refused {w : Nat} (h : refuses w = true) : ∃ e, decode w = .error e := by
  unfold refuses at h
  split at h
  · cases h
  · next e he => exact ⟨e, he⟩
/-- The group of a bundle is not in handler mode, as a test. -/
def userTest (s : State) (b : Bundle) : Bool := (s.members b).all fun m => (s.group? b.core m.slot).all fun g => g.handler.isNone
theorem user_of_test {s : State} {b : Bundle} (h : userTest s b = true) : NoHandler s b := by
  intro m hm g hg
  have := List.all_eq_true.mp h m hm
  rw [hg] at this
  exact Option.isNone_iff_eq_none.mp this
theorem met_step_refused : ∃ (s : State) (b : Bundle) (e : DecodeError), s.board.power = true ∧ s.agenda = .issue 0 :: [] ∧ s.due (.issue 0) = none ∧
    s.bundles[(({ s with agenda := [] } : State).selected 0).getD 0]? = some b ∧ (b.members.map Member.slot).Nodup ∧ NoHandler s b ∧ decode b.current.toNat = .error e :=
  have ⟨e, h⟩ := refused (w := 0xFE000000) (by decide +kernel)
  ⟨placed 0xFE000000, front (placed 0xFE000000), e, rfl, rfl, by decide +kernel, by decide +kernel, by decide +kernel, user_of_test (by decide +kernel), h⟩

/-- The machine goes on, as a test. -/
noncomputable def goesOn (s : State) : Bool := match step s with
  | .next _ => true
  | _ => false
theorem next_of_test {s : State} (h : goesOn s = true) : ∃ t, step s = .next t := by
  unfold goesOn at h
  split at h
  · next t e => exact ⟨t, e⟩
  · cases h
/-- A device that is about to lose its power, with one byte listed. -/
def listed : State := { State.reset with mem := [(5, 1)], agenda := [.row .powerDown] }
theorem met_canonical : MemoryCanonical listed ∧ ∃ t, step listed = .next t := ⟨show Memory.wf listed.mem = true by decide +kernel, next_of_test (by decide +kernel)⟩

/-- R53: a run of two uniform registers from s127. -/
theorem met_static : ∃ (i : Instr) (s : State) (b : Bundle) (inPrefix : Bool) (cls : Nat), (encode i).isSome = true ∧ (∀ q x r z f o c, i ≠ .pfx q x r z f o c) ∧
    s.bundles.head? = some b ∧ (b.members.map Member.slot).Nodup ∧ (∀ m ∈ s.members b, s.breaks b m = none) ∧ NoHandler s b ∧ (infoOf i).static b.pfx = some (inPrefix, cls) :=
  ⟨.launch 20 127, placed 0, front (placed 0), false, 0x02, by decide +kernel, (fun _ _ _ _ _ _ _ h => by cases h), rfl, by decide +kernel, by decide +kernel, user_of_test (by decide +kernel),
    by decide +kernel⟩

theorem met_contained : ∃ (i : Instr) (s t : State) (b : Bundle), (encode i).isSome = true ∧ s.bundles.head? = some b ∧ NoHandler s b ∧ exec i s = .next t :=
  ⟨.iaddi 0 64 (.v 65) 1, placed 0, _, front (placed 0), by decide +kernel, rfl, user_of_test (by decide +kernel), rfl⟩

/-! ### Words that the specification writes out (R52, R56, R81, R119, R143, R153, R174, R246, R270, R301, R381) -/

theorem test_words : decodes [
    (0x3C424214, .fmul 1 4 (.s 4) 20), (0x800C1C01, .uadd 3 3 (.imm 1)), (0x90081478, .uminZ 2 2 (.imm 0x78)), (0x92143207, .ucmp 5 6 4 (.reg 7)),
    (0x94100FE0, .umovhi 4 0xFE0), (0x3E000082, .ffma 0 0 (.v 1) 2), (0x9E000080, .sreadV 0 0), (0x32808010, .icmpi 2 false 1 (.v 0) 16), (0x74010003, .movi 0 2 3),
    (0x6A018108, .xlnRadd 0 3 (.v 2)), (0x6A020118, .xlnIscanAdd 0 4 (.v 2)), (0xA4084000, .recld 2 8)] = true := by decide +kernel
theorem test_words_memory : decodes [
    (0x66010D01, .bredAdd 2 3 2 1), (0x60011101, .amoFAdd 2 4 2 1), (0x58018E01, .ld 0 3 3 4 1), (0x62030C81, .amoCAdd 6 3 1 1), (0x64031881, .amoRAdd 6 6 1),
    (0x0600C100, .imad 0 1 (.s 2) 0), (0xBA0C0805, .xpld 3 1 5), (0x75C025C0, .movi 7 0 0x25C0), (0x70000000, .mma 0 0 (.v 0) (.v 0)), (0xC0C8A000, .launch 50 20)] = true := by
  decide +kernel
/-- `ufmin` with I = 1 (R153), and `umovhi` of 0x4000, which has 15 bits (R154). -/
theorem test_refused : refuses 0x90041603 = true ∧ refuses 0x94044000 = true := by decide +kernel

/-! ### Terms that are not well formed -/

/-- R56: rows that cross v63, and a block beyond v127. -/
theorem test_illFormed_rows : Instr.illFormed (.fadd 7 48 (.v 0) 8) = some .registers ∧ Instr.illFormed (.fadd 7 104 (.v 64) 72) = some .registers := by decide +kernel
theorem test_illFormed_run : Instr.illFormed (.launch 20 127) = some .registers := by decide +kernel
theorem test_illFormed_code : Instr.illFormed (.loopr 0 6 0) = some .code := by decide +kernel
theorem test_illFormed_place : Instr.illFormed (.registerWrite 3 0 0) = some .place ∧ Instr.illFormed (.linkRetrainComplete 35) = some .place := by decide +kernel
theorem test_wellFormed : Instr.illFormed (.fadd 7 32 (.v 0) 8) = none ∧ Instr.illFormed (.registerWrite 4 63 0) = none := by decide +kernel

/-! ### Single steps -/

/-- A lane register after the instruction; the registers v1 and v2 of each thread hold `x` and `y`, and v0 holds `z`. -/
noncomputable def laneAfter (i : Instr) (x y z : Word) (l : Lane) (r : Fin 128) : Option Word :=
  match exec i (on i (eachThread fun t => { t with v := ((t.v.set 1 x).set 2 y).set 0 z })) with
  | .next t => (t.group? 0 0).map fun g => (g.threads[l]).v[r]
  | _ => none

/-- A uniform register after the instruction, where s3 holds `x` and s4 holds `y`. -/
noncomputable def uniformAfter (i : Instr) (x y : Word) (r : Fin 128) : Option Word :=
  match exec i (on i (withS 3 x ∘ withS 4 y)) with
  | .next t => (t.group? 0 0).map fun g => g.s[r]
  | _ => none

/-- R144: the worked case that sets FFMA against FMUL. -/
theorem test_ffma : laneAfter (.ffma 0 0 (.v 1) 2) 0x3F800800 0x3F800800 0xBF801000 31 0 = some 0x33800000 := by decide +kernel
theorem test_fmul : laneAfter (.fmul 0 3 (.v 1) 2) 0x3F800800 0x3F800800 0 0 3 = some 0x3F801000 := by decide +kernel
theorem test_fadd_cancels : laneAfter (.fadd 0 3 (.v 1) 2) 0x3F801000 0xBF801000 1 5 3 = some 0 := by decide +kernel
/-- R145: −0 lies below +0. -/
theorem test_fmin_zero : laneAfter (.fmin 0 3 (.v 1) 2) 0x80000000 0 1 0 3 = some 0x80000000 := by decide +kernel
theorem test_fmax_zero : laneAfter (.fmax 0 3 (.v 1) 2) 0x80000000 0 1 0 3 = some 0 := by decide +kernel
/-- R135: sums wrap, and the source is also the destination. -/
theorem test_iadd_wraps : laneAfter (.iadd 0 1 (.v 1) 2) 0xFFFFFFFF 2 0 7 1 = some 1 := by decide +kernel
theorem test_isub_wraps : laneAfter (.isub 0 2 (.v 1) 2) 0 1 0 7 2 = some 0xFFFFFFFF := by decide +kernel
theorem test_movi : laneAfter (.movi 0 2 3) 0 0 0 31 2 = some 3 := by decide +kernel
theorem test_uadd : uniformAfter (.uadd 3 3 (.imm 1)) 0xFFFFFFFF 0 3 = some 0 := by decide +kernel
/-- R154: 1.0. -/
theorem test_umovhi : uniformAfter (.umovhi 4 0xFE0) 0 0 4 = some 0x3F800000 := by decide +kernel

/-- A step fetches and runs the placed word. -/
theorem test_step : (match step (State.reset.withFetchWord 32 0x74010003) with
    | .next t => (t.group? 0 0).map fun g => (g.threads[(31 : Fin 32)]).v[(2 : Fin 128)]
    | _ => none) = some 3 := by decide +kernel

end Sys2Proof.Tests
end

section
/-! PROOFS. LOOPR with its ring (R63, R121), MOVI (R122), and the PREFIX that keeps its fields for the next word (R66). -/

namespace Sys2Proof

open Machine Laws

/-! ### Static checks (R53, R67) -/

/-- R67: a PREFIX before a word that takes none. -/
theorem static_pfx_refused {i : WordInfo} (h : i.rule.allowed = false) (p : Pfx) : i.static (some p) = some (true, 0x01) := by
  simp [WordInfo.static, PfxRule.check, h]

/-- R53: a word with a reserved code, and no PREFIX before it. -/
theorem static_bad {i : WordInfo} (h : i.bad = some 0x01) : i.static none = some (false, 0x01) := by
  simp [WordInfo.static, WordInfo.ownClass, h]

/-- R63, R121: the codes that LOOPR refuses. -/
theorem looprInfo_bad {c : Fin 128} {step : Fin 8} {o : BitVec 15} (h : 6 ≤ step.val ∨ o = 0) : (looprInfo c step o).bad = some 0x01 :=
  if_pos h

/-- R67, R122: the fields of a PREFIX that MOVI refuses. -/
theorem moviInfo_static_refused (e : Ext) (d : Fin 128) {p : Pfx} (h : 2 ≤ p.mod ∨ p.rnd ≠ 0 ∨ p.fourth ≠ 0 ∨ p.scope ≠ 0) :
    (moviInfo e d).static (some p) = some (true, 0x01) := by
  have hc : (moviInfo e d).rule.check p ((moviInfo e d).fourthFits p) = some 0x01 := by
    simp only [PfxRule.check, moviInfo]
    rcases h with hmod | hrnd | hfourth | hscope
    · have h0 : p.mod ≠ 0 := by omega
      have h1 : p.mod ≠ 1 := by omega
      simp [h0, h1]
    · simp [hrnd]
    · simp [hfourth]
    · simp [hscope]
  simp only [WordInfo.static, hc]

/-! ### Words that act on the groups present in a bundle -/

theorem mem_groupsOf {s : State} {b : Bundle} {m : Member} {g : Group} (hm : m ∈ s.members b) (hg : s.group? b.core m.slot = some g) :
    (m, g) ∈ groupsOf s b :=
  List.mem_filterMap.2 ⟨m, hm, by rw [hg, Option.map_some]⟩

/-- A fold over the groups of a bundle that stand in their slots, each of which it changes by itself. -/
theorem eachMember_present {s : State} {b : Bundle} {f : Member → Group → State → State} {F : Member → Group → Group}
    (hn : (b.members.map Member.slot).Nodup)
    (hf : ∀ m ∈ s.members b, ∀ g, s.group? b.core m.slot = some g → ∀ v : Vector (Option Group) 32, v[m.slot] = some g →
      f m g (withSlots s b.core v) = withSlots s b.core (v.set m.slot (some (F m g)))) :
    (s.eachMember b fun m s => match s.group? b.core m.slot with
      | none => s
      | some g => f m g s) = onGroups s b F := by
  refine eachMember_groups hn fun m hm v hv => ?_
  rw [withSlots_group]
  cases hk : v[m.slot] with
  | none => exact withSlots_keep hk
  | some g => exact hf m hm g (hv.symm.trans hk) v hk

/-- R398: a trap for lanes of a group that is not in handler mode changes the threads of that group. -/
theorem raise_slots {s : State} {b : Bundle} {k : Slot} {v : Vector (Option Group) 32} {g : Group} (lanes : Lane → Bool) (cls : Nat)
    (detail : List Word) (after : Bool) (hk : v[k] = some g) (hh : g.handler = none) :
    (withSlots s b.core v).raise b k lanes cls detail after
      = withSlots s b.core (v.set k (some (trapping b after lanes cls detail g))) := by
  by_cases ha : (List.finRange 32).any lanes = true
  · simp only [State.raise, withSlots_group, hk, ha, hh, if_true, Option.isSome_none, Bool.false_eq_true, if_false, withSlots_setGroup]
    rfl
  · have hl : ∀ l, lanes l = false := by simpa using ha
    have ht : trapping b after lanes cls detail g = g := mapThreads_id g _ fun l => by simp [hl]
    rw [raise_none _ _ _ _ _ _ _ hl, ht, ← withSlots_keep hk]

/-! ### LOOPR (R121) -/

theorem encode_loopr (c : Fin 128) (step : Fin 8) (o : BitVec 15) :
    encode (.loopr c step o) = some (0x7C000000 + c.val * 2 ^ 18 + step.val * 2 ^ 15 + o.toNat) := by
  simp only [encode, word, Option.some.injEq]
  omega

/-- R50: the target of a backward offset. -/
theorem target_neg (b : Bundle) (n : Nat) : b.target (-(n : Int)) = b.after - BitVec.ofNat 32 (4 * n) := by
  rw [Bundle.target, Int.mul_neg, BitVec.ofInt_neg, ← BitVec.sub_eq_add_neg, ← BitVec.ofInt_natCast, Nat.cast_mul]
  rfl

/-- R121: LOOPR counts down before it compares the count with 0. -/
theorem loopedThread_eq (b : Bundle) (c : Fin 128) (step : Fin 8) (o : BitVec 15) (g : Group) (t : Thread) :
    loopedThread b c step o g t =
      let x := t.lane g.ring c.val
      if x = 0 then t.goto b.after
      else
        let t := t.setLane g.ring c.val (x - 1)
        if x - 1 = 0 then t.goto b.after
        else { t.goto (b.target (-(o.toNat : Int))) with turn := if g.ring = 0 then 0 else (t.turn + 2 ^ step.val) % g.ring } := by
  have hlast : t.lane g.ring c.val - 1 = 0 ↔ t.lane g.ring c.val = 1 := sub_eq_zero
  unfold loopedThread
  simp only [hlast, target_neg]
  split
  · rfl
  split
  · next h => rw [h]; rfl
  · rfl

/-- R114, R121: LOOPR moves the threads of a group that has the counter and traps those of a group that does not. -/
theorem execLoopr_eq (c : Fin 128) (step : Fin 8) (o : BitVec 15) (s : State) :
    exec (.loopr c step o) s = issue (looprInfo c step o) (fun b _ s => s.eachMember b fun m s => match s.group? b.core m.slot with
      | none => s
      | some g => if g.inAllot c.val then s.moveThreads b m fun g _ t => loopedThread b c step o g t
        else s.raise b m.slot (fun l => hasBit m.sel l) 0x02 [b.current, BitVec.ofNat 32 (b.idx + 1)]) s := by
  simp only [loopedThread_eq]
  rfl

/-- R121: LOOPR where every group has the counter. -/
theorem loopr_loops (c : Fin 128) (step : Fin 8) (o : BitVec 15) :
    Completes (.loopr c step o) (fun s b => ∀ x ∈ groupsOf s b, x.2.inAllot c.val = true)
      fun s b => onSelected s b fun g _ t => loopedThread b c step o g t := by
  refine flow_completes (execLoopr_eq c step o) rfl rfl fun s b h hin => eachMember_present h.slots fun m hm g hg v hk => ?_
  rw [if_pos (hin _ (mem_groupsOf hm hg)), moveThreads_slots _ hm s (hk.trans hg.symm), hk, Option.map_some]

/-- R114, R121: LOOPR where no group has the counter. -/
theorem loopr_traps (c : Fin 128) (step : Fin 8) (o : BitVec 15) :
    Completes (.loopr c step o) (fun s b => NoHandler s b ∧ ∀ x ∈ groupsOf s b, x.2.inAllot c.val = false)
      fun s b => onGroups s b fun m g => trapping b false (fun l => hasBit m.sel l) 0x02 [b.current, BitVec.ofNat 32 (b.idx + 1)] g := by
  refine completes (execLoopr_eq c step o) rfl rfl (fun s b h hx => ?_) fun _ _ => rfl
  obtain ⟨hh, hout⟩ := hx
  refine eachMember_present h.slots fun m hm g hg v hk => ?_
  rw [if_neg (Bool.eq_false_iff.1 (hout _ (mem_groupsOf hm hg)))]
  exact raise_slots _ _ _ _ hk (hh m hm g hg)

/-- Settles O14: the word and its static checks from its bits, the step where the groups have the counter and where they do not. -/
theorem loopBranch : Obligations.LoopBranch := by
  unfold Obligations.LoopBranch
  intro c step o
  exact ⟨encode_loopr c step o, rfl, fun h => static_bad (looprInfo_bad h), static_pfx_refused rfl, loopr_loops c step o, loopr_traps c step o⟩

/-! ### MOVI (R122) -/

theorem encode_movi (e : Ext) (d : Fin 128) (m : BitVec 15) :
    encode (.movi e d m) = some (0x74000000 + e.val * 2 ^ 22 + d.val * 2 ^ 15 + m.toNat) := by
  simp only [encode, word, Option.some.injEq]
  omega

/-- R122: MOD 1 places the immediate in the upper bits. -/
theorem moviValue_eq (mod : Nat) (m : BitVec 15) :
    moviValue mod m = if mod = 1 then BitVec.ofNat 32 (m.toNat * 2 ^ 17) else m.signExtend 32 := by
  have h : m.zeroExtend 32 <<< 17 = BitVec.ofNat 32 (m.toNat * 2 ^ 17) := by
    apply BitVec.eq_of_toNat_eq
    simp [Nat.shiftLeft_eq]
  rw [moviValue, h]

theorem moveImmediate : Claim.MoveImmediate := by
  intro e d m
  have hwrites := writes_movi e d m
  simp only [moviValue_eq] at hwrites
  exact ⟨encode_movi e d m, fun _ h => moviInfo_static_refused e d h, hwrites⟩

/-! ### PREFIX (R66) -/

/-- R108: the PREFIX that issues counts as an issue of each group of its bundle, which changes nothing. -/
def countPfx (s : State) (b : Bundle) : State :=
  (s.members b).foldl (fun s m => s.modCore b.core fun x =>
    { x with sched := x.sched.set m.slot ((x.sched[m.slot]).issued (b.offset b.here) false) }) s

/-- R66: a PREFIX with a word behind it and no other PREFIX before it keeps its fields. -/
theorem issuePfx_next (p : Pfx) {s : State} {b : Bundle} {rest : List Bundle} (hb : s.bundles = b :: rest)
    (hbr : ∀ m ∈ s.members b, s.breaks b m = none) (hst : s.stalls b {} = false) (hp : b.pfx = none) (hw : b.idx + 1 < b.words.length) :
    issuePfx p s = .next ({ countPfx s b with bundles := { b with idx := b.idx + 1, pfx := some p } :: rest }.elapse b.core 1) := by
  have hnobrk : ((s.members b).any fun m => (s.breaks b m).isSome) = false := by
    rw [List.any_eq_false]
    intro m hm
    simp [hbr m hm]
  have hplace : ¬(b.pfx.isSome = true ∨ b.words.length ≤ b.idx + 1) := by simp [hp, hw]
  simp only [issuePfx, hb, hnobrk, hst, hplace, Bool.false_eq_true, if_false]
  rfl

theorem prefixes : Claim.Prefixes := by
  intro q sense r z f o c s b rest hb hbr hst hp hw
  exact issuePfx_next _ hb hbr hst hp hw

/-- Settles O36: MOVI by its value in `writes_movi`, PREFIX by `issuePfx_next`. -/
theorem moveImmediateAndPrefixes : Obligations.MoveImmediateAndPrefixes :=
  ⟨moveImmediate, prefixes⟩

end Sys2Proof
end

section
/-! PROOFS. The integer lane words (R135 to R141): arithmetic, division, minima and maxima, logic, shifts, bitfields and the integer forms
of IUN. Each is the effect of its word in Laws/LaneWords.lean with the value at one position written as the rule has it. -/

namespace Sys2Proof

open Machine Laws

/-! ### Words and shapes -/

/-- R54, R59: the word of a row whose fixed bits below the major are `k`, and whose last field is `n`. -/
theorem spelled_row {i : Instr} {base major k n : Nat} {e : Ext} {d : Fin 128} {a : LaneSrc}
    (h : encode i = some (word base [(22, e.val), (15, d.val), (7, a.code), (0, n)])) (hb : base = major * 2 ^ 25 + k) :
    Spelled i major e d a (k + n) := by
  unfold Spelled
  rw [h]
  cases a <;> simp only [word, LaneSrc.code, Option.some.injEq] <;> omega

/-- R54, R59: the word of a row without fixed bits below the major. -/
theorem spelled_major {i : Instr} {base major n : Nat} {e : Ext} {d : Fin 128} {a : LaneSrc}
    (h : encode i = some (word base [(22, e.val), (15, d.val), (7, a.code), (0, n)])) (hb : base = major * 2 ^ 25) :
    Spelled i major e d a n := by
  have hs := spelled_row (k := 0) h (hb.trans (Nat.add_zero _).symm)
  rwa [Nat.zero_add] at hs

theorem WritesBlock.congr {i : Instr} {op : LaneOp} {f f' : ElemIn → Word} (h : WritesBlock i op f) (hf : ∀ x, f x = f' x) :
    WritesBlock i op f' := by
  have he : f = f' := funext hf
  rwa [he] at h

/-- R67: the check of a PREFIX that passes accepts its MOD. -/
theorem check_none_mod {r : PfxRule} {p : Pfx} {fits : Bool} (h : r.check p fits = none) : p.mod ∈ r.mods := by
  by_contra hn
  have hc : r.mods.contains p.mod = false := by simpa using hn
  simp only [PfxRule.check, hc, Bool.not_false, if_true] at h
  split_ifs at h

/-- R67: a word that passes its static checks issues under a MOD that its rule accepts. -/
theorem Issues.mod_le {s : State} {b : Bundle} {i : WordInfo} (h : Issues s b i) {n : Nat} (hm : ∀ m ∈ i.rule.mods, m ≤ n) :
    (prefixOf b).mod ≤ n := by
  have hl := h.legal
  cases hp : b.pfx with
  | none =>
    rw [prefixOf, hp]
    exact Nat.zero_le n
  | some p =>
    rw [prefixOf, hp]
    rw [hp, WordInfo.static] at hl
    refine hm _ (check_none_mod (fits := i.fourthFits p) ?_)
    cases hc : i.rule.check p (i.fourthFits p) with
    | none => exact hc
    | some c => simp [hc] at hl

/-- R67: the value of a word matters under the MODs that its rule accepts. -/
theorem WritesBlock.congr_mod {i : Instr} {op : LaneOp} {f f' : ElemIn → Word} (h : WritesBlock i op f) {n : Nat}
    (hm : ∀ m ∈ (infoOf i).rule.mods, m ≤ n) (hf : ∀ x : ElemIn, x.mod ≤ n → f x = f' x) : WritesBlock i op f' := by
  intro s b hs hin hc
  have he : ∀ g l t pos, f (op.elem b.pfx (prefixOf b) g l t pos) = f' (op.elem b.pfx (prefixOf b) g l t pos) :=
    fun _ _ _ _ => hf _ (hs.mod_le hm)
  simpa only [he] using h s b hs hin hc

/-! ### Arithmetic (R135) -/

/-- R135: wrapped, clamped to Z32, clamped to N32. -/
theorem narrow_eq (mod : Nat) (x : Int) :
    narrow mod x = if mod = 1 then BitVec.ofInt 32 (max (-2 ^ 31) (min (2 ^ 31 - 1) x))
      else if mod = 2 then BitVec.ofInt 32 (max 0 (min (2 ^ 32 - 1) x)) else BitVec.ofInt 32 x := by
  have hz : satZ 32 x = max (-2 ^ 31) (min (2 ^ 31 - 1) x) := by rw [satZ, min_comm]; rfl
  have hn : satN 32 x = max 0 (min (2 ^ 32 - 1) x) := by rw [satN, min_comm]; rfl
  unfold narrow
  split
  · rw [hz]; rfl
  · rw [hn]; rfl
  · next h1 h2 => rw [if_neg h1, if_neg h2]

/-- R135: the exact result of the operands as the MOD reads them, narrowed as the MOD has it. -/
theorem narrow_intOf (f : Int → Int → Int → Int) (x : ElemIn) :
    narrow x.mod (f (intOf x.mod x.a) (intOf x.mod x.b) (intOf x.mod x.c)) = exactly f x := by
  rw [narrow_eq, exactly]
  by_cases h1 : x.mod = 1
  · simp [h1, intOf]
  · by_cases h2 : x.mod = 2 <;> simp [h1, h2, intOf]

/-- R135: the high word of an integer is that of its 64 bits. -/
theorem highWord_eq (x : Int) : highWord x = (BitVec.ofInt 64 x).extractLsb' 32 32 := by
  apply BitVec.eq_of_toNat_eq
  rw [highWord, BitVec.extractLsb'_toNat, BitVec.toNat_ofInt, BitVec.toNat_ofInt, Nat.shiftRight_eq_div_pow]
  omega

theorem highWord_signed (a b : Word) : highWord (a.toInt * b.toInt) = (a.signExtend 64 * b.signExtend 64).extractLsb' 32 32 := by
  rw [highWord_eq, BitVec.ofInt_mul]
  rfl

theorem highWord_unsigned (a b : Word) :
    highWord ((a.toNat : Int) * b.toNat) = (a.zeroExtend 64 * b.zeroExtend 64).extractLsb' 32 32 := by
  rw [highWord_eq, BitVec.ofInt_mul, BitVec.ofInt_natCast, BitVec.ofInt_natCast, BitVec.ofNat_toNat, BitVec.ofNat_toNat]

/-- Settles O1: the words by `spelled_major`, the values by `narrow_intOf` and the high words. -/
theorem integerArithmetic : Obligations.IntegerArithmetic := by
  unfold Obligations.IntegerArithmetic
  intro e d b a m
  exact ⟨spelled_major rfl rfl, spelled_major rfl rfl, spelled_major rfl rfl, spelled_major rfl rfl, spelled_major rfl rfl,
    spelled_major rfl rfl, spelled_major rfl rfl,
    (writes_iadd e d a b).congr (narrow_intOf fun x y _ => x + y),
    (writes_isub e d a b).congr (narrow_intOf fun x y _ => x - y),
    (writes_imul e d a b).congr (narrow_intOf fun x y _ => x * y),
    (writes_imad e d a b).congr (narrow_intOf fun x y z => x * y + z),
    (writes_iaddi e d a m).congr (narrow_intOf fun x y _ => x + y),
    (writes_imulhZ e d a b).congr fun x => highWord_signed x.a x.b,
    (writes_imulhN e d a b).congr fun x => highWord_unsigned x.a x.b⟩

/-! ### Division (R136) -/

theorem ofInt_tdiv (a b : Word) : BitVec.ofInt 32 (a.toInt.tdiv b.toInt) = a.sdiv b := by
  apply BitVec.eq_of_toInt_eq
  rw [BitVec.toInt_ofInt, BitVec.toInt_sdiv]

theorem ofInt_tmod (a b : Word) : BitVec.ofInt 32 (a.toInt.tmod b.toInt) = a.srem b := by
  rw [← BitVec.toInt_srem, BitVec.ofInt_toInt]

/-- R136: in the case of the signed overflow the wrapped quotient and remainder are those of the table. -/
theorem divZ_nonzero (a : Word) {b : Word} (hb : b ≠ 0) : divZ a b = (a.sdiv b, a.srem b) := by
  rw [divZ, if_neg hb]
  split
  · next h =>
    obtain ⟨rfl, rfl⟩ := h
    decide
  · rw [ofInt_tdiv, ofInt_tmod]

theorem divZ_quotient (a b : Word) : (divZ a b).1 = quotZ a b := by
  by_cases hb : b = 0
  · simp [divZ, quotZ, hb, BitVec.slt]
  · rw [divZ_nonzero a hb, quotZ, if_neg hb]

theorem divZ_remainder (a b : Word) : (divZ a b).2 = if b = 0 then a else a.srem b := by
  by_cases hb : b = 0
  · simp [divZ, hb]
  · rw [divZ_nonzero a hb, if_neg hb]

theorem divN_eq (a b : Word) : divN a b = (if b = 0 then BitVec.allOnes 32 else a / b, if b = 0 then a else a % b) := by
  by_cases hb : b = 0
  · simp only [divN, hb, if_true]
    rfl
  · simp only [divN, hb, if_false, ← BitVec.toNat_udiv, ← BitVec.toNat_umod, BitVec.ofNat_toNat, BitVec.setWidth_eq]

/-- Settles O2: the words by `spelled_major`, the values by `divZ_quotient`, `divZ_remainder` and `divN_eq`. -/
theorem integerDivision : Obligations.IntegerDivision := by
  unfold Obligations.IntegerDivision
  intro e d b a
  refine ⟨spelled_major rfl rfl, spelled_major rfl rfl, (writes_idivZ e d a b).congr fun x => ?_,
    (writes_idivN e d a b).congr fun x => ?_⟩
  · rw [divZ_quotient, divZ_remainder]
  · rw [divN_eq]

/-! ### Minima and maxima (R137) -/

/-- A choice by a strict comparison of the values of two words may be made by the reversed one, where equal words leave nothing to
choose. -/
theorem ite_lt_swap {α : Type} [LinearOrder α] {v : Word → α} (hv : Function.Injective v) {a b x y : Word} (h : a = b → x = y) :
    (if v b < v a then x else y) = if v a < v b then y else x := by
  rcases lt_trichotomy (v a) (v b) with hlt | heq | hgt
  · rw [if_neg hlt.asymm, if_pos hlt]
  · rw [h (hv heq), ite_self, ite_self]
  · rw [if_pos hgt, if_neg hgt.asymm]

theorem ite_slt_swap {a b x y : Word} (h : a = b → x = y) : (if b.slt a then x else y) = if a.slt b then y else x := by
  simpa [BitVec.slt] using ite_lt_swap (v := BitVec.toInt) (fun _ _ => BitVec.eq_of_toInt_eq) h

theorem ite_ult_swap {a b x y : Word} (h : a = b → x = y) : (if b.ult a then x else y) = if a.ult b then y else x := by
  simpa [BitVec.ult] using ite_lt_swap (v := BitVec.toNat) (fun _ _ => BitVec.eq_of_toNat_eq) h

/-! ### Shifts (R138, R139) -/

theorem shlWord_eq (a n : Word) : shlWord a n = a <<< n := by
  rw [shlWord, BitVec.shiftLeft_eq']
  split
  · rfl
  · next h => rw [BitVec.shiftLeft_eq_zero (Nat.le_of_not_lt h)]; rfl

theorem shrNWord_eq (a n : Word) : shrNWord a n = a >>> n := by
  rw [shrNWord, BitVec.ushiftRight_eq']
  split
  · rfl
  · next h => rw [BitVec.ushiftRight_eq_zero (Nat.le_of_not_lt h)]; rfl

/-- R138: from 32 on the copies of the sign fill the register. -/
theorem sshiftRight_full (a : Word) {n : Nat} (hn : 32 ≤ n) : a.sshiftRight n = if a.msb then 0xFFFFFFFF#32 else 0 := by
  cases h : a.msb with
  | false => rw [BitVec.sshiftRight_eq_of_msb_false h, BitVec.ushiftRight_eq_zero hn]; rfl
  | true => rw [BitVec.sshiftRight_eq_of_msb_true h, BitVec.ushiftRight_eq_zero hn]; rfl

theorem shrZWord_eq (a n : Word) : shrZWord a n = a.sshiftRight' n := by
  rw [shrZWord, BitVec.sshiftRight_eq']
  split
  · rfl
  · next h => rw [sshiftRight_full a (Nat.le_of_not_lt h)]

theorem rolWord_eq (a : Word) (n : Fin 32) : rolWord a n.val = a.rotateLeft n.val :=
  (BitVec.rotateLeft_eq_rotateLeftAux_of_lt n.isLt).symm

theorem logicAndRegisterShifts : Claim.LogicAndShifts := by
  intro e d b a
  exact ⟨spelled_major rfl rfl, spelled_major rfl rfl, spelled_major rfl rfl, spelled_major rfl rfl, spelled_major rfl rfl,
    spelled_major rfl rfl, spelled_major rfl rfl, spelled_major rfl rfl, spelled_major rfl rfl, spelled_major rfl rfl,
    (writes_iminZ e d a b).congr fun _ => ite_slt_swap Eq.symm,
    (writes_imaxZ e d a b).congr fun _ => ite_slt_swap id,
    (writes_iminN e d a b).congr fun _ => ite_ult_swap Eq.symm,
    (writes_imaxN e d a b).congr fun _ => ite_ult_swap id,
    writes_and e d a b, writes_or e d a b, writes_xor e d a b,
    (writes_shl e d a b).congr fun x => shlWord_eq x.a x.b,
    (writes_shrN e d a b).congr fun x => shrNWord_eq x.a x.b,
    (writes_shrZ e d a b).congr fun x => shrZWord_eq x.a x.b⟩

theorem immediateShifts : Claim.ImmediateShifts := by
  intro e d a n
  exact ⟨spelled_major rfl rfl, spelled_row rfl rfl, spelled_row rfl rfl, spelled_row rfl rfl,
    writes_ishiShl e d a n, writes_ishiShrN e d a n, writes_ishiShrZ e d a n,
    (writes_ishiRol e d a n).congr fun x => rolWord_eq x.a n⟩

/-- Settles O3: the words by `spelled_major` and `spelled_row`, the values by the lemmas on comparisons and shifts. -/
theorem logicAndShifts : Obligations.LogicAndShifts := ⟨logicAndRegisterShifts, immediateShifts⟩

/-! ### Bitfields (R140) -/

theorem cut_eq (b : Word) : cut b = (fieldPos b, fieldLen b) := by simp [cut, fieldPos, fieldLen, fieldOf]

/-- R13: the value of a bit vector with a sign. -/
theorem toInt_eq_signedOf {n : Nat} (hn : n ≠ 0) (x : BitVec n) : x.toInt = signedOf n x.toNat := by
  have hp : 2 * 2 ^ (n - 1) = 2 ^ n := mul_pow_sub_one hn 2
  have hlt : 2 * x.toNat < 2 ^ n ↔ x.toNat < 2 ^ (n - 1) := by omega
  simp only [BitVec.toInt_eq_toNat_cond, signedOf, Nat.mod_eq_of_lt x.isLt, hlt]

/-- R140: a field of a word with its sign above. -/
theorem signExtend_field (a : Word) (p n : Nat) :
    (a.extractLsb' p n).signExtend 32 = if n = 0 then 0 else BitVec.ofInt 32 (signedOf n (fieldOf a.toNat p n)) := by
  have hx : (a.extractLsb' p n).toNat = fieldOf a.toNat p n := by
    rw [BitVec.extractLsb'_toNat, Nat.shiftRight_eq_div_pow, fieldOf]
  split
  · next h =>
    subst h
    simp [BitVec.signExtend, BitVec.toInt_zero_length]
  · next h => rw [← hx, ← toInt_eq_signedOf h, BitVec.signExtend]

/-- R140: a number in which the field of `n` bits from `p` on is replaced is made of what stands above, the new field and what stands
below. -/
theorem replaceField_parts (f a p n : Nat) :
    f - fieldOf f p n * 2 ^ p + fieldOf a 0 n * 2 ^ p = 2 ^ p * (2 ^ n * (f / 2 ^ p / 2 ^ n) + a % 2 ^ n) + f % 2 ^ p := by
  have hnew : fieldOf a 0 n = a % 2 ^ n := by simp [fieldOf]
  have hold : f = 2 ^ p * (2 ^ n * (f / 2 ^ p / 2 ^ n)) + fieldOf f p n * 2 ^ p + f % 2 ^ p := by
    conv_lhs => rw [← Nat.div_add_mod f (2 ^ p), ← Nat.div_add_mod (f / 2 ^ p) (2 ^ n)]
    rw [fieldOf, Nat.mul_add, Nat.mul_comm (f / 2 ^ p % 2 ^ n)]
  rw [hnew, Nat.mul_add, Nat.mul_comm (2 ^ p) (a % 2 ^ n)]
  omega

/-- R140: its bits, below the field, in it and above it. -/
theorem testBit_replaceField (f a p n j : Nat) :
    (f - fieldOf f p n * 2 ^ p + fieldOf a 0 n * 2 ^ p).testBit j
      = if p ≤ j ∧ j < p + n then a.testBit (j - p) else f.testBit j := by
  rw [replaceField_parts, Nat.testBit_two_pow_mul_add _ (Nat.mod_lt _ (Nat.two_pow_pos p)),
    Nat.testBit_two_pow_mul_add _ (Nat.mod_lt _ (Nat.two_pow_pos n)), Nat.testBit_mod_two_pow, Nat.testBit_mod_two_pow,
    Nat.testBit_div_two_pow, Nat.testBit_div_two_pow]
  by_cases hbelow : j < p
  · have hout : ¬(p ≤ j ∧ j < p + n) := by omega
    rw [if_pos hbelow, if_neg hout, decide_eq_true hbelow, Bool.true_and]
  · rw [if_neg hbelow]
    by_cases hin : j - p < n
    · have hfield : p ≤ j ∧ j < p + n := by omega
      rw [if_pos hin, if_pos hfield, decide_eq_true hin, Bool.true_and]
    · have hout : ¬(p ≤ j ∧ j < p + n) := by omega
      have hindex : j - p - n + n + p = j := by omega
      rw [if_neg hin, if_neg hout, hindex]

/-- The bits of a word that a list of 32 bits makes. -/
theorem eq_ofBoolListLE_range (x : Word) (h : Nat → Bool) (hx : ∀ i < 32, x.getLsbD i = h i) :
    x = BitVec.ofBoolListLE ((List.range 32).map h) := by
  refine BitVec.eq_of_getLsbD_eq fun i hi => ?_
  rw [hx i hi]
  exact (BitVec.getLsbD_ofBoolListLE.trans (by simp [hi])).symm

theorem bfiWord_eq (a b f : Word) :
    bfiWord a b f = BitVec.ofBoolListLE ((List.range 32).map fun i =>
      if (cut b).1 ≤ i ∧ i < (cut b).1 + (cut b).2 then a.getLsbD (i - (cut b).1) else f.getLsbD i) := by
  refine eq_ofBoolListLE_range _ _ fun i hi => ?_
  rw [bfiWord, BitVec.getLsbD_ofNat, testBit_replaceField, cut_eq, decide_eq_true hi, Bool.true_and]
  rfl

theorem bitfields : Claim.Bitfields := by
  intro e d b a
  refine ⟨spelled_major rfl rfl, spelled_major rfl rfl, spelled_major rfl rfl, (writes_bfxN e d a b).congr fun x => ?_,
    (writes_bfxZ e d a b).congr fun x => ?_, (writes_bfi e d a b).congr fun x => bfiWord_eq x.a x.b x.c⟩
  · rw [cut_eq, bfxN, fieldOf]
  · rw [cut_eq, bfxZ, signExtend_field]

/-! ### The integer forms of IUN (R141) -/

/-- A value that fits Z32 is neither wrapped nor clamped. -/
theorem narrow_fits {mod : Nat} (hm : mod ≤ 1) {x : Int} (hlo : -2 ^ 31 ≤ x) (hhi : x < 2 ^ 31) : narrow mod x = BitVec.ofInt 32 x := by
  have h2 : mod ≠ 2 := by omega
  have hx : max (-2 ^ 31) (min (2 ^ 31 - 1) x) = x := by omega
  rw [narrow_eq, if_neg h2, hx, ite_self]

/-- The values of the words but the least lie symmetrically about 0. -/
theorem toInt_bounds {a : Word} (h : a ≠ 0x80000000#32) : -2 ^ 31 < a.toInt ∧ a.toInt < 2 ^ 31 := by
  have hne : a.toInt ≠ -2 ^ 31 := fun he => h (BitVec.eq_of_toInt_eq (he.trans (by decide)))
  have hlo := BitVec.le_toInt a
  have hhi := BitVec.toInt_lt (x := a)
  omega

theorem negWord_eq (a : Word) {mod : Nat} (hm : mod ≤ 1) :
    negWord mod a = if mod = 1 ∧ a = 0x80000000#32 then 0x7FFFFFFF#32 else -a := by
  by_cases ha : a = 0x80000000#32
  · subst ha
    interval_cases mod <;> decide
  · obtain ⟨hlo, hhi⟩ := toInt_bounds ha
    rw [negWord, narrow_fits hm (by omega) (by omega), BitVec.ofInt_neg, BitVec.ofInt_toInt, if_neg fun h => ha h.2]

theorem absWord_eq (a : Word) {mod : Nat} (hm : mod ≤ 1) :
    absWord mod a = if mod = 1 ∧ a = 0x80000000#32 then 0x7FFFFFFF#32 else a.abs := by
  by_cases ha : a = 0x80000000#32
  · subst ha
    interval_cases mod <;> decide
  · obtain ⟨hlo, hhi⟩ := toInt_bounds ha
    have habs : a.abs.toInt = a.toInt.natAbs := BitVec.toInt_abs_eq_natAbs_of_ne_intMin ha
    rw [absWord, narrow_fits hm (by omega) (by omega), ← habs, BitVec.ofInt_toInt, if_neg fun h => ha h.2]

/-- R141: the highest 1 bit stands below the leading zeros. -/
theorem clzWord_eq (a : Word) : BitVec.ofNat 32 (clzWord a) = a.clz := by
  by_cases ha : a = 0
  · rw [clzWord, if_pos ha]
    exact (BitVec.clz_eq_iff_eq_zero.2 ha).symm
  · have hne : a.toNat ≠ 0 := fun h => ha (BitVec.eq_of_toNat_eq h)
    have hcount : a.clz.toNat < 32 := BitVec.clz_lt_iff_ne_zero.2 ha
    have hlow := BitVec.two_pow_sub_clz_le_toNat_of_ne_zero (by decide) ha
    have hhigh := BitVec.toNat_lt_two_pow_sub_clz (x := a)
    have hlog : Nat.log2 a.toNat = 31 - a.clz.toNat := (Nat.log2_eq_iff hne).2 ⟨hlow, by
      rwa [show 31 - a.clz.toNat + 1 = 32 - a.clz.toNat by omega]⟩
    rw [clzWord, if_neg ha, hlog, Nat.sub_sub_self (Nat.le_of_lt_succ hcount), BitVec.ofNat_toNat, BitVec.setWidth_eq]

/-- The first number below `n` that passes a test, else `n`, is the count of those before it. -/
theorem length_takeWhile_range (p : Nat → Bool) (n : Nat) :
    ((List.range n).takeWhile fun i => !p i).length = ((List.range n).find? p).getD n := by
  rw [List.takeWhile_eq_take_findIdx_not, List.find?_eq_getElem?_findIdx]
  simp only [Bool.not_not, List.length_take, List.length_range]
  by_cases h : (List.range n).findIdx p < n
  · simp [h, Nat.le_of_lt h]
  · simp [h, Nat.le_of_not_lt h]

theorem ctzWord_eq (a : Word) : ctzWord a = ((List.range 32).takeWhile fun i => !a.getLsbD i).length :=
  (length_takeWhile_range a.getLsbD 32).symm

theorem popWord_eq (a : Word) : popWord a = (List.range 32).countP a.getLsbD := List.countP_eq_length_filter.symm

theorem getLsbD_oneBit {i j : Nat} (hj : j < 32) : (oneBit i).getLsbD j = decide (i = j) := by
  rw [oneBit, BitVec.getLsbD_ofNat, Nat.testBit_two_pow, decide_eq_true hj, Bool.true_and]

/-- The bits that a fold sets, each where its number says. -/
theorem getLsbD_foldl_oneBit (p : Nat → Bool) (pos : Nat → Nat) (is : List Nat) (x : Word) {j : Nat} (hj : j < 32) :
    (is.foldl (fun x i => if p i then x ||| oneBit (pos i) else x) x).getLsbD j
      = (x.getLsbD j || is.any fun i => p i && decide (pos i = j)) := by
  induction is generalizing x with
  | nil => simp
  | cons i is ih =>
    rw [List.foldl_cons, ih, List.any_cons]
    cases p i with
    | false => simp
    | true => simp [getLsbD_oneBit hj, Bool.or_assoc]

theorem brevWord_eq (a : Word) : brevWord a = a.reverse := by
  refine BitVec.eq_of_getLsbD_eq fun j hj => ?_
  have hany : ((List.range 32).any fun i => a.getLsbD i && decide (31 - i = j)) = a.getLsbD (31 - j) := by
    rw [Bool.eq_iff_iff, List.any_eq_true]
    constructor
    · rintro ⟨i, hi, hbit⟩
      rw [Bool.and_eq_true, decide_eq_true_eq] at hbit
      rw [List.mem_range] at hi
      rw [show 31 - j = i by omega]
      exact hbit.1
    · intro hbit
      refine ⟨31 - j, List.mem_range.2 (by omega), ?_⟩
      rw [hbit, Bool.true_and, decide_eq_true_eq]
      omega
  rw [brevWord, getLsbD_foldl_oneBit _ _ _ _ hj, hany, BitVec.getLsbD_reverse, BitVec.getMsbD, decide_eq_true hj]
  simp

/-- R141: the low bits of a word, taken by a mask. -/
theorem zeroExtend_low (a : Word) (n : Nat) (hn : n ≤ 32) : (a.extractLsb' 0 n).zeroExtend 32 = a &&& BitVec.ofNat 32 (2 ^ n - 1) := by
  have hmask : 2 ^ n - 1 < 2 ^ 32 := Nat.lt_of_lt_of_le (Nat.sub_lt (Nat.two_pow_pos n) one_pos) (Nat.pow_le_pow_right (by decide) hn)
  have hlow : a.toNat % 2 ^ n < 2 ^ 32 := (Nat.mod_le _ _).trans_lt a.isLt
  apply BitVec.eq_of_toNat_eq
  rw [BitVec.toNat_and, BitVec.toNat_ofNat, Nat.mod_eq_of_lt hmask, Nat.and_two_pow_sub_one_eq_mod, BitVec.zeroExtend,
    BitVec.toNat_setWidth, BitVec.extractLsb'_toNat, Nat.shiftRight_zero, Nat.mod_eq_of_lt hlow]

theorem ruleMod1_mods : ∀ m ∈ ruleMod1.mods, m ≤ 1 := by decide

theorem integerUnary : Claim.IntegerUnary := by
  intro e d a
  exact ⟨writes_iunMov e d a, writes_iunNot e d a,
    (writes_iunNeg e d a).congr_mod ruleMod1_mods fun x hm => negWord_eq x.a hm,
    (writes_iunAbs e d a).congr_mod ruleMod1_mods fun x hm => absWord_eq x.a hm,
    (writes_iunPopc e d a).congr fun x => congrArg _ (popWord_eq x.a),
    (writes_iunClz e d a).congr fun x => clzWord_eq x.a,
    (writes_iunCtz e d a).congr fun x => congrArg _ (ctzWord_eq x.a),
    (writes_iunBrev e d a).congr fun x => brevWord_eq x.a,
    writes_iunBswap e d a,
    (writes_iunSext8 e d a).congr fun _ => congrArg _ (BitVec.setWidth_eq_extractLsb' (by decide)).symm,
    (writes_iunSext16 e d a).congr fun _ => congrArg _ (BitVec.setWidth_eq_extractLsb' (by decide)).symm,
    (writes_iunZext8 e d a).congr fun x => zeroExtend_low x.a 8 (by decide),
    (writes_iunZext16 e d a).congr fun x => zeroExtend_low x.a 16 (by decide),
    writes_iunFneg e d a, writes_iunFabs e d a⟩

/-- Settles O4: the bitfield words through `cut_eq`, the forms of IUN value by value. -/
theorem bitfieldsAndUnary : Obligations.BitfieldsAndUnary := ⟨bitfields, integerUnary⟩

end Sys2Proof
end

section
/-! PROOFS. BRI, which acts on the threads of a group one by one (R161), and TRAPC at the end of its clause (R164). -/

namespace Sys2Proof

open Machine Laws

/-! ### Acting on the threads of a group one by one -/

/-- Changing one thread, as a change of every thread. -/
theorem modThread_eq (g : Group) (l : Lane) (f : Thread → Thread) :
    g.modThread l f = g.mapThreads fun x t => if x = l then f t else t := by
  have hv : g.threads.set l (f g.threads[l]) = Vector.ofFn fun x : Fin 32 => if x = l then f g.threads[x] else g.threads[x] := by
    apply Vector.ext
    intro i hi
    by_cases h : l.val = i
    · subst h; simp
    · have hne : (⟨i, hi⟩ : Fin 32) ≠ l := fun e => h (by rw [← e])
      simp [h, hne]
  unfold Group.modThread Group.mapThreads
  rw [hv]

/-- A fold over lanes of a group that stands in its slot, each of which changes its own thread as `f` does, while that thread is as it was. -/
theorem foldl_lanes {s : State} {c : CoreId} {k : Slot} {g : Group} {step : State → Lane → State} {f : Lane → Thread → Thread} {ls : List Lane}
    (hd : ls.Nodup)
    (hf : ∀ l ∈ ls, ∀ (h : Group) (v : Vector (Option Group) 32), v[k] = some h → h.handler = g.handler → h.threads[l] = g.threads[l] →
      step (withSlots s c v) l = withSlots s c (v.set k (some (h.mapThreads fun x t => if x = l then f l t else t)))) :
    ∀ (h : Group) (v : Vector (Option Group) 32), v[k] = some h → h.handler = g.handler → (∀ l ∈ ls, h.threads[l] = g.threads[l]) →
      ls.foldl step (withSlots s c v) = withSlots s c (v.set k (some (h.mapThreads fun l t => if l ∈ ls then f l t else t))) := by
  induction ls with
  | nil =>
    intro h v hk _ _
    have hnone : (h.mapThreads fun l t => if l ∈ [] then f l t else t) = h := mapThreads_id h _ fun _ => if_neg List.not_mem_nil
    rw [hnone]
    exact withSlots_keep hk
  | cons l ls ih =>
    intro h v hk hh ht
    obtain ⟨hl, hd⟩ := List.nodup_cons.1 hd
    have hthreads : (h.mapThreads fun x t => if x = l then f l t else t).mapThreads (fun x t => if x ∈ ls then f x t else t)
        = h.mapThreads fun x t => if x ∈ l :: ls then f x t else t := by
      rw [mapThreads_mapThreads]
      refine mapThreads_congr fun x => ?_
      by_cases hx : x = l
      · subst hx; simp [hl]
      · simp [hx]
    have hrest : ∀ x ∈ ls, (h.mapThreads fun x t => if x = l then f l t else t).threads[x] = g.threads[x] := fun x hx => by
      have hne : x ≠ l := fun e => hl (e ▸ hx)
      rw [mapThreads_thread, if_neg hne]
      exact ht x (List.mem_cons_of_mem _ hx)
    rw [List.foldl_cons, hf l List.mem_cons_self h v hk hh (ht l List.mem_cons_self),
      ih hd (fun x hx => hf x (List.mem_cons_of_mem _ hx)) _ _ (Vector.getElem_set_self _) ((mapThreads_handler _ _).trans hh) hrest,
      hthreads, Vector.set_set]

/-- A fold over the threads that a member holds of a group that stands in its slot. -/
theorem foldl_memberLanes {s : State} {c : CoreId} {m : Member} {g : Group} {step : State → Lane → State} {f : Group → Lane → Thread → Thread}
    {v : Vector (Option Group) 32} (hk : v[m.slot] = some g)
    (hf : ∀ l : Lane, hasBit m.sel l = true → ∀ (h : Group) (v : Vector (Option Group) 32), v[m.slot] = some h → h.handler = g.handler →
      h.threads[l] = g.threads[l] →
      step (withSlots s c v) l = withSlots s c (v.set m.slot (some (h.mapThreads fun x t => if x = l then f g l t else t)))) :
    m.lanes.foldl step (withSlots s c v) = withSlots s c (v.set m.slot (some (selected m f g))) := by
  have hmem : ∀ l : Lane, l ∈ m.lanes ↔ hasBit m.sel l = true := fun l => by simp [Member.lanes, maskLanes]
  have hnd : m.lanes.Nodup := List.Nodup.filter _ (List.nodup_finRange 32)
  rw [foldl_lanes hnd (fun l hl => hf l ((hmem l).1 hl)) g v hk rfl fun _ _ => rfl]
  simp only [hmem, selected]

/-! ### Threads that trap (R398, R400) -/

/-- R398, R400: a thread that has raised a trap at the word, or past it under `after`; the first trap that it has recorded stays. -/
def trappedThread (b : Bundle) (after : Bool) (cls : Nat) (detail : List Word) (t : Thread) : Thread :=
  { (t.standAt b (if after then b.idx + 1 else b.here) .ready) with trap := some (t.trap.getD ⟨cls, b.offset b.here, detail⟩) }

/-- R398: a trap for lanes of a group, thread by thread. -/
theorem trapping_eq (b : Bundle) (after : Bool) (lanes : Lane → Bool) (cls : Nat) (detail : List Word) (g : Group) :
    trapping b after lanes cls detail g = g.mapThreads fun l t => if lanes l && !t.gone then trappedThread b after cls detail t else t := rfl

/-- R398: a trap for one thread of a group, which has not exited. -/
theorem trapping_lane {b : Bundle} {after : Bool} {l : Lane} {cls : Nat} {detail : List Word} {g : Group} (hg : (g.threads[l]).gone = false) :
    trapping b after (fun x => x == l) cls detail g = g.mapThreads fun x t => if x = l then trappedThread b after cls detail t else t := by
  rw [trapping_eq]
  refine mapThreads_congr fun x => ?_
  by_cases hx : x = l
  · subst hx
    rw [hg, beq_self_eq_true, if_pos rfl]
    rfl
  · rw [beq_eq_false_iff_ne.2 hx, if_neg hx]
    rfl

/-! ### BRI (R161) -/

/-- R161: the low bits that make an offset misaligned. -/
theorem extract_low_two (x : Word) : x.extractLsb' 0 2 = 0 ↔ x.toNat % 4 = 0 := by
  rw [← BitVec.toNat_inj, BitVec.extractLsb'_toNat, Nat.shiftRight_zero]
  rfl

/-- R161: a thread whose offset is misaligned traps. -/
theorem jumpedThread_misaligned {b : Bundle} {size : Nat} {x : Word} {t : Thread} (h : x.toNat % 4 ≠ 0) :
    jumpedThread b size x t = trappedThread b false 0x07 (vaDetail 0 0) t :=
  if_pos fun e => h ((extract_low_two x).1 e)

/-- R161: a thread whose offset lies beyond the code image traps. -/
theorem jumpedThread_beyond {b : Bundle} {size : Nat} {x : Word} {t : Thread} (h : x.toNat % 4 = 0) (hs : size ≤ x.toNat) :
    jumpedThread b size x t = trappedThread b false 0x06 (vaDetail 4 0) t :=
  (if_neg fun e => e ((extract_low_two x).2 h)).trans (if_pos hs)

/-- R161: a thread whose offset is that of a word of the code image jumps. -/
theorem jumpedThread_within {b : Bundle} {size : Nat} {x : Word} {t : Thread} (h : x.toNat % 4 = 0) (hs : ¬size ≤ x.toNat) :
    jumpedThread b size x t = t.goto x :=
  (if_neg fun e => e ((extract_low_two x).2 h)).trans (if_neg hs)

/-- R161: BRI for one thread, whose offset is `x`. -/
def briStep (b : Bundle) (k : Slot) (size : Nat) (x : Word) (s : State) (l : Lane) : State :=
  if x.toNat % 4 ≠ 0 then s.raise b k (fun y => y == l) 0x07 (vaDetail 0 0)
  else if size ≤ x.toNat then s.raise b k (fun y => y == l) 0x06 (vaDetail 4 0)
  else s.modGroup b.core k fun g => g.modThread l fun t => t.goto x

/-- R114, R161: BRI moves the threads of a group that has the register one by one. -/
theorem execBri_eq (a : Fin 128) (s : State) :
    exec (.bri a) s = issue (flowInfo [Block.one a]) (fun b _ s => s.eachMember b fun m s => match s.group? b.core m.slot with
      | none => s
      | some g => if g.inAllot a.val then
          m.lanes.foldl (fun u l => briStep b m.slot (4 * (s.codeOf g).length) ((g.threads[l]).lane g.ring a.val) u l) s
        else s.raise b m.slot (fun l => hasBit m.sel l) 0x02 [b.current, BitVec.ofNat 32 (b.idx + 1)]) s := rfl

/-- R161: BRI for one thread changes that thread; one that traps is in no handler. -/
theorem briStep_slots {s : State} {b : Bundle} {k : Slot} {size : Nat} {x : Word} {l : Lane} {g : Group} {v : Vector (Option Group) 32}
    (hk : v[k] = some g) (hg : (g.threads[l]).gone = false) (hh : g.handler = none ∨ (x.toNat % 4 = 0 ∧ ¬size ≤ x.toNat)) :
    briStep b k size x (withSlots s b.core v) l
      = withSlots s b.core (v.set k (some (g.mapThreads fun y t => if y = l then jumpedThread b size x t else t))) := by
  unfold briStep
  by_cases hx : x.toNat % 4 = 0
  · by_cases hs : size ≤ x.toNat
    · have hn : g.handler = none := hh.resolve_right fun h => h.2 hs
      rw [if_neg (not_not.2 hx), if_pos hs, raise_slots _ _ _ _ hk hn, trapping_lane hg]
      simp only [jumpedThread_beyond hx hs]
    · rw [if_neg (not_not.2 hx), if_neg hs, withSlots_modGroup, hk, Option.map_some, modThread_eq]
      simp only [jumpedThread_within hx hs]
  · have hn : g.handler = none := hh.resolve_right fun h => hx h.1
    rw [if_pos hx, raise_slots _ _ _ _ hk hn, trapping_lane hg]
    simp only [jumpedThread_misaligned hx]

/-- Settles O15: thread by thread, each the effect of BRI on a thread that is still as it was. -/
theorem indirectBranch : Obligations.IndirectBranch := by
  unfold Obligations.IndirectBranch
  intro a
  refine flow_completes (f := fun s b g _ t => jumpedThread b (4 * (s.codeOf g).length) (t.lane g.ring a.val) t) (execBri_eq a) rfl rfl
    fun s b h hx => eachMember_present h.slots fun m hm g hg v hk => ?_
  obtain ⟨hin, hok⟩ := hx
  rw [if_pos (hin _ (mem_groupsOf hm hg))]
  refine foldl_memberLanes hk fun l hl x w hw hh ht => ?_
  have hgone : (x.threads[l]).gone = false := by
    rw [ht, Thread.gone, members_run hm hg hl]
    rfl
  have hside : x.handler = none ∨ (((g.threads[l]).lane g.ring a.val).toNat % 4 = 0 ∧ ¬4 * (s.codeOf g).length ≤ ((g.threads[l]).lane g.ring a.val).toNat) := by
    rcases hok with hno | hin
    · exact .inl (hh.trans (hno m hm g hg))
    · obtain ⟨h0, h1⟩ := hin _ (mem_groupsOf hm hg) l hl
      exact .inr ⟨(extract_low_two _).1 h0, Nat.not_le.2 h1⟩
  refine (briStep_slots hw hgone hside).trans ?_
  have hthreads : (x.mapThreads fun y t => if y = l then jumpedThread b (4 * (s.codeOf g).length) ((g.threads[l]).lane g.ring a.val) t else t)
      = x.mapThreads fun y t => if y = l then jumpedThread b (4 * (s.codeOf g).length) (t.lane g.ring a.val) t else t :=
    mapThreads_congr fun y => by
      by_cases hy : y = l
      · subst hy; simp [ht]
      · simp [hy]
  rw [hthreads]

end Sys2Proof
end

section
/-! PROOFS. TRAPC at the end of its clause (R164). Its effect traps some of the threads that the guard selected and leaves the others in
the bundle; the end of the clause has those stand at the next one (R49). -/

namespace Sys2Proof

open Machine Laws

/-! ### Positions of threads -/

/-- The threads stand at one place: what `Kept` says of a thread in no bundle. -/
def SamePlace (t u : Thread) : Prop := u.pc = t.pc ∧ u.run = t.run ∧ u.inside = t.inside

theorem SamePlace.symm_trans {t u v : Thread} (a : SamePlace t u) (b : SamePlace t v) : SamePlace u v := by
  obtain ⟨hpc, hrun, hin⟩ := a
  obtain ⟨hpc', hrun', hin'⟩ := b
  exact ⟨hpc'.trans hpc.symm, hrun'.trans hrun.symm, hin'.trans hin.symm⟩

/-- Two changes of the threads of a group that differ in positions only. -/
theorem GroupStill.mapThreads_mapThreads {g : Group} {f h : Lane → Thread → Thread}
    (e : ∀ l : Lane, ThreadStill (g.mapThreads f).threads[l] (g.mapThreads h).threads[l]) : GroupStill (g.mapThreads f) (g.mapThreads h) := by
  have hh : g.mapThreads h = (g.mapThreads f).mapThreads fun l _ => h l g.threads[l] := by
    rw [Laws.mapThreads_mapThreads]
    exact mapThreads_congr fun _ => rfl
  rw [hh]
  refine .mapThreads _ _ fun l => ?_
  have hl := e l
  rwa [mapThreads_thread g h] at hl

/-! ### Two effects on the groups of a bundle that differ in positions only -/

theorem onGroups_group (s : State) (b : Bundle) (F : Member → Group → Group) (k : Slot) :
    (onGroups s b F).group? b.core k = match (s.members b).find? fun m => m.slot == k with
      | some m => (s.group? b.core k).map (F m)
      | none => s.group? b.core k :=
  (congrArg (·.group? b.core k) (onGroups_eq s b F)).trans ((withSlots_group ..).trans (slotsOn_slot ..))

/-- Acting on the groups of a bundle leaves those of other cores. -/
theorem onGroups_other (s : State) (b : Bundle) (F : Member → Group → Group) {c : CoreId} (h : c ≠ b.core) (k : Slot) :
    (onGroups s b F).group? c k = s.group? c k := by
  unfold onGroups State.group?
  rw [modCore_other _ _ h]

/-- A slot after two effects on the groups of a bundle: both have left it, or a member of the bundle names it and each has changed its group. -/
theorem onGroups_both (s : State) (b : Bundle) (F G : Member → Group → Group) (c : CoreId) (k : Slot) :
    (onGroups s b F).group? c k = (onGroups s b G).group? c k ∨
    ∃ m ∈ s.members b, ∃ g, c = b.core ∧ k = m.slot ∧ s.group? b.core m.slot = some g ∧
      (onGroups s b F).group? b.core m.slot = some (F m g) ∧ (onGroups s b G).group? b.core m.slot = some (G m g) := by
  by_cases hc : c = b.core
  · subst hc
    rw [onGroups_group, onGroups_group]
    cases hf : (s.members b).find? fun m => m.slot == k with
    | none => exact .inl rfl
    | some m =>
      cases hg : s.group? b.core k with
      | none => exact .inl rfl
      | some g =>
        have hk : m.slot = k := by simpa using List.find?_some hf
        subst hk
        exact .inr ⟨m, List.mem_of_find?_eq_some hf, g, rfl, rfl, hg, by rw [onGroups_group, hf, hg]; rfl, by rw [onGroups_group, hf, hg]; rfl⟩
  · exact .inl ((onGroups_other s b F hc k).trans (onGroups_other s b G hc k).symm)

/-- A state in each of whose slots stands what differs in positions only. -/
theorem Agrees.withSlots {s : State} {c : CoreId} {v w : Vector (Option Group) 32}
    (h : ∀ k : Slot, v[k] = w[k] ∨ ∃ g x, v[k] = some g ∧ w[k] = some x ∧ GroupStill g x) :
    Agrees (withSlots s c v) (withSlots s c w) := by
  have hw : Sys2Proof.withSlots s c w = (Sys2Proof.withSlots s c v).modCore c fun x => { x with slots := w } := by
    simp [Sys2Proof.withSlots, State.modCore]
  have hv : ((Sys2Proof.withSlots s c v).cores[c]).slots = v := by simp [Sys2Proof.withSlots]
  have hslots : w.map (Option.map stillGroup) = v.map (Option.map stillGroup) := by
    apply Vector.ext
    intro i hi
    rw [Vector.getElem_map, Vector.getElem_map]
    rcases h ⟨i, hi⟩ with he | ⟨g, x, hg, hx, hs⟩
    · exact congrArg _ he.symm
    · exact (congrArg _ hx).trans ((congrArg some hs.still).trans (congrArg (Option.map stillGroup) hg).symm)
  rw [hw]
  refine .modCore _ _ _ (by simp only [stillCore, hv, hslots]) fun k g x hg hx l => ?_
  rw [hv] at hg
  rcases h k with he | ⟨g', x', hg', hx', hs⟩
  · have : some g = some x := hg.symm.trans (he.trans hx)
    cases this
    exact .rfl' _
  · cases hg.symm.trans hg'
    cases hx.symm.trans hx'
    exact hs.kept l

/-- Two effects on the groups of a bundle that differ in positions only. -/
theorem Agrees.onGroups {s : State} {b : Bundle} {F G : Member → Group → Group}
    (h : ∀ m ∈ s.members b, ∀ g, s.group? b.core m.slot = some g → GroupStill (F m g) (G m g)) :
    Agrees (onGroups s b F) (onGroups s b G) := by
  rw [onGroups_eq, onGroups_eq]
  refine .withSlots fun k => ?_
  rw [← withSlots_group s b.core (slotsOn s b.core (s.members b) F) k, ← withSlots_group s b.core (slotsOn s b.core (s.members b) G) k,
    ← onGroups_eq, ← onGroups_eq]
  rcases onGroups_both s b F G b.core k with he | ⟨m, hm, g, -, rfl, hg, hF, hG⟩
  · exact .inl he
  · exact .inr ⟨_, _, hF, hG, h m hm g hg⟩

/-- What agrees with an effect agrees with one that also says where some threads of the bundle stand, if they stand there. -/
theorem Agrees.moved {s t : State} {b : Bundle} {F G : Member → Group → Group} (a : Agrees (Sys2Proof.onGroups s b F) t)
    (hs : ∀ m ∈ s.members b, ∀ g, s.group? b.core m.slot = some g → GroupStill (F m g) (G m g))
    (hp : ∀ m ∈ s.members b, ∀ g, s.group? b.core m.slot = some g → (Sys2Proof.onGroups s b F).group? b.core m.slot = some (F m g) →
      ∀ h, t.group? b.core m.slot = some h → ∀ l : Lane, ((F m g).threads[l]).run = .member → ((G m g).threads[l]).run ≠ .member →
      SamePlace (G m g).threads[l] h.threads[l]) : Agrees (Sys2Proof.onGroups s b G) t := by
  have au : Agrees (Sys2Proof.onGroups s b F) (Sys2Proof.onGroups s b G) := .onGroups hs
  refine ⟨a.still.trans au.still.symm, fun c k x h hx hh l hne => ?_⟩
  rcases onGroups_both s b F G c k with he | ⟨m, hm, g, rfl, rfl, hg, hF, hG⟩
  · exact a.kept c k x h (he.trans hx) hh l hne
  · cases hG.symm.trans hx
    by_cases hr : ((F m g).threads[l]).run = .member
    · exact hp m hm g hg hF h hh l hr hne
    · exact SamePlace.symm_trans (au.kept _ _ _ _ hF hx l hr) (a.kept _ _ _ _ hF hh l hr)

/-! ### The end of a clause (R49, R95) -/

/-- A fold reaches what one of its steps brings about and every step keeps. -/
theorem foldl_reaches {α β : Type} {f : β → α → β} {P : β → Prop} {x : α} {xs : List α} (hx : x ∈ xs) (hset : ∀ u, P (f u x))
    (hkeep : ∀ u y, P u → P (f u y)) (u : β) : P (xs.foldl f u) := by
  obtain ⟨ys, zs, rfl⟩ := List.append_of_mem hx
  rw [List.foldl_append, List.foldl_cons]
  exact List.foldlRecOn zs f (hset _) fun v hv y _ => hkeep v y hv

/-- R49: a thread that a member of the bundle held stands at the next clause when its clause has ended. -/
theorem endClause_stands {s : State} {b : Bundle} {m : Member} {g : Group} {l : Lane} (hm : m ∈ b.members) (hl : hasBit m.sel l = true)
    (hg : s.group? b.core m.slot = some g) (hr : (g.threads[l]).run = .member) :
    ∀ h, (s.endClause b).group? b.core m.slot = some h → SamePlace (standing g.threads[l] b.after) h.threads[l] := by
  have hlive : hasBit ((s.trim b.core m).sel ||| (s.trim b.core m).skip) l = true := by
    have hsel : hasBit (s.liveOf b.core m.slot m.sel) l = true := by
      simp only [State.liveOf, hg, hasBit_laneMask, hl, hr, beq_self_eq_true, Bool.and_self]
    have hor : hasBit ((s.trim b.core m).sel ||| (s.trim b.core m).skip) l = (hasBit (s.trim b.core m).sel l || hasBit (s.trim b.core m).skip l) :=
      BitVec.getLsbD_or
    rw [hor, show hasBit (s.trim b.core m).sel l = true from hsel, Bool.true_or]
  unfold State.endClause
  refine foldl_reaches (P := fun u => ∀ h, u.group? b.core m.slot = some h → SamePlace (standing g.threads[l] b.after) h.threads[l])
    (List.mem_map_of_mem hm) (fun u h hh => ?_) (fun u n hu h hh => ?_) s
  · obtain ⟨x, -, rfl⟩ := Option.map_eq_some_iff.1 ((modGroup_group u b.core m.slot _).symm.trans hh)
    rw [mapThreads_thread, if_pos hlive]
    exact ⟨rfl, rfl, rfl⟩
  · by_cases hn : n.slot = m.slot
    · rw [hn] at hh
      obtain ⟨x, hx, rfl⟩ := Option.map_eq_some_iff.1 ((modGroup_group u b.core m.slot _).symm.trans hh)
      rw [mapThreads_thread]
      split
      · exact ⟨rfl, rfl, rfl⟩
      · exact hu x hx
    · exact hu h ((modGroup_other u _ fun e => hn (Prod.mk.inj e).2.symm).symm.trans hh)

/-- What follows the end of a clause: its bundle closes, groups that have raised a trap halt, and time passes (`State.finish`). -/
def closed (before : State) (b : Bundle) (i : WordInfo) (s : State) : State :=
  let groups := before.members b
  let s := if b.handler then s else groups.foldl (fun s m => s.modGroup b.core m.slot fun g => g.mapThreads fun l t =>
    if hasBit m.sel l then { t with noBp := false } else t) s
  let s := { s with bundles := s.bundles.tail }
  let s := groups.foldl (fun s m => match s.group? b.core m.slot with
    | some g => if g.mustHalt then s.haltSlot b.core m.slot else s
    | none => s) s
  let s := groups.foldl (fun s m => (s.endGroup b.core m.slot).settleCvs b.core m.slot) s
  (s.purge).elapse b.core (i.cost groups.length)

theorem agrees_closed (before : State) (b : Bundle) (i : WordInfo) (s : State) : Agrees s (closed before b i s) := by
  have hbp : Agrees s (if b.handler then s else (before.members b).foldl (fun s m => s.modGroup b.core m.slot fun g => g.mapThreads fun l t =>
      if hasBit m.sel l then { t with noBp := false } else t) s) :=
    .ite (fun _ => .rfl' s) fun _ => .foldl _ _ _ fun u _ m _ => .modGroup _ _ _ _ fun g _ => .mapThreads g _ fun l => by
      split
      · exact .noBp _ _
      · exact .rfl' _
  unfold closed
  refine (hbp.trans (.bundles _ _)).trans (.trans (.foldl _ _ _ fun u _ m _ => ?_) (.trans (.foldl _ _ _ fun u _ m _ => ?_)
    ((agrees_purge _).trans (agrees_elapse _ _ _))))
  · split
    · exact .ite (fun _ => agrees_haltSlot _ _ _) fun _ => .rfl' _
    · exact .rfl' _
  · exact (agrees_endGroup _ _ _).trans (agrees_settleCvs _ _ _)

/-- R132: a word that writes no lane register notes no landing. -/
theorem noteLanding_self {i : WordInfo} {b : Bundle} (h : i.laneWrites b.pfx = []) (s before : State) (m : Member) :
    s.noteLanding before b i m = s := by
  unfold State.noteLanding
  dsimp only
  rw [if_pos]
  rw [h, List.isEmpty_nil, Bool.or_true]

/-- R49: after the last word of its clause a bundle's clause ends, and the bundle closes. -/
theorem finish_last {s before : State} {b : Bundle} {i : WordInfo} (hl : b.words.length ≤ b.idx + 1) (hw : i.laneWrites b.pfx = []) :
    ∃ sc : Core → Vector Sched 32, s.finish before b i = closed before b i ((s.modCore b.core fun x => { x with sched := sc x }).endClause b) := by
  have hland : ∀ v : State, (before.members b).foldl (fun u m => u.noteLanding before b i m) v = v := fun v =>
    foldl_still fun m _ => noteLanding_self hw v before m
  apply Exists.intro
  unfold State.finish closed
  simp only [hland, hl, decide_true, if_true, List.nil_append]
  rfl

/-- R49: a thread that a member of the bundle held after the last word of its clause stands at the next one. -/
theorem finish_stands {s before : State} {b : Bundle} {i : WordInfo} {m : Member} {g : Group} {l : Lane} (hlast : b.words.length ≤ b.idx + 1)
    (hw : i.laneWrites b.pfx = []) (hm : m ∈ b.members) (hl : hasBit m.sel l = true) (hg : s.group? b.core m.slot = some g)
    (hr : (g.threads[l]).run = .member) :
    ∀ h, (s.finish before b i).group? b.core m.slot = some h → SamePlace (standing g.threads[l] b.after) h.threads[l] := by
  intro h hh
  obtain ⟨sc, he⟩ := finish_last (s := s) (before := before) hlast hw
  rw [he] at hh
  generalize hv : (s.modCore b.core fun x => { x with sched := sc x }) = v at hh
  have hgv : v.group? b.core m.slot = some g := by
    rw [← hv, State.group?, modCore_core]
    exact hg
  have ha := agrees_closed before b i (v.endClause b)
  have hsome := still_group ha.still b.core m.slot
  rw [hh] at hsome
  obtain ⟨x, hx, -⟩ := Option.map_eq_some_iff.1 hsome.symm
  obtain ⟨hpc, hrun, hin⟩ := endClause_stands hm hl hgv hr x hx
  have hne : (x.threads[l]).run ≠ .member := fun e => by
    rw [hrun] at e
    cases e
  obtain ⟨hpc', hrun', hin'⟩ := ha.kept _ _ x h hx hh l hne
  exact ⟨hpc'.trans hpc, hrun'.trans hrun, hin'.trans hin⟩

/-! ### TRAPC (R164) -/

/-- A member's threads are among those of its entry in the bundle. -/
theorem members_entry {s : State} {b : Bundle} {m : Member} (h : m ∈ s.members b) :
    ∃ y ∈ b.members, y.slot = m.slot ∧ ∀ l : Lane, hasBit m.sel l = true → hasBit y.sel l = true := by
  simp only [State.members, List.mem_filter, List.mem_map] at h
  obtain ⟨⟨y, hy, rfl⟩, -⟩ := h
  refine ⟨y, hy, rfl, fun l hl => ?_⟩
  have hl : hasBit (s.liveOf b.core y.slot y.sel) l = true := hl
  unfold State.liveOf at hl
  split at hl
  · rw [hasBit_laneMask, Bool.and_eq_true] at hl
    exact hl.1
  · simp [hasBit] at hl

/-- R67: no PREFIX stands before a word that takes none and passes its static checks. -/
theorem pfx_none_of_issues {s : State} {b : Bundle} {i : WordInfo} (h : Issues s b i) (hr : i.rule.allowed = false) : b.pfx = none := by
  cases hp : b.pfx with
  | none => rfl
  | some p =>
    cases (static_pfx_refused hr p).symm.trans (hp ▸ h.legal)

/-- R164: a thread after TRAPC at the end of its clause. -/
def testedThread (b : Bundle) (q : Fin 64) (sense : Bool) (arg : BitVec 8) (t : Thread) : Thread :=
  if xor (t.pred q.val) sense then { standing t b.after with trap := some (t.trap.getD ⟨0x16, b.offset b.idx, [arg.zeroExtend 32]⟩) } else standing t b.after

/-- R164: the threads of a member for which TRAPC's test is true. -/
def testHit (q : Fin 64) (sense : Bool) (m : Member) (g : Group) (l : Lane) : Bool := hasBit m.sel l && ((g.threads[l]).pred q.val != sense)

/-- R164: the effect of TRAPC on a group, before its clause ends. -/
def testedGroup (b : Bundle) (q : Fin 64) (sense : Bool) (arg : BitVec 8) (m : Member) (g : Group) : Group :=
  trapping b true (testHit q sense m g) 0x16 [arg.zeroExtend 32] g

theorem execTrapc_eq (q : Fin 64) (sense : Bool) (arg : BitVec 8) (s : State) :
    exec (.trapc q sense arg) s = issue (flowInfo []) (fun b _ s => s.eachMember b fun m s => match s.group? b.core m.slot with
      | none => s
      | some g => s.raise b m.slot (testHit q sense m g) 0x16 [arg.zeroExtend 32] (after := true)) s := rfl

/-- R164: TRAPC that issues has its effect on each group of the bundle. -/
theorem execTrapc_next {s : State} {b : Bundle} (h : Issues s b (flowInfo [])) (hno : NoHandler s b) (q : Fin 64) (sense : Bool) (arg : BitVec 8) :
    exec (.trapc q sense arg) s = .next ((onGroups s b (testedGroup b q sense arg)).finish s b (flowInfo [])) := by
  have heff : (s.eachMember b fun m s => match s.group? b.core m.slot with
      | none => s
      | some g => s.raise b m.slot (testHit q sense m g) 0x16 [arg.zeroExtend 32] (after := true)) = onGroups s b (testedGroup b q sense arg) :=
    eachMember_present h.slots fun m hm g hg v hk => raise_slots _ _ _ _ hk (hno m hm g hg)
  rw [execTrapc_eq, issue_next h rfl (by rw [heff]; exact h.clean), heff]

/-- R164, R400: past the last word of its clause a thread that TRAPC's test hits stands at the next clause. -/
theorem trappedThread_last {b : Bundle} {q : Fin 64} {sense : Bool} {arg : BitVec 8} {t : Thread} (hp : b.pfx = none)
    (hlast : b.words.length = b.idx + 1) (ht : (t.pred q.val != sense) = true) :
    trappedThread b true 0x16 [arg.zeroExtend 32] t = testedThread b q sense arg t := by
  have hx : xor (t.pred q.val) sense = true := ht
  have hhere : b.here = b.idx := by rw [Bundle.here, hp]; rfl
  have hstand : t.standAt b (b.idx + 1) .ready = standing t b.after := if_neg (by omega)
  unfold trappedThread testedThread
  rw [if_pos rfl, if_pos hx, hhere, hstand]

section
variable {s : State} {b : Bundle} {m : Member} {g : Group} (q : Fin 64) (sense : Bool) (arg : BitVec 8) (hp : b.pfx = none)
  (hlast : b.words.length = b.idx + 1) (hm : m ∈ s.members b) (hg : s.group? b.core m.slot = some g)
include hp hlast hm hg

/-- R164: a thread after the effect of TRAPC is as the rule has it, or still in the bundle where the rule has it at the next clause. -/
theorem testedGroup_thread (l : Lane) :
    ((testedGroup b q sense arg m g).threads[l] = (selected m (fun _ _ t => testedThread b q sense arg t) g).threads[l]) ∨
    (hasBit m.sel l = true ∧ (testedGroup b q sense arg m g).threads[l] = g.threads[l] ∧
      (selected m (fun _ _ t => testedThread b q sense arg t) g).threads[l] = standing g.threads[l] b.after) := by
  rw [testedGroup, trapping_eq, selected, mapThreads_thread, mapThreads_thread]
  cases hl : hasBit m.sel l with
  | false => simp [testHit, hl]
  | true =>
    have hgone : (g.threads[l]).gone = false := by rw [Thread.gone, members_run hm hg hl]; rfl
    cases ht : ((g.threads[l]).pred q.val != sense) with
    | true =>
      left
      have hhit : testHit q sense m g l = true := by rw [testHit, hl, ht]; rfl
      rw [hhit, hgone, if_pos rfl]
      exact trappedThread_last hp hlast ht
    | false =>
      right
      have hhit : testHit q sense m g l = false := by rw [testHit, hl, ht]; rfl
      have hmiss : ¬xor ((g.threads[l]).pred q.val) sense = true := fun e => Bool.false_ne_true (ht.symm.trans e)
      rw [hhit, Bool.false_and, if_neg Bool.false_ne_true, if_pos rfl]
      exact ⟨rfl, rfl, if_neg hmiss⟩

/-- R164: the effect of TRAPC differs from what the rule has in the positions of threads only. -/
theorem testedGroup_still : GroupStill (testedGroup b q sense arg m g) (selected m (fun _ _ t => testedThread b q sense arg t) g) := by
  refine GroupStill.mapThreads_mapThreads fun l => ?_
  change ThreadStill (testedGroup b q sense arg m g).threads[l] (selected m (fun _ _ t => testedThread b q sense arg t) g).threads[l]
  rcases testedGroup_thread q sense arg hp hlast hm hg l with he | ⟨hl, ht, hu⟩
  · rw [he]
    exact .rfl' _
  · have hr := members_run hm hg hl
    rw [ht, hu]
    exact .move _ _ _ _ _ (by rw [hr]; rfl) hr

end

/-- Settles O16: the threads that the test hits stand at the next clause by their trap, the others by the end of the clause. -/
theorem trapTest : Obligations.TrapTest := by
  unfold Obligations.TrapTest
  intro q sense arg s b h hx
  obtain ⟨hno, hlast⟩ := hx
  have hi : Issues s b (flowInfo []) := h
  have hp : b.pfx = none := pfx_none_of_issues hi rfl
  refine ⟨_, execTrapc_next hi hno q sense arg, (agrees_finish _ s b _).moved (G := fun m => selected m fun _ _ t => testedThread b q sense arg t)
    (fun m hm g hg => testedGroup_still q sense arg hp hlast hm hg) fun m hm g hg hF x hx l hr hne => ?_⟩
  rcases testedGroup_thread q sense arg hp hlast hm hg l with he | ⟨hl, ht, hu⟩
  · exact absurd (he ▸ hr) hne
  · obtain ⟨y, hy, hslot, hsel⟩ := members_entry hm
    rw [← hslot] at hF hx
    rw [hu, ← ht]
    exact finish_stands hlast.le rfl hy (hsel l hl) hF hr x hx

end Sys2Proof
end

section
/-! PROOFS. CVRD and the status word that it returns (R281, R282). -/

namespace Sys2Proof

open Machine Laws

/-! ### The status word (R282) -/

/-- A field of a word, as a number. -/
theorem toNat_extractLsb'_eq_fieldOf (a : Word) (p n : Nat) : (a.extractLsb' p n).toNat = fieldOf a.toNat p n := by
  rw [BitVec.extractLsb'_toNat, Nat.shiftRight_eq_div_pow, fieldOf]

/-- R282: the offset of the MMA word above a low byte that holds the flags. -/
theorem ofNat_offset_flags (a : Word) (flags : BitVec 8) :
    BitVec.ofNat 32 (fieldOf a.toNat 2 24 * 2 ^ 8 + flags.toNat) = a.extractLsb' 2 24 ++ flags := by
  have hword : (a.extractLsb' 2 24 ++ flags).toNat = fieldOf a.toNat 2 24 * 2 ^ 8 + flags.toNat := by
    rw [BitVec.toNat_append, ← Nat.shiftLeft_add_eq_or_of_lt flags.isLt, Nat.shiftLeft_eq, toNat_extractLsb'_eq_fieldOf]
  rw [← hword, BitVec.ofNat_toNat]
  rfl

theorem status_eq (c : Cv) : c.status = cvStatus c := by
  unfold Cv.status cvStatus
  cases c.st with
  | empty => rfl
  | idle => rfl
  | open_ => exact ofNat_offset_flags c.fword 2
  | postwait => exact ofNat_offset_flags c.fword 6

/-- R282: the fields of a status word whose low byte holds the flags. -/
theorem offset_flags_fields (word : BitVec 24) (flags : BitVec 8) :
    (word ++ flags).extractLsb' 8 24 = word ∧ (word ++ flags).extractLsb' 3 5 = flags.extractLsb' 3 5 ∧
    (word ++ flags).getLsbD 2 = flags.getLsbD 2 ∧ (word ++ flags).extractLsb' 0 2 = flags.extractLsb' 0 2 :=
  ⟨BitVec.extractLsb'_append_eq_left, BitVec.extractLsb'_append_eq_of_add_le (by decide), BitVec.getLsbD_append.trans (if_pos (by decide)),
    BitVec.extractLsb'_append_eq_of_add_le (by decide)⟩

/-- R282: each state has the fields that the table gives it; WORD stands in the two states that an MMA word opened. -/
theorem cvStatusFields (c : Cv) : CvStatusFields c := by
  unfold CvStatusFields cvStatus
  cases c.st with
  | empty => exact offset_flags_fields 0 0
  | idle => exact offset_flags_fields 0 1
  | open_ => exact offset_flags_fields (c.fword.extractLsb' 2 24) 2
  | postwait => exact offset_flags_fields (c.fword.extractLsb' 2 24) 6

/-! ### CVRD (R281) -/

/-- R281: CVRD writes three uniform registers of each group from its convergence register. -/
theorem writes_cvrd (d : Fin 128) (n : Fin 8) : WritesGroups (.cvrd d n) fun _ _ _ g =>
    { g with s := ((g.s.set (regIx d.val) (g.cv[n]).mask).set (regIx (d.val + 1)) (g.cv[n]).signed).set (regIx (d.val + 2)) (cvStatus g.cv[n]) } := by
  have h := uniWrite_writes (i := .cvrd d n) (w := cvrdInfo d)
    (f := fun g => ((g.setUni d.val (g.cv[n]).mask).setUni (d.val + 1) (g.cv[n]).signed).setUni (d.val + 2) (g.cv[n]).status)
    (fun _ => rfl) rfl rfl
  simp only [Group.setUni, status_eq] at h
  exact h

/-- Settles O32: the fields of the status word in each state, and what CVRD writes. -/
theorem convergenceStatus : Obligations.ConvergenceStatus := by
  unfold Obligations.ConvergenceStatus
  exact ⟨cvStatusFields, fun d n s b h _ => writes_cvrd d n s b h fun _ _ _ _ => trivial⟩

end Sys2Proof
end
